-- ==== Sys2Proof/Word.lean ====
section
/-! DEFINITION. The machine's word types (R2: little-endian, bit 0 least significant) and nothing else. -/

namespace Sys2Proof

/-- A register word, an instruction word, an address while it is computed (R67, R97). -/
abbrev Word := BitVec 64

/-- One byte of a store or a tile. -/
abbrev Byte := BitVec 8

/-- One byte at an address, the host's cell. -/
abbrev Cell := Host.Cell

/-- A sparse table: strictly rising keys, and no entry equal to what an unlisted key reads as.
Registers, memories, tiles and every numbered object of the machine are held so. -/
abbrev Table (α : Type) := List (Nat × α)

/-- A byte store, sparse: an unlisted address reads as zero (R8). -/
abbrev Memory := Table Byte

end Sys2Proof
end

