-- ==== Sys2Proof/Config.lean ====
section
/-! DEFINITION. What one part fixes (R1, R24, R194) and the free values: opaque constants without a body, each named in the
assumption log, so that nothing can be proved about the value they give. -/

namespace Sys2Proof.Config

/-- Dies of the part, clusters per die, cores per cluster, slots per core (R1). -/
def dies : Nat := 4
def clustersPerDie : Nat := 12
def coresPerCluster : Nat := 8
def slotsPerCore : Nat := 8
/-- Physical tiles of a core (R100). -/
def tilesPerCore : Nat := 256
/-- Bytes of a tile (R102). -/
def tileBytes : Nat := 2048
/-- Bytes of device memory per die: 192 GiB (R194). -/
def dieBytes : Nat := 192 * 2 ^ 30
/-- The reserved top of each die's range: 512 MiB (R194). -/
def reservedBytes : Nat := 512 * 2 ^ 20
/-- Directory entries of a die (R207). -/
def directoryEntries : Nat := 16842752
/-- Entries of an engine queue (R114). -/
def queueDepth : Nat := 16
/-- Words of FQ (R268). -/
def fqDepth : Nat := 16
/-- Work queues (R35). -/
def workQueues : Nat := 4096
/-- The owner identifiers of the Factor and the host (R202). -/
def factorId : Nat := 0x80000000
def hostId : Nat := 0x70000000
/-- The identifier of the prefix table, kind 5 (R202). -/
def prefixId : Nat := 0x50000000
/-- The number of this device in the pod, read by peer addressing and ring tables (R183, R368).
The manual fixes none: a free value (log entry 7). -/
opaque deviceNumber : Nat

/-- Which of the two bracketing values a faithful special function gives (R177): a fixed function of the
function's code and the input bits (log entry 8). True means the larger magnitude. -/
opaque faithfulUp (fn : Nat) (bf16 : Bool) (bits : Nat) : Bool

/-- One bit of the device's entropy source, by draw number (R287, log entry 9). -/
opaque entropyBit (draw : Nat) : Bool

/-- A free bit, by draw number: the old or the new value of a raced word (R13, log entry 10). -/
opaque freeBit (draw : Nat) : Bool

/-- A free word, by draw number, for a value the manual leaves open (log entry 11). -/
opaque freeValue (draw : Nat) : BitVec 64

/-- The MSI-X vector that carries a kind of signal to the host (R384): 0 a page request, 1 a fault record, 2 a queue fault. The
manual assigns none: a free value (log entry 74). -/
opaque msixVector (kind : Nat) : BitVec 6

/-- Bytes of the signatures of an attestation report, which only the device's keys give (R15, R17, log entry 12): byte `i` over a
message, with the provisioned keys or with keys that an alarm has zeroed. -/
opaque attestByte (keys : Bool) (message i : Nat) : BitVec 8

end Sys2Proof.Config
end

