-- ==== Sys2Proof/Syntax.lean ====
section
/-! DEFINITION. Every row of spec/opcode_table.json as a constructor of Instr. An instruction word's constructor carries
the fields of its format as they stand in the word (R70, R73). -/

namespace Sys2Proof

/-- Format A (R70): guard, three register fields, a size and a third register field. -/
structure FA where
  g : BitVec 4
  xd : BitVec 6
  xa : BitVec 6
  xb : BitVec 6
  sz : BitVec 2
  xc : BitVec 6
  deriving DecidableEq, Repr

/-- Format I (R70). -/
structure FI where
  g : BitVec 4
  xd : BitVec 6
  xa : BitVec 6
  imm : BitVec 32
  deriving DecidableEq, Repr

/-- Format J (R70). -/
structure FJ where
  g : BitVec 4
  xa : BitVec 6
  xb : BitVec 6
  aux : BitVec 4
  off : BitVec 32
  deriving DecidableEq, Repr

/-- Format M of loads and stores (R70). In STC the field sx is MC (R215). -/
structure FM where
  g : BitVec 4
  xt : BitVec 6
  xa : BitVec 6
  xi : BitVec 6
  sh : BitVec 2
  sz : BitVec 3
  sx : BitVec 1
  cls : BitVec 4
  scope : BitVec 3
  cp : BitVec 2
  sem : BitVec 3
  disp : BitVec 16
  deriving DecidableEq, Repr

/-- Format M, atomic (R70). -/
structure FX where
  g : BitVec 4
  xt : BitVec 6
  xa : BitVec 6
  xi : BitVec 6
  sz : BitVec 3
  sx : BitVec 1
  cls : BitVec 4
  scope : BitVec 3
  cp : BitVec 2
  sem : BitVec 3
  disp : BitVec 8
  aop : BitVec 8
  deriving DecidableEq, Repr

/-- Format M, CLAIM (R70, R359). -/
structure FC where
  g : BitVec 4
  xt : BitVec 6
  xa : BitVec 6
  xi : BitVec 6
  cspace : BitVec 2
  sz : BitVec 3
  sx : BitVec 1
  cls : BitVec 4
  scope : BitVec 3
  cp : BitVec 2
  sem : BitVec 3
  disp : BitVec 16
  deriving DecidableEq, Repr

/-- Format K (R70). -/
structure FK where
  g : BitVec 4
  xd : BitVec 6
  xa : BitVec 6
  top : BitVec 16
  q : BitVec 4
  pd : BitVec 3
  deriving DecidableEq, Repr

/-- Format T (R70). -/
structure FT where
  g : BitVec 4
  xd : BitVec 6
  xa : BitVec 6
  xb : BitVec 6
  ls : BitVec 6
  space : BitVec 3
  deriving DecidableEq, Repr

/-- Format S (R70). -/
structure FS where
  g : BitVec 4
  xd : BitVec 6
  xa : BitVec 6
  sreg : BitVec 12
  imm : BitVec 20
  deriving DecidableEq, Repr

/-- Format F (R70). -/
structure FF where
  g : BitVec 4
  cls : BitVec 16
  path : BitVec 8
  scope : BitVec 3
  kind : BitVec 2
  deriving DecidableEq, Repr

/-- Format L, the long instruction (R73). -/
structure FL where
  g : BitVec 4
  sub : BitVec 4
  dt : BitVec 16
  dq : BitVec 4
  ta : BitVec 16
  sk : BitVec 1
  sat : BitVec 1
  rm : BitVec 2
  chk : BitVec 1
  opx : BitVec 7
  tb : BitVec 16
  tc : BitVec 16
  xs1 : BitVec 6
  xs2 : BitVec 6
  imm : BitVec 12
  deriving DecidableEq, Repr

/-- A packet of a collective chunk (R369, R373): handle, generation, flat index, rank, sending device and start, destination
address [47:0] of the chunk, its CHUNK bytes, the offset of the packet in it, the sender record's OP, TYPE and SAT, and the
packet's bytes with the offsets of the poisoned ones. -/
structure Chunk where
  handle : Nat
  gen : Nat
  f : Nat
  rank : Nat
  dev : Nat
  start : Nat
  dst : Nat
  size : Nat
  off : Nat
  op : Nat
  ty : Nat
  sat : Bool
  bytes : List (BitVec 8)
  bad : List Nat
  deriving DecidableEq, Repr

/-- A peer's access to this device (R191): kind 0 load, 1 store, 2 atomic with AOP op, value and compare value.
The answer to a load or an atomic goes back to the requester. -/
structure RemoteAccess where
  dev : Nat
  asid : Nat
  va : Nat
  kind : Nat
  size : Nat
  op : Nat
  value : Nat
  cmp : Nat
  deriving DecidableEq, Repr

/-- Every row of the opcode table: the instruction words, then the device steps (spec/95), whose particulars (which
queue, launch, stream, port or address) the state's input field carries. -/
inductive Instr where
  /-- ADD: Integer add at width SZ. (R133) -/
  | add (f : FA)
  /-- SUB: Integer subtract. (R133) -/
  | sub (f : FA)
  /-- MUL: Integer multiply, low part. (R133) -/
  | mul (f : FA)
  /-- MULH: Signed multiply, high part. (R133) -/
  | mulh (f : FA)
  /-- MULHN: Unsigned multiply, high part. (R133) -/
  | mulhn (f : FA)
  /-- DIV: Signed division that never faults. (R134) -/
  | div (f : FA)
  /-- DIVN: Unsigned division. (R134) -/
  | divn (f : FA)
  /-- REM: Signed remainder. (R134) -/
  | rem (f : FA)
  /-- REMN: Unsigned remainder. (R134) -/
  | remn (f : FA)
  /-- AND: Bitwise AND. (R133) -/
  | andR (f : FA)
  /-- OR: Bitwise OR. (R133) -/
  | orR (f : FA)
  /-- XOR: Bitwise XOR. (R133) -/
  | xor (f : FA)
  /-- ANDN: a AND NOT b. (R133) -/
  | andn (f : FA)
  /-- SHL: Shift left by b mod n. (R133) -/
  | shl (f : FA)
  /-- SHR: Logical shift right. (R133) -/
  | shr (f : FA)
  /-- SRA: Arithmetic shift right. (R133) -/
  | sra (f : FA)
  /-- ROL: Rotate left. (R133) -/
  | rol (f : FA)
  /-- MIN: Signed minimum. (R133) -/
  | min (f : FA)
  /-- MAX: Signed maximum. (R133) -/
  | max (f : FA)
  /-- MINN: Unsigned minimum. (R133) -/
  | minn (f : FA)
  /-- MAXN: Unsigned maximum. (R133) -/
  | maxn (f : FA)
  /-- CLZ: Count leading zeros. (R133) -/
  | clz (f : FA)
  /-- CTZ: Count trailing zeros. (R133) -/
  | ctz (f : FA)
  /-- POPC: Population count. (R133) -/
  | popc (f : FA)
  /-- BREV: Bit reverse within n bits. (R133) -/
  | brev (f : FA)
  /-- SEXT: Sign-extend from width n. (R133) -/
  | sext (f : FA)
  /-- ZEXT: Zero-extend from width n. (R133) -/
  | zext (f : FA)
  /-- SEL: Select a or b by a predicate. (R133) -/
  | sel (f : FA)
  /-- ABS: Signed absolute value. (R133) -/
  | abs (f : FA)
  /-- NEG: Negate. (R133) -/
  | neg (f : FA)
  /-- ADDI: Add a sign-extended immediate. (R135) -/
  | addi (f : FI)
  /-- MULI: Multiply by a sign-extended immediate. (R135) -/
  | muli (f : FI)
  /-- ANDI: AND with a sign-extended immediate. (R135) -/
  | andi (f : FI)
  /-- ORI: OR with a zero-extended immediate. (R135) -/
  | ori (f : FI)
  /-- XORI: XOR with a zero-extended immediate. (R135) -/
  | xori (f : FI)
  /-- SHLI: Shift left by an immediate. (R135) -/
  | shli (f : FI)
  /-- SHRI: Logical shift right by an immediate. (R135) -/
  | shri (f : FI)
  /-- SRAI: Arithmetic shift right by an immediate. (R135) -/
  | srai (f : FI)
  /-- MOVI: Move a sign-extended immediate. (R135) -/
  | movi (f : FI)
  /-- MOVHI: Set the high 32 bits of XD from the immediate. (R135) -/
  | movhi (f : FI)
  /-- CMPEQ: Predicate := equal. (R136) -/
  | cmpeq (f : FA)
  /-- CMPNE: Predicate := not equal. (R136) -/
  | cmpne (f : FA)
  /-- CMPLT: Predicate := signed less. (R136) -/
  | cmplt (f : FA)
  /-- CMPLE: Predicate := signed less or equal. (R136) -/
  | cmple (f : FA)
  /-- CMPLTN: Predicate := unsigned less. (R136) -/
  | cmpltn (f : FA)
  /-- CMPLEN: Predicate := unsigned less or equal. (R136) -/
  | cmplen (f : FA)
  /-- CMPEQI: Predicate := equal to the immediate. (R136) -/
  | cmpeqi (f : FI)
  /-- CMPNEI: Predicate := not equal to the immediate. (R136) -/
  | cmpnei (f : FI)
  /-- CMPLTI: Predicate := signed less than the immediate. (R136) -/
  | cmplti (f : FI)
  /-- CMPLEI: Predicate := signed less than or equal to the immediate. (R136) -/
  | cmplei (f : FI)
  /-- CMPLTNI: Predicate := unsigned less than the immediate. (R136) -/
  | cmpltni (f : FI)
  /-- CMPLENI: Predicate := unsigned less than or equal to the immediate. (R136) -/
  | cmpleni (f : FI)
  /-- FADD: binary32 add. (R139) -/
  | fadd (f : FA)
  /-- FSUB: binary32 subtract. (R139) -/
  | fsub (f : FA)
  /-- FMUL: binary32 multiply. (R139) -/
  | fmul (f : FA)
  /-- FFMA: binary32 fused multiply-add. (R139) -/
  | ffma (f : FA)
  /-- FDIV: binary32 divide. (R139) -/
  | fdiv (f : FA)
  /-- FSQRT: binary32 square root. (R139) -/
  | fsqrt (f : FA)
  /-- FMIN: binary32 minimum. (R139) -/
  | fmin (f : FA)
  /-- FMAX: binary32 maximum. (R139) -/
  | fmax (f : FA)
  /-- FCVTI: Convert binary32 to a signed 64-bit integer. (R139) -/
  | fcvti (f : FA)
  /-- FCVTF: Convert a signed 64-bit integer to binary32. (R139) -/
  | fcvtf (f : FA)
  /-- FCMPLT: Predicate := float less. (R139) -/
  | fcmplt (f : FA)
  /-- FCMPEQ: Predicate := float equal. (R139) -/
  | fcmpeq (f : FA)
  /-- BR: PC-relative branch. (R141) -/
  | br (f : FJ)
  /-- CALL: Write the link and branch. (R141) -/
  | call (f : FJ)
  /-- JR: Jump to a register address. (R141) -/
  | jr (f : FJ)
  /-- JLR: Jump to a register address and write the link. (R141) -/
  | jlr (f : FJ)
  /-- LOOP: Hardware-loop bottom: count the iteration and branch back or exit. (R144) -/
  | loop (f : FJ)
  /-- BREAKL: Deactivate a hardware loop and branch. (R144) -/
  | breakl (f : FJ)
  /-- PSET: Set a predicate. (R137) -/
  | pset (f : FA)
  /-- PCLR: Clear a predicate. (R137) -/
  | pclr (f : FA)
  /-- PAND: Predicate AND. (R137) -/
  | pand (f : FA)
  /-- POR: Predicate OR. (R137) -/
  | por (f : FA)
  /-- PXOR: Predicate XOR. (R137) -/
  | pxor (f : FA)
  /-- PNOT: Predicate NOT. (R137) -/
  | pnot (f : FA)
  /-- HALT: End the stream's issue and leave its barrier groups. (R147) -/
  | halt (f : FS)
  /-- YIELD: Make the stream not ready until the other ready streams have issued, or 8 SCLK have passed. (R146) -/
  | yield (f : FS)
  /-- NOP: No operation. (R146) -/
  | nop (f : FS)
  /-- ESTIM: Send the launch's remaining estimate to the distributor. (R148) -/
  | estim (f : FS)
  /-- SYSR: Read a system register; a read of SSR waits for earlier entries. (R149) -/
  | sysr (f : FS)
  /-- SYSW: Write a system register. (R149) -/
  | sysw (f : FS)
  /-- TWAIT: Wait for a version, admit it, and copy its skip flag to a predicate. (R151) -/
  | twait (f : FK)
  /-- TSKIP: Make a skipped version of a tile. (R152) -/
  | tskip (f : FK)
  /-- TSIG: Make a real version with the data unchanged. (R152) -/
  | tsig (f : FK)
  /-- TSTAT: Read a tile's count, quota and skip. (R154) -/
  | tstat (f : FK)
  /-- TDONE: Retire a version without reading it. (R151) -/
  | tdone (f : FK)
  /-- TQUOTA: Set the quota of the current version. (R153) -/
  | tquota (f : FK)
  /-- TRESET: Reset a tile's count, quota, skip and writer. (R153) -/
  | treset (f : FK)
  /-- TGET: Read one tile element into an X register. (R155) -/
  | tget (f : FK)
  /-- TINS: Write one tile element as a new version. (R155) -/
  | tins (f : FK)
  /-- KSET: Set a cursor. (R156) -/
  | kset (f : FI)
  /-- KADD: Add to a cursor mod 65536. (R156) -/
  | kadd (f : FI)
  /-- KMOVX: Move between a cursor and an X register. (R156) -/
  | kmovx (f : FI)
  /-- FQPUSH: Push a register format word onto FQ. (R269) -/
  | fqpush (f : FI)
  /-- FQPUSHI: Push an immediate format word onto FQ. (R269) -/
  | fqpushi (f : FI)
  /-- FQCLR: Wait for the matrix entries to start, then discard FQ and set U to 0. (R269) -/
  | fqclr (f : FI)
  /-- SHAPESET: SHAPE := a register. (R162) -/
  | shapeset (f : FI)
  /-- SHAPEI: SHAPE := an immediate. (R162) -/
  | shapei (f : FI)
  /-- KVADDR: Compute a KV arena address, following a prefix link. (R315) -/
  | kvaddr (f : FA)
  /-- ARNSET: Load and check an arena descriptor. (R314) -/
  | arnset (f : FA)
  /-- PFXFIND: Find a prefix table entry by hash and length. (R318) -/
  | pfxfind (f : FA)
  /-- PFXPIN: Pin a prefix entry and grant a read share of its page. (R318) -/
  | pfxpin (f : FA)
  /-- PFXUNPIN: Drop one pinned share of a prefix entry. (R318) -/
  | pfxunpin (f : FA)
  /-- PFXINS: Insert a page into the prefix table, evicting an unpinned entry if needed. (R319) -/
  | pfxins (f : FA)
  /-- BHASH: Chain-hash one 16-token row of a tile. (R317) -/
  | bhash (f : FK)
  /-- CLAIM: Claim a guided chunk from a claim record. (R361) -/
  | claim (f : FC)
  /-- FENCE: Order named classes and paths, with write-back or invalidation at the fence's scope. (R347) -/
  | fence (f : FF)
  /-- BAR_ARRIVE: Release, then count an arrival in the tag's generation. (R352) -/
  | barArrive (f : FS)
  /-- BAR_WAIT: Wait for the generation to complete, then acquire. (R352) -/
  | barWait (f : FS)
  /-- BAR_SYNC: Arrive and then wait, as one instruction. (R352) -/
  | barSync (f : FS)
  /-- BAR_LEAVE: Leave the tag's membership. (R353) -/
  | barLeave (f : FS)
  /-- AMH: Atomic on host memory as a PCIe AtomicOp. (R358) -/
  | amh (f : FX)
  /-- LDS: Load from the scratchpad. (R219) -/
  | lds (f : FM)
  /-- STS: Store to the scratchpad. (R219) -/
  | sts (f : FM)
  /-- LDC: Load from the serai. (R219) -/
  | ldc (f : FM)
  /-- STC: Store to the serai, optionally as a multicast. (R222) -/
  | stc (f : FM)
  /-- LDD: Load from the Depot. (R219) -/
  | ldd (f : FM)
  /-- STD: Store to the Depot. (R219) -/
  | std (f : FM)
  /-- LDM: Load from device memory. (R219) -/
  | ldm (f : FM)
  /-- STM: Store to device memory. (R219) -/
  | stm (f : FM)
  /-- LDX: Load from peer device memory. (R219) -/
  | ldx (f : FM)
  /-- STX: Store to peer device memory. (R219) -/
  | stx (f : FM)
  /-- LDH: Load from host memory. (R219) -/
  | ldh (f : FM)
  /-- STH: Store to host memory. (R219) -/
  | sth (f : FM)
  /-- AMC: Atomic on the serai. (R356) -/
  | amc (f : FX)
  /-- AMD: Atomic on the Depot. (R356) -/
  | amd (f : FX)
  /-- AMM: Atomic on device memory at the home L2. (R356) -/
  | amm (f : FX)
  /-- AMX: Atomic on peer memory. (R356) -/
  | amx (f : FX)
  /-- OLEND: Lend an EXCL region to a borrower. (R228) -/
  | olend (f : FT)
  /-- OGIVE: Give an EXCL region to a receiver. (R228) -/
  | ogive (f : FT)
  /-- ORTRN: Return a lent region to its lender. (R228) -/
  | ortrn (f : FT)
  /-- OSPLIT: Split a region into its halves. (R228) -/
  | osplit (f : FT)
  /-- OJOIN: Join two halves held alike. (R228) -/
  | ojoin (f : FT)
  /-- OSHARE: Grant a read share of a region. (R228) -/
  | oshare (f : FT)
  /-- ODROP: Drop a read share of a region. (R228) -/
  | odrop (f : FT)
  /-- OQUERY: Read the state word of the region that contains a base. (R230) -/
  | oquery (f : FT)
  /-- ORECLAIM: Reclaim an orphaned or quarantined region as supervisor. (R231) -/
  | oreclaim (f : FT)
  /-- TRAP: Raise TRAP precisely with a code. (R401) -/
  | trap (f : FS)
  /-- TRET: Resume a stopped stream of the launch, optionally dropping queues or skipping the instruction. (R401) -/
  | tret (f : FS)
  /-- DBGBRK: Raise DEBUG subcode 0. (R401) -/
  | dbgbrk (f : FS)
  /-- TRCMARK: Append a mark trace record. (R401) -/
  | trcmark (f : FS)
  /-- CNTSAVE: Store the tile state words of a range of tiles to the scratchpad. (R401) -/
  | cntsave (f : FS)
  /-- CNTLOAD: Load tile state words and set the tiles at once. (R401) -/
  | cntload (f : FS)
  /-- TLBINV: Invalidate the ASID's TLB entries for a page or for all pages on every die. (R401) -/
  | tlbinv (f : FS)
  /-- VADD: Element-wise add. (R168) -/
  | vadd (f : FL)
  /-- VSUB: Element-wise subtract. (R168) -/
  | vsub (f : FL)
  /-- VMUL: Element-wise multiply. (R168) -/
  | vmul (f : FL)
  /-- VFMA: Element-wise a·b + c, rounded once. (R168) -/
  | vfma (f : FL)
  /-- VFMS: Element-wise a·b − c, rounded once. (R168) -/
  | vfms (f : FL)
  /-- VMIN: Element-wise minimum. (R168) -/
  | vmin (f : FL)
  /-- VMAX: Element-wise maximum. (R168) -/
  | vmax (f : FL)
  /-- VABS: Element-wise absolute value. (R168) -/
  | vabs (f : FL)
  /-- VNEG: Element-wise negate. (R168) -/
  | vneg (f : FL)
  /-- VSCALE: Multiply every element by a scalar. (R168) -/
  | vscale (f : FL)
  /-- VADDX: Add with TB in a narrower type. (R169) -/
  | vaddx (f : FL)
  /-- VAND: Element-wise AND. (R170) -/
  | vand (f : FL)
  /-- VOR: Element-wise OR. (R170) -/
  | vor (f : FL)
  /-- VXOR: Element-wise XOR. (R170) -/
  | vxor (f : FL)
  /-- VNOT: Element-wise NOT. (R170) -/
  | vnot (f : FL)
  /-- VSHL: Shift every element left. (R170) -/
  | vshl (f : FL)
  /-- VSHR: Logical shift of every element right. (R170) -/
  | vshr (f : FL)
  /-- VSRA: Arithmetic shift of every element right. (R170) -/
  | vsra (f : FL)
  /-- VCMPEQ: Mask of equal elements. (R171) -/
  | vcmpeq (f : FL)
  /-- VCMPLT: Mask of elements that are less. (R171) -/
  | vcmplt (f : FL)
  /-- VCMPLE: Mask of elements that are less or equal. (R171) -/
  | vcmple (f : FL)
  /-- VSEL: Select elements by a mask. (R171) -/
  | vsel (f : FL)
  /-- VCLAMP: Clamp every element to bounds. (R171) -/
  | vclamp (f : FL)
  /-- VCVT: Convert between element types, optionally dividing by a scale. (R174) -/
  | vcvt (f : FL)
  /-- VQUANT: Quantise by block scales into CB4 or a narrow integer type. (R175) -/
  | vquant (f : FL)
  /-- VDEQ: Dequantise by block scales. (R176) -/
  | vdeq (f : FL)
  /-- VRCP: Reciprocal, correctly rounded. (R177) -/
  | vrcp (f : FL)
  /-- VRSQRT: Reciprocal square root. (R177) -/
  | vrsqrt (f : FL)
  /-- VSQRT: Square root. (R177) -/
  | vsqrt (f : FL)
  /-- VEXP2: 2 to the power x. (R177) -/
  | vexp2 (f : FL)
  /-- VEXP: e to the power x, faithful. (R177) -/
  | vexp (f : FL)
  /-- VLOG2: Base-2 logarithm. (R177) -/
  | vlog2 (f : FL)
  /-- VLOG: Natural logarithm, faithful. (R177) -/
  | vlog (f : FL)
  /-- VSIN: Sine. (R177) -/
  | vsin (f : FL)
  /-- VCOS: Cosine. (R177) -/
  | vcos (f : FL)
  /-- VTANH: Hyperbolic tangent, faithful. (R177) -/
  | vtanh (f : FL)
  /-- VSIGM: Logistic sigmoid, faithful. (R177) -/
  | vsigm (f : FL)
  /-- VERF: Error function, faithful. (R177) -/
  | verf (f : FL)
  /-- VMOV: Copy elements. (R179) -/
  | vmov (f : FL)
  /-- VFILL: Fill every element with a scalar. (R179) -/
  | vfill (f : FL)
  /-- VIOTA: Write base + index by kind. (R179) -/
  | viota (f : FL)
  /-- VTRANS: Transpose the view. (R179) -/
  | vtrans (f : FL)
  /-- VSHUF: Gather elements within rows by index. (R179) -/
  | vshuf (f : FL)
  /-- VBCROW: Broadcast row 0 to every row. (R179) -/
  | vbcrow (f : FL)
  /-- VBCCOL: Broadcast element r across row r. (R179) -/
  | vbccol (f : FL)
  /-- MMA: BF16 or CB4 matrix product into an accumulator. (R276) -/
  | mma (f : FL)
  /-- MMACH: Matrix product with A taken from the last drained accumulator. (R277) -/
  | mmach (f : FL)
  /-- MMAI: I8 matrix product into an I32 accumulator. (R274) -/
  | mmai (f : FL)
  /-- MDRAIN: Write an accumulator to a tile in a chosen type. (R278) -/
  | mdrain (f : FL)
  /-- MZERO: Zero an accumulator. (R279) -/
  | mzero (f : FL)
  /-- MLDACC: Load an accumulator from a tile. (R280) -/
  | mldacc (f : FL)
  /-- CBLOAD: Load a launch codebook from a tile on every core. (R281) -/
  | cbload (f : FL)
  /-- TLOAD: Load a tile, or a pair, through an iterator record, optionally with a non-finite check. (R241) -/
  | tload (f : FL)
  /-- TSTORE: Store a tile through a destination record. (R242) -/
  | tstore (f : FL)
  /-- BCOPY: Bulk copy from a source record, optionally decompressing. (R243) -/
  | bcopy (f : FL)
  /-- CXFER: Transfer a tile to memory or to another core's tile, with an optional inline reduce. (R244) -/
  | cxfer (f : FL)
  /-- WMWAIT: Wait for a channel's earlier entries, optionally signalling a tile. (R245) -/
  | wmwait (f : FL)
  /-- SINIT: Write an empty summary. (R301) -/
  | sinit (f : FL)
  /-- QADD: Fold data into a quantile sketch. (R302) -/
  | qadd (f : FL)
  /-- QMERGE: Merge two quantile sketches. (R302) -/
  | qmerge (f : FL)
  /-- QQUANT: Query a quantile. (R303) -/
  | qquant (f : FL)
  /-- QRANK: Query a rank. (R303) -/
  | qrank (f : FL)
  /-- HADD: Fold keys into a heavy-hitter list. (R304) -/
  | hadd (f : FL)
  /-- HMERGE: Merge heavy-hitter lists. (R304) -/
  | hmerge (f : FL)
  /-- HTOP: Keep the guaranteed heavy hitters. (R304) -/
  | htop (f : FL)
  /-- DADD: Fold keys into distinct-count registers. (R305) -/
  | dadd (f : FL)
  /-- DMERGE: Merge distinct-count sets. (R305) -/
  | dmerge (f : FL)
  /-- DCEST: Estimate the distinct count. (R305) -/
  | dcest (f : FL)
  /-- MSUM: Fold data into one moment slot. (R306) -/
  | msum (f : FL)
  /-- MSMERGE: Merge moment slots. (R306) -/
  | msmerge (f : FL)
  /-- MSROW: Fold each row into its own moment slot. (R306) -/
  | msrow (f : FL)
  /-- LSEROW: Fold rows into log-sum-exp rows. (R307) -/
  | lserow (f : FL)
  /-- LSEMERGE: Merge log-sum-exp rows. (R307) -/
  | lsemerge (f : FL)
  /-- SREAD: Read a moment slot as a statistics record. (R308) -/
  | sread (f : FL)
  /-- COLL: Start a collective generation on the walker. (R378) -/
  | coll (f : FL)
  /-- COLLSTOP: Stop and unbind a collective handle and return its lent regions. (R379) -/
  | collstop (f : FL)
  /-- RAILS_GOOD: Main rails become good. Straps are sampled and the climb of power-on stages begins at stage 0. (R7) -/
  | railsGood
  /-- RAILS_LOST: Main rails go away and every piece of device state is lost except module flash. (R22) -/
  | railsLost
  /-- FIRMWARE_VERIFY: Stage 1: the boot ROM tries firmware images A then B and accepts an image only when both its ECDSA and LMS signatures verify. (R11) -/
  | firmwareVerify
  /-- SELF_CALIBRATION: Stage 2 completes: PLL lock, SerDes calibration and HBM training, using the row-repair entries; a failure sets FAILCODE 0x05 to 0x07. (R7) -/
  | selfCalibration
  /-- MEMORY_INITIALISATION: Stage 3 completes: all SRAM and HBM are zeroed, all tiles are reset and every token directory is emptied. (R8) -/
  | memoryInitialisation
  /-- APPLY_CONFIGURATION: Stage 4: the SKU and the core-disable mask are applied; stage 5 then follows at once. (R12) -/
  | applyConfiguration
  /-- LINK_TRAINING: Stage 6: the PCIe and Veroitor links train after READY. (R9) -/
  | linkTraining
  /-- SECURITY_ALARM: A voltage, clock, temperature or mesh alarm fires and its policy (Log, Halt, or Halt and erase) is applied at once. (R18) -/
  | securityAlarm
  /-- SUPPLY_SAG: A cluster's supply sags: its ACLK and SCLK drop to half rate within 4 cycles and SAGCNT counts the sag. (R20) -/
  | supplySag
  /-- SUPPLY_RECOVER: A sagging cluster supply recovers; the 256-cycle stretch count starts. (R20) -/
  | supplyRecover
  /-- SAG_STRETCH_END: 256 ACLK cycles after the last recovery, the cluster clocks return to full rate. (R20) -/
  | sagStretchEnd
  /-- REGISTER_WRITE: A write to a register that has no row of its own, such as FMMSG, takes effect within the register's writable fields. (R13) -/
  | registerWrite
  /-- MAILBOX_ANSWER: The Factor finishes a command: it writes its answer into FMMSG, then sets DONE and clears BUSY together. (R14) -/
  | mailboxAnswer
  /-- UNKNOWN_COMMAND: A doorbell submits a command code that is not allocated; the command answers status 4 and has no other effect. (R14) -/
  | unknownCommand
  /-- ATTEST: Mailbox command 0x0001 returns a report signed with ECDSA and LMS over the digests and the nonce, after advancing the LMS counter. (R17) -/
  | attest
  /-- TELEM: Mailbox command 0x0002 reads the device counter selected by ITEM and INDEX. (R21) -/
  | telem
  /-- QREG: Mailbox command 0x0010 registers a queue descriptor; it pins and zeroes the ring, WIDX and RIDX and answers the queue number. (R37) -/
  | qreg
  /-- QUNREG: Mailbox command 0x0011 stops latching on a queue and discards its unlatched packets. (R39) -/
  | qunreg
  /-- QRESUME: Mailbox command 0x0012 clears a STALLED_SLOT fault and re-examines the head slot. (R46) -/
  | qresume
  /-- QSKIP: Mailbox command 0x0013 clears a STALLED_SLOT fault and consumes the head slot as skipped, advancing RIDX. (R46) -/
  | qskip
  /-- QSETPRIO: Mailbox command 0x0014 sets a queue's PRIO, WEIGHT and AGECEIL for later latches and resets its credit. (R50) -/
  | qsetprio
  /-- FRESUME: Mailbox command 0x0020 resumes a stopped stream as TRET does. (R396) -/
  | fresume
  /-- LKILL: Mailbox command 0x0021 kills a launch with STATUS KILLED. (R396) -/
  | lkill
  /-- PGDONE: Mailbox command 0x0022 answers a page service request with retry or fail; retry resumes the waiting requesters. (R399) -/
  | pgdone
  /-- TRCSET: Mailbox command 0x0030 enables or disables tracing for a launch, with a record-kind mask and a ring. (R412) -/
  | trcset
  /-- BRKSET: Mailbox command 0x0031 sets or clears a loop-iteration breakpoint. (R415) -/
  | brkset
  /-- ASREG: Mailbox command 0x0040 registers the level-4 table root of an ASID. (R192) -/
  | asreg
  /-- ASUNREG: Mailbox command 0x0041 removes an ASID: it invalidates the ASID's TLB entries, evicts its prefix entries, and disables its remote access and host window. (R192) -/
  | asunreg
  /-- ASINV: Mailbox command 0x0042 invalidates TLB entries of an ASID for one page or for all pages. (R192) -/
  | asinv
  /-- RMTEN: Mailbox command 0x0043 enables or disables remote access by a device in an ASID. (R192) -/
  | rmten
  /-- FGRANT: Mailbox command 0x0044: the Factor gives or lends a device-memory region, carving it from its default holding where needed. (R192) -/
  | fgrant
  /-- FRECLAIM: Mailbox command 0x0045 reclaims an ORPHANED or QUARANTINED region to the Factor. (R192) -/
  | freclaim
  /-- HWIN: Mailbox command 0x0046 opens or closes the BAR2 host window onto an ASID. (R192) -/
  | hwin
  /-- QUEUE_EXAMINE: When notified by a WIDX add, or after finishing a head, the distributor reads the head slot's header; if PHASE matches, it latches the packet and advances RIDX. (R45) -/
  | queueExamine
  /-- HEADER_POLL: Every 1 µs the distributor re-reads the header of a claimed but unpublished head slot. (R45) -/
  | headerPoll
  /-- STALLED_SLOT: When STALLLIM expires on an unpublished head, the distributor writes a queue fault record, signals the driver and stops examining the queue. (R46) -/
  | stalledSlot
  /-- PACKET_NOP: A latched NOP packet is consumed with no effect. (R41) -/
  | packetNop
  /-- PACKET_LAUNCH: A latched LAUNCH packet: the distributor reads the manifest, grant table and codebook table once, and the launch becomes a candidate. (R23) -/
  | packetLaunch
  /-- PACKET_COPY: A latched COPY packet is passed to the packet copy engine of its destination's home die. (R255) -/
  | packetCopy
  /-- COPY_COMPLETE: A packet copy finishes or fails, and its completion word is written. (R255) -/
  | copyComplete
  /-- PACKET_COLL: A latched COLL packet starts (h, g) on the die 0 walker; the distributor acts as a stream of no launch. (R380) -/
  | packetColl
  /-- PACKET_SIGNAL: A latched SIGNAL packet waits for the earlier packets of its queue to complete. (R43) -/
  | packetSignal
  /-- SIGNAL_COMPLETE: Once every earlier packet of its queue has completed, the SIGNAL writes its DONE completion word. (R43) -/
  | signalComplete
  /-- SELECTION: The distributor selects the highest effective-priority candidate, restores first, then queue heads by smooth weighted round-robin. (R48) -/
  | selection
  /-- PLACEMENT: The distributor allocates first-fit, zeroes the allocations, loads codebooks and arguments, sets SCOORD and SLEG, performs the grants and starts the streams. (R54) -/
  | placement
  /-- NEWCOMER_REEVALUATE: Every 100 µs, and on retirements, checkpoints, kills and ESTIMs, the distributor re-evaluates a waiting newcomer. (R56) -/
  | newcomerReevaluate
  /-- CHECKPOINT: A checkpoint starts: it stops the sequencers, lets started entries finish, records cuts, writes back and invalidates L1, and writes the checkpoint sections. (R61) -/
  | checkpoint
  /-- CHECKPOINT_COMPLETE: The checkpoint header's completion word is written and the launch's resources are freed. (R61) -/
  | checkpointComplete
  /-- RESTORE: A checkpointed launch is placed again in the same shape and every saved value is written back exactly. (R62) -/
  | restore
  /-- KILL: A launch is stopped, its unstarted entries are discarded, its tokens are disposed of, and a KILLED or FATAL completion is written. (R64) -/
  | kill
  /-- ROLLBACK_BOUNDARY: At each RBINT boundary the launch is checkpointed and restored at once, and the rollback log is emptied. (R404) -/
  | rollbackBoundary
  /-- ROLLBACK: The launch stops, its L1 sectors are dropped, logged sectors are restored in reverse order, intra-launch token changes are undone, the waybill is cut back, and the rollback checkpoint is restored. (R406) -/
  | rollback
  /-- RETIRE: Once every stream has halted and all queues and collectives are done, the launch returns and passes its tokens and writes its completion word. (R410) -/
  | retire
  /-- RETTO_EXPIRY: RETTO expires during retirement with lent regions not yet returned. (R410) -/
  | rettoExpiry
  /-- QUEUE_APPEND: The sequencer appends an engine instruction to the stream's queue, capturing its operands, or stalls when the queue is full. (R114) -/
  | queueAppend
  /-- ENGINE_ENTRY_COMPLETE: An engine entry finishes: finish_write on its destination, flags to SSR, and ARITH if a flag's trap is enabled. (R107) -/
  | engineEntryComplete
  /-- WAIT_TIMEOUT: A wait sees no change for SSR.WAITLIM ACLK cycles and raises WAIT_TIMEOUT; the instruction does not start. (R113) -/
  | waitTimeout
  /-- LOAD_DATA_ARRIVES: The data of a load or atomic whose checks passed arrives and is written to XT. (R218) -/
  | loadDataArrives
  /-- REMOTE_ERROR_RETURN: A peer or host access completes as a remote error: all ones are returned or the store is dropped, REMERR is set, and REMOTE traps if TEREM is 1. (R223) -/
  | remoteErrorReturn
  /-- FAULT_RECORD_WRITE: The distributor writes the next fault record once its slot's VALID is 0, then sets VALID with release. (R392) -/
  | faultRecordWrite
  /-- PAGE_SERVICE_TIMEOUT: When no PGDONE arrives within 1 s, the Factor answers fail and TRANSLATION is raised at the requesters. (R399) -/
  | pageServiceTimeout
  /-- REARGUARD_CHECK: The Rearguard re-executes the stream's instructions and compares each engine command or outgoing operation with its own copy. (R118) -/
  | rearguardCheck
  /-- UNCORRECTABLE_ERROR: An uncorrectable error is detected; the data is poisoned, or for control state the core is lost at once. (R403) -/
  | uncorrectableError
  /-- CORE_LOST: A core is declared lost and the regions of its holders become ORPHANED. (R211) -/
  | coreLost
  /-- BARRIER_RELEASE: At the scope latency after a generation completes, every waiter of that generation is released. (R53) -/
  | barrierRelease
  /-- CHUNK_ARRIVAL: A collective chunk arrives at the port: it is stored or combined, held, or dropped, and arrival counts advance. (R373) -/
  | chunkArrival
  /-- TRANSFER_ACKNOWLEDGED: A collective transfer is acknowledged once its bytes are stored at the destination's home. (R370) -/
  | transferAcknowledged
  /-- CHUNK_RESEND: 2 µs after a chunk is refused by a full holding buffer, the sender sends it again. (R376) -/
  | chunkResend
  /-- FLIT_RECEIVE: A Veroitor flit is received; a CRC failure makes it replay from the sender's buffer. (R381) -/
  | flitReceive
  /-- PERMIT_AUDIT: Every 1 ms the audit engine sends a marker and sums the permits of a port and virtual channel. (R382) -/
  | permitAudit
  /-- LANE_FAILURE: A lane fails or crosses its error mark; it is replaced by the spare, or the port retrains at 4 lanes, or it goes down. (R383) -/
  | laneFailure
  /-- PEER_LOST: The last route to a peer goes down or surprise down is reported; later accesses to the peer are remote errors and regions lent to it are orphaned. (R386) -/
  | peerLost
  /-- HOST_LINK_DOWN: The PCIe link goes down; host traffic is contained and host accesses become remote errors. (R386) -/
  | hostLinkDown
  /-- HOST_POSTED_WRITE: A host posted write through BAR2 performs at the home L2, or is dropped and counted. (R385) -/
  | hostPostedWrite
  /-- HOST_READ: A host read through BAR2 is served by the home L2, or receives Completer Abort. (R385) -/
  | hostRead
  /-- HOST_ATOMICOP: A host FetchAdd, Swap or CAS performs at the home L2 as one atomic; on WIDX it is a submission. (R385) -/
  | hostAtomicop
  /-- REMOTE_ACCESS_REQUEST: A peer's access arrives, is translated in the same ASID if enabled, and is checked against the directory. (R191) -/
  | remoteAccessRequest
  /-- CORRECTED_ERROR: A corrected error is logged in its leaky bucket. (R407) -/
  | correctedError
  /-- BUCKET_LEAK: Each leak period lowers every bucket by 1 and clears the Bloom filters. (R407) -/
  | bucketLeak
  /-- REFRESH_DUE: A per-bank refresh falls due and is issued or postponed. (R200) -/
  | refreshDue
  /-- CLUSTER_POWER_GATE: Before gating a cluster, the Factor waits up to 10 µs for its trace buffer to drain, then discards the rest. (R416) -/
  | clusterPowerGate
  /-- TRACE_DRAIN: A cluster's trace buffer drains records to the ring, dropping and counting those that find it full. (R412) -/
  | traceDrain
  /-- HOST_LINK_RETRAIN: After containment, the PCI Express link retrains and the Factor re-enables host traffic. (R384) -/
  | hostLinkRetrain
  /-- BLADE_INSERTED: A peer blade inserted again comes up on the links as a new party, for which the Factor enables remote access afresh. (R386) -/
  | bladeInserted
  /-- PORT_RETRAIN_COMPLETE: A Veroitor port retrain, after a LOST_PERMIT or a lane failure, finishes in 4-lane mode or fails and takes the port down. (R383) -/
  | portRetrainComplete
  deriving DecidableEq, Repr

end Sys2Proof
end

