-- ==== Sys2Proof/Machine/Encoding.lean ====
section
/-! DEFINITION. Which fields each instruction uses and which values they may hold (R71, R72, R74, R76, R420 and the
reference entries): the two checks that R79 numbers 5 and 6, on the fields of a decoded instruction. -/

namespace Sys2Proof

/-- The parts of a tile operand (R75). -/
def topMode (t : BitVec 16) : BitVec 2 := t.extractLsb' 14 2
def topCsel (t : BitVec 16) : BitVec 6 := t.extractLsb' 8 6
def topTile (t : BitVec 16) : Nat := (t.extractLsb' 0 8).toNat

/-- A source or destination operand of any mode: NONE has a zero CSEL (R76). -/
def topOk (t : BitVec 16) : Bool := topMode t != 0 || topCsel t == 0
/-- A destination operand: not PEEK (R76). -/
def topDest (t : BitVec 16) : Bool := topOk t && topMode t != 3
/-- A NONE operand. -/
def topNone (t : BitVec 16) : Bool := topMode t == 0 && topCsel t == 0
/-- An operand whose tile is the even one of a pair (R240, R275, R285). -/
def topEven (t : BitVec 16) : Bool := topTile t % 2 == 0

/-- The upper three bits of a predicate field are zero (R71, R137). -/
def predField (x : BitVec 6) : Bool := x.toNat < 8
/-- The upper two bits of a cursor field are zero (R156). -/
def cursorField (x : BitVec 6) : Bool := x.toNat < 16

/-- The OPX bits from bit 57 on: bit `i` of the instruction, for i from 57 to 63. -/
def FL.bit (f : FL) (i : Nat) : Bool := f.opx.getLsbD (i - 57)
/-- The OPX type field [60:57] (R164, R275). -/
def FL.opxType (f : FL) : Nat := (f.opx.extractLsb' 0 4).toNat
/-- BCOPY's DSPACE [61:59] (R240). -/
def FL.dspace (f : FL) : Nat := (f.opx.extractLsb' 2 3).toNat
/-- CXFER's OP [62:60] (R240). -/
def FL.cxOp (f : FL) : Nat := (f.opx.extractLsb' 3 3).toNat
/-- VIOTA's kind [58:57] (R179). -/
def FL.iotaKind (f : FL) : Nat := (f.opx.extractLsb' 0 2).toNat
/-- TLOAD.CHK's arena number [59:58] (R240). -/
def FL.arena (f : FL) : Nat := (f.opx.extractLsb' 1 2).toNat

/-- Which fields of format L an instruction's entry names. -/
structure Uses where
  dt : Bool := false
  ta : Bool := false
  tb : Bool := false
  tc : Bool := false
  xs1 : Bool := false
  xs2 : Bool := false
  sk : Bool := false
  sat : Bool := false
  rm : Bool := false
  chk : Bool := false
  sub : Bool := false
  opx : BitVec 7 := 0
  imm : Bool := false
  deriving DecidableEq, Repr

/-- Every field the entry does not name is zero (R72, R74). -/
def FL.unusedZero (f : FL) (u : Uses) : Bool :=
  (u.dt || (f.dt == 0 && f.dq == 0)) && (u.ta || f.ta == 0) && (u.tb || f.tb == 0) && (u.tc || f.tc == 0)
  && (u.xs1 || f.xs1 == 0) && (u.xs2 || f.xs2 == 0) && (u.sk || f.sk == 0) && (u.sat || f.sat == 0)
  && (u.rm || f.rm == 0) && (u.chk || f.chk == 0) && (u.sub || f.sub == 0) && (u.imm || f.imm == 0)
  && f.opx &&& ~~~u.opx == 0

/-- The tile operands that the entry names hold no value R76 refuses. -/
def FL.tilesOk (f : FL) (u : Uses) : Bool :=
  (!u.dt || topDest f.dt) && (!u.ta || topOk f.ta) && (!u.tb || topOk f.tb) && (!u.tc || topOk f.tc)

/-- The fields of each long instruction (R164, R240, R275, R298, R377). -/
def Instr.uses : Instr → FL → Uses
  | .vadd _, _ | .vsub _, _ | .vmul _, _ =>
    { sub := true, dt := true, ta := true, tb := true, sk := true, sat := true, rm := true }
  | .vfma _, _ | .vfms _, _ =>
    { sub := true, dt := true, ta := true, tb := true, tc := true, sk := true, sat := true, rm := true }
  | .vmin _, _ | .vmax _, _ | .vand _, _ | .vor _, _ | .vxor _, _ | .vcmpeq _, _ | .vcmplt _, _ | .vcmple _, _
  | .vshuf _, _ =>
    { sub := true, dt := true, ta := true, tb := true, sk := true }
  | .vabs _, _ | .vneg _, _ => { sub := true, dt := true, ta := true, sk := true, sat := true }
  | .vscale _, _ => { sub := true, dt := true, ta := true, xs1 := true, sk := true, sat := true, rm := true }
  | .vaddx _, _ =>
    { sub := true, dt := true, ta := true, tb := true, sk := true, sat := true, rm := true, opx := 0xF }
  | .vnot _, _ | .vmov _, _ | .vbcrow _, _ | .vbccol _, _ | .vtrans _, _
  | .vrcp _, _ | .vrsqrt _, _ | .vsqrt _, _ | .vexp2 _, _ | .vexp _, _ | .vlog2 _, _ | .vlog _, _ | .vsin _, _
  | .vcos _, _ | .vtanh _, _ | .vsigm _, _ | .verf _, _ =>
    { sub := true, dt := true, ta := true, sk := true }
  | .vshl _, _ | .vshr _, _ | .vsra _, _ => { sub := true, dt := true, ta := true, xs1 := true, sk := true }
  | .vsel _, _ => { sub := true, dt := true, ta := true, tb := true, tc := true, sk := true }
  | .vclamp _, f =>
    if f.bit 57 then { sub := true, dt := true, ta := true, xs1 := true, xs2 := true, sk := true, opx := 1 }
    else { sub := true, dt := true, ta := true, tb := true, tc := true, sk := true, opx := 1 }
  | .vcvt _, f =>
    { sub := true, dt := true, ta := true, xs1 := f.bit 61, xs2 := true, sk := true, sat := true, rm := true,
      opx := 0x1F, imm := true }
  | .vquant _, _ | .vdeq _, _ =>
    { sub := true, dt := true, ta := true, tb := true, xs2 := true, sk := true, rm := true, opx := 0xF, imm := true }
  | .vfill _, _ => { sub := true, dt := true, xs1 := true }
  | .viota _, _ => { sub := true, dt := true, xs1 := true, sat := true, rm := true, opx := 3 }
  | .mma _, f => { sub := true, ta := true, tb := true, tc := f.bit 57, sk := true, opx := 1 }
  | .mmach _, _ => { sub := true, tb := true, sk := true }
  | .mmai _, _ => { sub := true, ta := true, tb := true, sk := true, sat := true }
  | .mdrain _, _ => { sub := true, dt := true, sat := true, rm := true, opx := 0x1F }
  | .mzero _, _ => { sub := true }
  | .mldacc _, _ => { sub := true, ta := true, sk := true, opx := 0xF }
  | .cbload _, f => { dt := f.bit 57, ta := true, xs1 := true, opx := 1, imm := true }
  | .tload _, f => { sub := true, dt := true, xs1 := true, chk := true, opx := if f.chk == 1 then 7 else 1 }
  | .tstore _, _ => { sub := true, ta := true, xs1 := true, opx := 3 }
  | .bcopy _, _ => { sub := true, xs1 := true, xs2 := true, opx := 0x1F }
  | .cxfer _, f =>
    { sub := true, dt := f.bit 59, ta := true, xs1 := true, sat := f.cxOp != 0, rm := f.cxOp != 0, opx := 0x3F,
      imm := true }
  | .wmwait _, f => { sub := true, dt := f.bit 57, opx := 1 }
  | .sinit _, f => { dt := true, xs1 := f.imm.extractLsb' 0 6 == 0x10, imm := true }
  | .qadd _, _ | .qmerge _, _ | .hadd _, _ | .hmerge _, _ | .dadd _, _ | .dmerge _, _ | .lsemerge _, _ =>
    { dt := true, ta := true, tb := true, sk := true }
  | .qquant _, _ | .qrank _, _ | .htop _, _ => { dt := true, ta := true, xs1 := true, sk := true }
  | .dcest _, _ => { dt := true, ta := true, sk := true }
  | .msum _, _ => { dt := true, ta := true, tb := true, sk := true, imm := true }
  | .msmerge _, _ => { dt := true, ta := true, tb := true, sk := true, opx := 1 }
  | .msrow _, _ | .lserow _, _ => { dt := true, ta := true, tb := true, xs2 := true, sk := true }
  | .sread _, f => { dt := true, ta := true, sk := true, sat := f.bit 57, opx := 1, imm := true }
  | .coll _, _ => { xs1 := true, xs2 := true, opx := 1 }
  | .collstop _, _ => { xs1 := true }
  | _, _ => {}

/-- The SUB of a vector instruction: 0, or one above a type code the instruction accepts (R74, R163). -/
def FL.subIn (f : FL) (types : List Nat) : Bool := f.sub == 0 || (types.map (· + 1)).contains f.sub.toNat
/-- SUB[3:2] is zero: an accumulator or channel number (R74). -/
def FL.subLow (f : FL) : Bool := f.sub.toNat < 4

/-- The element types (R159) but CB4, the integer types, the float types, all nine. -/
def typesNum : List Nat := [0, 1, 2, 3, 4, 5, 6, 7]
def typesInt : List Nat := [2, 3, 4, 5, 6, 7]
def typesFloat : List Nat := [0, 1]
def typesAll : List Nat := [0, 1, 2, 3, 4, 5, 6, 7, 8]

/-- The pairs of VADDX (R169). -/
def vaddxPair (ty sty : Nat) : Bool :=
  [(0, 1), (2, 4), (2, 6), (3, 5), (3, 7), (4, 6), (5, 7)].contains (ty, sty)

/-- The immediate and rounding of a conversion between types `d` and `s` (R163, R164, R174): whichever side is CB4 fixes
what IMM12 and RM may hold. -/
def convOk (f : FL) (d s : Nat) : Bool :=
  !(d == 8 && s == 8) && (d != 8 || f.rm == 0) &&
  (if d == 8 then f.imm.toNat < 1024 else if s == 8 then f.imm.toNat < 64 else f.imm == 0)

/-- Values of the used fields of a long instruction (R74, R163, R164, R169, R174, R240, R275, R285, R298). A pair on the
window's last tile or on tile 255, which R240 gives two subcodes, fails here, with 5. DEDUCED: log entry 82. -/
def Instr.longValues : Instr → FL → Bool
  | .vadd _, f | .vsub _, f | .vmul _, f | .vfma _, f | .vfms _, f | .vmin _, f | .vmax _, f | .vabs _, f | .vneg _, f
  | .vscale _, f | .vand _, f | .vor _, f | .vxor _, f | .vnot _, f | .vcmpeq _, f | .vcmplt _, f | .vcmple _, f
  | .vsel _, f | .vclamp _, f | .viota _, f | .vtrans _, f | .vshuf _, f | .vbcrow _, f | .vbccol _, f =>
    f.subIn typesNum
  | .vaddx _, f =>
    f.subIn typesNum && [1, 4, 5, 6, 7].contains f.opxType &&
    (f.sub == 0 || vaddxPair (f.sub.toNat - 1) f.opxType)
  | .vshl _, f | .vshr _, f | .vsra _, f => f.subIn typesInt
  | .vcvt _, f =>
    f.subIn typesAll && f.opxType < 9 && !(f.bit 61 && f.opxType == 8) && f.imm.toNat < 1024 &&
    (f.opxType != 8 || f.imm.toNat < 64) && (f.sub == 0 || convOk f (f.sub.toNat - 1) f.opxType)
  | .vquant _, f =>
    f.subIn [4, 5, 6, 7, 8] && f.opxType < 2 && f.imm.toNat < 1024 &&
    (f.sub == 0 || convOk f (f.sub.toNat - 1) f.opxType)
  | .vdeq _, f =>
    f.subIn typesFloat && [4, 5, 6, 7, 8].contains f.opxType &&
    f.imm.toNat < 64 && (f.sub == 0 || convOk f (f.sub.toNat - 1) f.opxType)
  | .vrcp _, f | .vrsqrt _, f | .vsqrt _, f | .vexp2 _, f | .vexp _, f | .vlog2 _, f | .vlog _, f | .vsin _, f
  | .vcos _, f | .vtanh _, f | .vsigm _, f | .verf _, f => f.subIn typesFloat
  | .vmov _, f | .vfill _, f => f.subIn typesAll
  | .mma _, f | .mmach _, f | .mmai _, f | .mzero _, f => f.subLow
  | .mdrain _, f =>
    f.subLow && [0, 1, 2, 6].contains f.opxType && (f.sat == 0 || f.opxType == 6) && (f.rm == 0 || f.opxType == 1) &&
    (f.opxType == 1 || f.opxType == 6 || topEven f.dt)
  | .mldacc _, f =>
    f.subLow && [0, 1, 2, 6].contains f.opxType && (f.opxType == 1 || f.opxType == 6 || topEven f.ta)
  | .cbload _, f => f.imm.toNat < 64
  | .tload _, f => f.subLow && (!f.bit 57 || topEven f.dt)
  | .tstore _, f => f.subLow && (!f.bit 57 || topEven f.ta)
  | .bcopy _, f => f.subLow && f.dspace < 6
  | .cxfer _, f =>
    f.subLow && f.cxOp < 4 && !(f.bit 59 && f.bit 58) && (!f.bit 57 || (topEven f.ta && (!f.bit 59 || topEven f.dt))) &&
    (if f.cxOp == 0 then f.imm == 0 else f.imm.toNat < 8)
  | .wmwait _, f => f.subLow
  | .sinit _, f =>
    f.imm.toNat < 64 && (f.imm.extractLsb' 0 4).toNat < 6 && (f.imm.extractLsb' 4 2) != 3 &&
    ((f.imm.extractLsb' 0 4) == 0 || (f.imm.extractLsb' 4 2) == 0) && ((f.imm.extractLsb' 0 4) != 0 || topEven f.dt)
  | .qadd _, f => topEven f.dt && topEven f.ta
  | .qmerge _, f => topEven f.dt && topEven f.ta && topEven f.tb
  | .qquant _, f | .qrank _, f => topEven f.ta
  | .msum _, f | .sread _, f => f.imm.toNat < 64
  | _, _ => true

/-- The fields of a long instruction. -/
def Instr.long? : Instr → Option FL
  | .vadd f | .vsub f | .vmul f | .vfma f | .vfms f | .vmin f | .vmax f | .vabs f | .vneg f | .vscale f | .vaddx f
  | .vand f | .vor f | .vxor f | .vnot f | .vshl f | .vshr f | .vsra f | .vcmpeq f | .vcmplt f | .vcmple f | .vsel f
  | .vclamp f | .vcvt f | .vquant f | .vdeq f | .vrcp f | .vrsqrt f | .vsqrt f | .vexp2 f | .vexp f | .vlog2 f
  | .vlog f | .vsin f | .vcos f | .vtanh f | .vsigm f | .verf f | .vmov f | .vfill f | .viota f | .vtrans f | .vshuf f
  | .vbcrow f | .vbccol f | .mma f | .mmach f | .mmai f | .mdrain f | .mzero f | .mldacc f | .cbload f | .tload f
  | .tstore f | .bcopy f | .cxfer f | .wmwait f | .sinit f | .qadd f | .qmerge f | .qquant f | .qrank f | .hadd f
  | .hmerge f | .htop f | .dadd f | .dmerge f | .dcest f | .msum f | .msmerge f | .msrow f | .lserow f | .lsemerge f
  | .sread f | .coll f | .collstop f => some f
  | _ => none

/-- The engine that runs a long instruction: 1 matrix, 2 vector, 3 Porter, 4 Assayer (R78, the units of R390). -/
def Instr.unit : Instr → Nat
  | .mma _ | .mmach _ | .mmai _ | .mdrain _ | .mzero _ | .mldacc _ | .cbload _ => 1
  | .tload _ | .tstore _ | .bcopy _ | .cxfer _ | .wmwait _ | .coll _ | .collstop _ => 3
  | .sinit _ | .qadd _ | .qmerge _ | .qquant _ | .qrank _ | .hadd _ | .hmerge _ | .htop _ | .dadd _ | .dmerge _
  | .dcest _ | .msum _ | .msmerge _ | .msrow _ | .lserow _ | .lsemerge _ | .sread _ => 4
  | i => if i.long?.isSome then 2 else 0

/-- System registers (R149): readable codes and writable codes. -/
def sregReadable (n : Nat) : Bool :=
  n ≤ 6 || (8 ≤ n && n ≤ 0xB) || n == 0x10 || n == 0x11 || n == 0x18 || (0x20 ≤ n && n ≤ 0x27) || (0x30 ≤ n && n ≤ 0x33)
def sregWritable (n : Nat) : Bool := n == 0 || (0x20 ≤ n && n ≤ 0x27)

/-- Check 5 of R79 on the fields of an instruction: every field it does not use is zero. -/
def Instr.unusedZero : Instr → Bool
  | .add f | .sub f | .mul f | .mulh f | .mulhn f | .div f | .divn f | .rem f | .remn f | .andR f | .orR f | .xor f
  | .andn f | .shl f | .shr f | .sra f | .rol f | .min f | .max f | .minn f | .maxn f
  | .cmpeq f | .cmpne f | .cmplt f | .cmple f | .cmpltn f | .cmplen f => f.xc == 0
  | .clz f | .ctz f | .popc f | .brev f | .sext f | .zext f | .abs f | .neg f => f.xb == 0 && f.xc == 0
  | .sel _ => true
  | .fadd f | .fsub f | .fmul f | .fdiv f | .fmin f | .fmax f | .fcmplt f | .fcmpeq f => f.sz == 0 && f.xc == 0
  | .ffma f => f.sz == 0
  | .fsqrt f | .fcvti f | .fcvtf f => f.sz == 0 && f.xb == 0 && f.xc == 0
  | .pset f | .pclr f => f.sz == 0 && f.xa == 0 && f.xb == 0 && f.xc == 0
  | .pand f | .por f | .pxor f => f.sz == 0 && f.xc == 0
  | .pnot f => f.sz == 0 && f.xb == 0 && f.xc == 0
  | .kvaddr f | .pfxins f => f.sz == 0
  | .arnset f => f.sz == 0 && f.xd == 0 && f.xb == 0
  | .pfxfind f | .pfxpin f => f.sz == 0 && f.xc == 0
  | .pfxunpin f => f.sz == 0 && f.xd == 0 && f.xc == 0
  | .movi f | .movhi f | .kset f | .kadd f => f.xa == 0
  | .fqpush f | .shapeset f => f.xd == 0 && f.imm == 0
  | .fqpushi f | .shapei f => f.xd == 0 && f.xa == 0
  | .fqclr f => f.xd == 0 && f.xa == 0 && f.imm == 0
  | .br f => f.aux == 0 && f.xa == 0 && f.xb == 0
  | .call f => f.aux == 0 && f.xb == 0
  | .jr f => f.aux == 0 && f.xb == 0 && f.off == 0
  | .jlr f => f.aux == 0 && f.off == 0
  | .loop f => f.xb == 0
  | .breakl f => f.xa == 0 && f.xb == 0
  | .halt f | .yield f | .nop f => f.xd == 0 && f.xa == 0 && f.sreg == 0 && f.imm == 0
  | .estim f => f.xd == 0 && f.sreg == 0 && f.imm == 0
  | .sysr f => f.xa == 0 && f.imm == 0
  | .sysw f => f.xd == 0 && f.imm == 0
  | .barArrive f | .barWait f | .barSync f | .barLeave f | .trap f | .dbgbrk f => f.xd == 0 && f.xa == 0 && f.sreg == 0
  | .tret f => f.sreg == 0
  | .trcmark f | .cntsave f | .cntload f | .tlbinv f => f.xd == 0 && f.sreg == 0
  | .twait f => f.xd == 0 && f.xa == 0 && f.q == 0
  | .tskip f | .tsig f | .tquota f | .treset f => f.xd == 0 && f.xa == 0 && f.pd == 0
  | .tstat f => f.xa == 0 && f.q == 0 && f.pd == 0
  | .tdone f => f.xd == 0 && f.xa == 0 && f.q == 0 && f.pd == 0
  | .tget f | .bhash f => f.q == 0 && f.pd == 0
  | .tins f => f.pd == 0
  | .olend f | .ogive f | .oshare f | .odrop f => f.xd == 0
  | .ortrn f | .osplit f | .ojoin f | .oreclaim f => f.xd == 0 && f.xb == 0
  | .oquery f => f.xb == 0
  | i => match i.long? with
    | some f => f.unusedZero (i.uses f)
    | none => true

/-- The values a load's or a store's fields may hold (R71, R214). -/
def FM.ok (f : FM) (store cpAny : Bool) : Bool :=
  f.sz.toNat ≤ 4 && (f.sz != 4 || f.xt.getLsbD 0 == false) && f.scope != 7 && (cpAny || f.cp == 0) &&
  (f.sem == 0 || f.sem == (if store then 2 else 1)) && (f.sx == 0 || (!store && f.sz.toNat < 3))

/-- The values of an atomic's fields (R71, R355). -/
def FX.ok (f : FX) (cpAny : Bool) : Bool :=
  (f.sz == 2 || f.sz == 3) && f.sx == 0 && f.scope != 7 && (cpAny || f.cp == 0) && f.sem.toNat < 4 &&
  f.aop.toNat < 12 && (f.aop != 10 || f.sz == 2)

/-- The granule of a space's regions (R201). -/
def spaceGranule (space : Nat) : Nat := if space < 2 then 11 else 12

/-- Check 6 of R79 on the fields of an instruction: every used field holds a value it may hold. -/
def Instr.valuesOk : Instr → Bool
  | .sel f => predField f.xc
  | .cmpeq f | .cmpne f | .cmplt f | .cmple f | .cmpltn f | .cmplen f | .fcmplt f | .fcmpeq f | .pset f | .pclr f =>
    predField f.xd
  | .pand f | .por f | .pxor f => predField f.xd && predField f.xa && predField f.xb
  | .pnot f => predField f.xd && predField f.xa
  | .kvaddr f | .arnset f => f.xc.toNat < 4
  | .shli f | .shri f | .srai f => f.imm.toNat < 64
  | .cmpeqi f | .cmpnei f | .cmplti f | .cmplei f | .cmpltni f | .cmpleni f => predField f.xd
  | .kset f | .kadd f => cursorField f.xd && f.imm.toNat < 65536
  | .kmovx f => f.imm.toNat < 2 && (if f.imm == 0 then cursorField f.xa else cursorField f.xd)
  | .loop f | .breakl f => f.aux.toNat < 8
  | .sysr f => sregReadable f.sreg.toNat
  | .sysw f => sregWritable f.sreg.toNat
  | .barArrive f | .barWait f | .barSync f | .barLeave f => f.imm.toNat < 8
  | .tret f => f.imm.toNat < 4
  | .cntsave f | .cntload f => f.imm.toNat < 65536
  | .tlbinv f => f.imm.toNat < 2
  | .twait f | .tget f | .bhash f => topOk f.top
  | .tskip f | .tsig f | .treset f | .tins f => topDest f.top
  | .tstat f | .tquota f => topNone f.top
  | .tdone f => topMode f.top == 1 || topMode f.top == 2
  | .lds f | .ldc f | .ldd f | .ldh f => f.ok false false
  | .ldm f | .ldx f => f.ok false true
  | .sts f | .std f | .sth f => f.ok true false
  | .stm f | .stx f => f.ok true true
  | .stc f => { f with sx := 0 }.ok true false && (f.sx == 0 || f.sh == 0)
  | .amc f | .amd f => f.ok false
  | .amm f | .amx f => f.ok true
  | .amh f => f.ok false && (f.aop == 0 || f.aop == 8 || f.aop == 9)
  | .claim f =>
    f.sz == 3 && f.sx == 0 && f.cspace != 3 && f.scope != 7 && f.sem.toNat < 4 && (f.cspace == 1 || f.cp == 0) &&
    (f.xt != f.xi || f.xt == 0)
  | .fence f => f.kind != 3 && f.scope != 7 && f.path.toNat < 64
  | .olend f | .ogive f | .ortrn f | .osplit f | .ojoin f | .oshare f | .odrop f | .oquery f | .oreclaim f =>
    f.space.toNat < 4 && spaceGranule f.space.toNat ≤ f.ls.toNat && f.ls.toNat ≤ 40
  | i => match i.long? with
    | some f => i.longValues f && f.tilesOk (i.uses f)
    | none => true

end Sys2Proof
end

