-- ==== Sys2Proof/WellFormed.lean ====
section
/-! DEFINITION. The static checks of R79 on the fields of an instruction: the guard (check 3), unused fields (check 5)
and used fields (check 6). The window test of check 7 needs the launch and stands with the machine. -/

namespace Sys2Proof

/-- The guard field of an instruction (R69); a device step has none. -/
def Instr.guard : Instr → BitVec 4
  | .add f | .sub f | .mul f | .mulh f | .mulhn f | .div f | .divn f | .rem f | .remn f | .andR f | .orR f
  | .xor f | .andn f | .shl f | .shr f | .sra f | .rol f | .min f | .max f | .minn f | .maxn f | .clz f
  | .ctz f | .popc f | .brev f | .sext f | .zext f | .sel f | .abs f | .neg f | .cmpeq f | .cmpne f | .cmplt f
  | .cmple f | .cmpltn f | .cmplen f | .fadd f | .fsub f | .fmul f | .ffma f | .fdiv f | .fsqrt f | .fmin f
  | .fmax f | .fcvti f | .fcvtf f | .fcmplt f | .fcmpeq f | .pset f | .pclr f | .pand f | .por f | .pxor f
  | .pnot f | .kvaddr f | .arnset f | .pfxfind f | .pfxpin f | .pfxunpin f | .pfxins f => f.g
  | .addi f | .muli f | .andi f | .ori f | .xori f | .shli f | .shri f | .srai f | .movi f | .movhi f
  | .cmpeqi f | .cmpnei f | .cmplti f | .cmplei f | .cmpltni f | .cmpleni f | .kset f | .kadd f | .kmovx f
  | .fqpush f | .fqpushi f | .fqclr f | .shapeset f | .shapei f => f.g
  | .br f | .call f | .jr f | .jlr f | .loop f | .breakl f => f.g
  | .halt f | .yield f | .nop f | .estim f | .sysr f | .sysw f | .barArrive f | .barWait f | .barSync f
  | .barLeave f | .trap f | .tret f | .dbgbrk f | .trcmark f | .cntsave f | .cntload f | .tlbinv f => f.g
  | .twait f | .tskip f | .tsig f | .tstat f | .tdone f | .tquota f | .treset f | .tget f | .tins f | .bhash f => f.g
  | .claim f => f.g
  | .fence f => f.g
  | .amh f | .amc f | .amd f | .amm f | .amx f => f.g
  | .lds f | .sts f | .ldc f | .stc f | .ldd f | .std f | .ldm f | .stm f | .ldx f | .stx f | .ldh f | .sth f => f.g
  | .olend f | .ogive f | .ortrn f | .osplit f | .ojoin f | .oshare f | .odrop f | .oquery f | .oreclaim f => f.g
  | i => match i.long? with
    | some f => f.g
    | none => 0

/-- G = 0b1000 is reserved (R69). -/
def Instr.guardOk (i : Instr) : Bool := i.guard != 8

/-- Whether a row of the table is an instruction word (R77, R78) and not a device step. -/
def Instr.isWord : Instr → Bool
  | .add _ | .sub _ | .mul _ | .mulh _ | .mulhn _ | .div _ | .divn _ | .rem _ | .remn _ | .andR _ | .orR _
  | .xor _ | .andn _ | .shl _ | .shr _ | .sra _ | .rol _ | .min _ | .max _ | .minn _ | .maxn _ | .clz _
  | .ctz _ | .popc _ | .brev _ | .sext _ | .zext _ | .sel _ | .abs _ | .neg _ | .cmpeq _ | .cmpne _ | .cmplt _
  | .cmple _ | .cmpltn _ | .cmplen _ | .fadd _ | .fsub _ | .fmul _ | .ffma _ | .fdiv _ | .fsqrt _ | .fmin _
  | .fmax _ | .fcvti _ | .fcvtf _ | .fcmplt _ | .fcmpeq _ | .pset _ | .pclr _ | .pand _ | .por _ | .pxor _
  | .pnot _ | .kvaddr _ | .arnset _ | .pfxfind _ | .pfxpin _ | .pfxunpin _ | .pfxins _ => true
  | .addi _ | .muli _ | .andi _ | .ori _ | .xori _ | .shli _ | .shri _ | .srai _ | .movi _ | .movhi _
  | .cmpeqi _ | .cmpnei _ | .cmplti _ | .cmplei _ | .cmpltni _ | .cmpleni _ | .kset _ | .kadd _ | .kmovx _
  | .fqpush _ | .fqpushi _ | .fqclr _ | .shapeset _ | .shapei _ => true
  | .br _ | .call _ | .jr _ | .jlr _ | .loop _ | .breakl _ => true
  | .halt _ | .yield _ | .nop _ | .estim _ | .sysr _ | .sysw _ | .barArrive _ | .barWait _ | .barSync _
  | .barLeave _ | .trap _ | .tret _ | .dbgbrk _ | .trcmark _ | .cntsave _ | .cntload _ | .tlbinv _ => true
  | .twait _ | .tskip _ | .tsig _ | .tstat _ | .tdone _ | .tquota _ | .treset _ | .tget _ | .tins _ | .bhash _ => true
  | .claim _ => true
  | .fence _ => true
  | .amh _ | .amc _ | .amd _ | .amm _ | .amx _ => true
  | .lds _ | .sts _ | .ldc _ | .stc _ | .ldd _ | .std _ | .ldm _ | .stm _ | .ldx _ | .stx _ | .ldh _ | .sth _ => true
  | .olend _ | .ogive _ | .ortrn _ | .osplit _ | .ojoin _ | .oshare _ | .odrop _ | .oquery _ | .oreclaim _ => true
  | i => i.long?.isSome

/-- A well-formed instruction: what the static checks of R79 accept. -/
def Instr.WellFormed (i : Instr) : Bool := i.guardOk && i.unusedZero && i.valuesOk

end Sys2Proof
end

