-- ==== Sys2Proof/Decode.lean ====
section
/-! DEFINITION. From instruction words to instructions and back (R67 to R80): the fields of each format, the opcode map,
the static checks in the order of R79, and the encoder written from the same tables. -/

namespace Sys2Proof

/-- The fields of an instruction under its format. -/
inductive Fields where
  | fma (f : FA)
  | fmi (f : FI)
  | fmj (f : FJ)
  | fmm (f : FM)
  | fmx (f : FX)
  | fmc (f : FC)
  | fmk (f : FK)
  | fmt (f : FT)
  | fms (f : FS)
  | fmf (f : FF)
  | fml (f : FL)
  deriving DecidableEq, Repr

/-- The formats of R70 and R73. -/
inductive Format where
  | fma | fmi | fmj | fmm | fmx | fmc | fmk | fmt | fms | fmf | fml
  deriving DecidableEq, Repr

/-- The opcode map (R77, R78): each allocated opcode's format and the number of its functions (0: it has no FN). -/
def opcode : Nat → Option (Format × Nat)
  | 0x00 => some (.fma, 30)
  | 0x01 => some (.fmi, 10)
  | 0x02 => some (.fma, 6)
  | 0x03 => some (.fmi, 6)
  | 0x04 => some (.fma, 12)
  | 0x40 => some (.fmj, 4)
  | 0x41 => some (.fmj, 2)
  | 0x42 => some (.fma, 6)
  | 0x43 => some (.fms, 6)
  | 0x60 => some (.fmk, 9)
  | 0x61 => some (.fmi, 3)
  | 0x62 => some (.fmi, 5)
  | 0x63 => some (.fma, 6)
  | 0x64 => some (.fmk, 1)
  | 0x6C => some (.fmc, 0)
  | 0x6D => some (.fmf, 0)
  | 0x6E => some (.fms, 4)
  | 0x6F => some (.fmx, 0)
  | 0x70 => some (.fmm, 0)
  | 0x71 => some (.fmm, 0)
  | 0x72 => some (.fmm, 0)
  | 0x73 => some (.fmm, 0)
  | 0x74 => some (.fmm, 0)
  | 0x75 => some (.fmm, 0)
  | 0x76 => some (.fmm, 0)
  | 0x77 => some (.fmm, 0)
  | 0x78 => some (.fmm, 0)
  | 0x79 => some (.fmm, 0)
  | 0x7A => some (.fmm, 0)
  | 0x7B => some (.fmm, 0)
  | 0x7C => some (.fmx, 0)
  | 0x7D => some (.fmx, 0)
  | 0x7E => some (.fmx, 0)
  | 0x7F => some (.fmx, 0)
  | 0x80 => some (.fmt, 9)
  | 0xA0 => some (.fms, 7)
  | 0xC0 => some (.fml, 11)
  | 0xC1 => some (.fml, 7)
  | 0xC2 => some (.fml, 5)
  | 0xC3 => some (.fml, 3)
  | 0xC4 => some (.fml, 12)
  | 0xC5 => some (.fml, 7)
  | 0xE0 => some (.fml, 2)
  | 0xE1 => some (.fml, 1)
  | 0xE2 => some (.fml, 3)
  | 0xE3 => some (.fml, 1)
  | 0xE8 => some (.fml, 1)
  | 0xE9 => some (.fml, 1)
  | 0xEA => some (.fml, 1)
  | 0xEB => some (.fml, 1)
  | 0xEC => some (.fml, 1)
  | 0xF0 => some (.fml, 17)
  | 0xF8 => some (.fml, 1)
  | 0xF9 => some (.fml, 1)
  | _ => none

/-- Bits [hi:lo] of an instruction of up to 128 bits, `n` of them from `lo`. -/
abbrev bits (w : BitVec 128) (lo n : Nat) : BitVec n := w.extractLsb' lo n

/-- Where FN stands in a format (R70, R73). -/
def fnOf (fm : Format) (w : BitVec 128) : Nat :=
  match fm with
  | .fma => (bits w 30 8).toNat
  | .fmi => (bits w 24 8).toNat
  | .fmj => (bits w 28 4).toNat
  | .fmk => (bits w 48 8).toNat
  | .fmt => (bits w 40 8).toNat
  | .fms => (bits w 36 8).toNat
  | .fml => (bits w 108 8).toNat
  | .fmm | .fmx | .fmc | .fmf => 0

/-- The bits that a format itself reserves (R70). -/
def reservedZero (fm : Format) (w : BitVec 128) : Bool :=
  match fm with
  | .fma => bits w 46 18 == 0
  | .fmk => bits w 56 8 == 0 && bits w 47 1 == 0
  | .fmt => bits w 48 16 == 0 && bits w 39 1 == 0
  | .fms => true
  | .fmf => bits w 47 17 == 0 && bits w 12 6 == 0
  | .fmx => bits w 30 2 == 0
  | .fmi | .fmj | .fmm | .fmc | .fml => true

/-- The fields of a word under a format (R70, R73). -/
def fieldsOf (fm : Format) (w : BitVec 128) : Fields :=
  match fm with
  | .fma => .fma { g := bits w 8 4, xd := bits w 12 6, xa := bits w 18 6, xb := bits w 24 6, sz := bits w 38 2,
                   xc := bits w 40 6 }
  | .fmi => .fmi { g := bits w 8 4, xd := bits w 12 6, xa := bits w 18 6, imm := bits w 32 32 }
  | .fmj => .fmj { g := bits w 8 4, xa := bits w 12 6, xb := bits w 18 6, aux := bits w 24 4, off := bits w 32 32 }
  | .fmm => .fmm { g := bits w 8 4, xt := bits w 12 6, xa := bits w 18 6, xi := bits w 24 6, sh := bits w 30 2,
                   sz := bits w 32 3, sx := bits w 35 1, cls := bits w 36 4, scope := bits w 40 3, cp := bits w 43 2,
                   sem := bits w 45 3, disp := bits w 48 16 }
  | .fmx => .fmx { g := bits w 8 4, xt := bits w 12 6, xa := bits w 18 6, xi := bits w 24 6,
                   sz := bits w 32 3, sx := bits w 35 1, cls := bits w 36 4, scope := bits w 40 3, cp := bits w 43 2,
                   sem := bits w 45 3, disp := bits w 48 8, aop := bits w 56 8 }
  | .fmc => .fmc { g := bits w 8 4, xt := bits w 12 6, xa := bits w 18 6, xi := bits w 24 6, cspace := bits w 30 2,
                   sz := bits w 32 3, sx := bits w 35 1, cls := bits w 36 4, scope := bits w 40 3, cp := bits w 43 2,
                   sem := bits w 45 3, disp := bits w 48 16 }
  | .fmk => .fmk { g := bits w 8 4, xd := bits w 12 6, xa := bits w 18 6, top := bits w 24 16, q := bits w 40 4,
                   pd := bits w 44 3 }
  | .fmt => .fmt { g := bits w 8 4, xd := bits w 12 6, xa := bits w 18 6, xb := bits w 24 6, ls := bits w 30 6,
                   space := bits w 36 3 }
  | .fms => .fms { g := bits w 8 4, xd := bits w 12 6, xa := bits w 18 6, sreg := bits w 24 12, imm := bits w 44 20 }
  | .fmf => .fmf { g := bits w 8 4, cls := bits w 18 16, path := bits w 34 8, scope := bits w 42 3, kind := bits w 45 2 }
  | .fml => .fml { g := bits w 8 4, sub := bits w 12 4, dt := bits w 16 16, dq := bits w 32 4, ta := bits w 36 16,
                   sk := bits w 52 1, sat := bits w 53 1, rm := bits w 54 2, chk := bits w 56 1, opx := bits w 57 7,
                   tb := bits w 64 16, tc := bits w 80 16, xs1 := bits w 96 6, xs2 := bits w 102 6,
                   imm := bits w 116 12 }

/-- The instruction of an opcode, a function and fields (R77, R78). -/
def instrOf : Nat → Nat → Fields → Option Instr
  | 0x00, 0, .fma f => some (.add f)
  | 0x00, 1, .fma f => some (.sub f)
  | 0x00, 2, .fma f => some (.mul f)
  | 0x00, 3, .fma f => some (.mulh f)
  | 0x00, 4, .fma f => some (.mulhn f)
  | 0x00, 5, .fma f => some (.div f)
  | 0x00, 6, .fma f => some (.divn f)
  | 0x00, 7, .fma f => some (.rem f)
  | 0x00, 8, .fma f => some (.remn f)
  | 0x00, 9, .fma f => some (.andR f)
  | 0x00, 10, .fma f => some (.orR f)
  | 0x00, 11, .fma f => some (.xor f)
  | 0x00, 12, .fma f => some (.andn f)
  | 0x00, 13, .fma f => some (.shl f)
  | 0x00, 14, .fma f => some (.shr f)
  | 0x00, 15, .fma f => some (.sra f)
  | 0x00, 16, .fma f => some (.rol f)
  | 0x00, 17, .fma f => some (.min f)
  | 0x00, 18, .fma f => some (.max f)
  | 0x00, 19, .fma f => some (.minn f)
  | 0x00, 20, .fma f => some (.maxn f)
  | 0x00, 21, .fma f => some (.clz f)
  | 0x00, 22, .fma f => some (.ctz f)
  | 0x00, 23, .fma f => some (.popc f)
  | 0x00, 24, .fma f => some (.brev f)
  | 0x00, 25, .fma f => some (.sext f)
  | 0x00, 26, .fma f => some (.zext f)
  | 0x00, 27, .fma f => some (.sel f)
  | 0x00, 28, .fma f => some (.abs f)
  | 0x00, 29, .fma f => some (.neg f)
  | 0x01, 0, .fmi f => some (.addi f)
  | 0x01, 1, .fmi f => some (.muli f)
  | 0x01, 2, .fmi f => some (.andi f)
  | 0x01, 3, .fmi f => some (.ori f)
  | 0x01, 4, .fmi f => some (.xori f)
  | 0x01, 5, .fmi f => some (.shli f)
  | 0x01, 6, .fmi f => some (.shri f)
  | 0x01, 7, .fmi f => some (.srai f)
  | 0x01, 8, .fmi f => some (.movi f)
  | 0x01, 9, .fmi f => some (.movhi f)
  | 0x02, 0, .fma f => some (.cmpeq f)
  | 0x02, 1, .fma f => some (.cmpne f)
  | 0x02, 2, .fma f => some (.cmplt f)
  | 0x02, 3, .fma f => some (.cmple f)
  | 0x02, 4, .fma f => some (.cmpltn f)
  | 0x02, 5, .fma f => some (.cmplen f)
  | 0x03, 0, .fmi f => some (.cmpeqi f)
  | 0x03, 1, .fmi f => some (.cmpnei f)
  | 0x03, 2, .fmi f => some (.cmplti f)
  | 0x03, 3, .fmi f => some (.cmplei f)
  | 0x03, 4, .fmi f => some (.cmpltni f)
  | 0x03, 5, .fmi f => some (.cmpleni f)
  | 0x04, 0, .fma f => some (.fadd f)
  | 0x04, 1, .fma f => some (.fsub f)
  | 0x04, 2, .fma f => some (.fmul f)
  | 0x04, 3, .fma f => some (.ffma f)
  | 0x04, 4, .fma f => some (.fdiv f)
  | 0x04, 5, .fma f => some (.fsqrt f)
  | 0x04, 6, .fma f => some (.fmin f)
  | 0x04, 7, .fma f => some (.fmax f)
  | 0x04, 8, .fma f => some (.fcvti f)
  | 0x04, 9, .fma f => some (.fcvtf f)
  | 0x04, 10, .fma f => some (.fcmplt f)
  | 0x04, 11, .fma f => some (.fcmpeq f)
  | 0x40, 0, .fmj f => some (.br f)
  | 0x40, 1, .fmj f => some (.call f)
  | 0x40, 2, .fmj f => some (.jr f)
  | 0x40, 3, .fmj f => some (.jlr f)
  | 0x41, 0, .fmj f => some (.loop f)
  | 0x41, 1, .fmj f => some (.breakl f)
  | 0x42, 0, .fma f => some (.pset f)
  | 0x42, 1, .fma f => some (.pclr f)
  | 0x42, 2, .fma f => some (.pand f)
  | 0x42, 3, .fma f => some (.por f)
  | 0x42, 4, .fma f => some (.pxor f)
  | 0x42, 5, .fma f => some (.pnot f)
  | 0x43, 0, .fms f => some (.halt f)
  | 0x43, 1, .fms f => some (.yield f)
  | 0x43, 2, .fms f => some (.nop f)
  | 0x43, 3, .fms f => some (.estim f)
  | 0x43, 4, .fms f => some (.sysr f)
  | 0x43, 5, .fms f => some (.sysw f)
  | 0x60, 0, .fmk f => some (.twait f)
  | 0x60, 1, .fmk f => some (.tskip f)
  | 0x60, 2, .fmk f => some (.tsig f)
  | 0x60, 3, .fmk f => some (.tstat f)
  | 0x60, 4, .fmk f => some (.tdone f)
  | 0x60, 5, .fmk f => some (.tquota f)
  | 0x60, 6, .fmk f => some (.treset f)
  | 0x60, 7, .fmk f => some (.tget f)
  | 0x60, 8, .fmk f => some (.tins f)
  | 0x61, 0, .fmi f => some (.kset f)
  | 0x61, 1, .fmi f => some (.kadd f)
  | 0x61, 2, .fmi f => some (.kmovx f)
  | 0x62, 0, .fmi f => some (.fqpush f)
  | 0x62, 1, .fmi f => some (.fqpushi f)
  | 0x62, 2, .fmi f => some (.fqclr f)
  | 0x62, 3, .fmi f => some (.shapeset f)
  | 0x62, 4, .fmi f => some (.shapei f)
  | 0x63, 0, .fma f => some (.kvaddr f)
  | 0x63, 1, .fma f => some (.arnset f)
  | 0x63, 2, .fma f => some (.pfxfind f)
  | 0x63, 3, .fma f => some (.pfxpin f)
  | 0x63, 4, .fma f => some (.pfxunpin f)
  | 0x63, 5, .fma f => some (.pfxins f)
  | 0x64, 0, .fmk f => some (.bhash f)
  | 0x6C, 0, .fmc f => some (.claim f)
  | 0x6D, 0, .fmf f => some (.fence f)
  | 0x6E, 0, .fms f => some (.barArrive f)
  | 0x6E, 1, .fms f => some (.barWait f)
  | 0x6E, 2, .fms f => some (.barSync f)
  | 0x6E, 3, .fms f => some (.barLeave f)
  | 0x6F, 0, .fmx f => some (.amh f)
  | 0x70, 0, .fmm f => some (.lds f)
  | 0x71, 0, .fmm f => some (.sts f)
  | 0x72, 0, .fmm f => some (.ldc f)
  | 0x73, 0, .fmm f => some (.stc f)
  | 0x74, 0, .fmm f => some (.ldd f)
  | 0x75, 0, .fmm f => some (.std f)
  | 0x76, 0, .fmm f => some (.ldm f)
  | 0x77, 0, .fmm f => some (.stm f)
  | 0x78, 0, .fmm f => some (.ldx f)
  | 0x79, 0, .fmm f => some (.stx f)
  | 0x7A, 0, .fmm f => some (.ldh f)
  | 0x7B, 0, .fmm f => some (.sth f)
  | 0x7C, 0, .fmx f => some (.amc f)
  | 0x7D, 0, .fmx f => some (.amd f)
  | 0x7E, 0, .fmx f => some (.amm f)
  | 0x7F, 0, .fmx f => some (.amx f)
  | 0x80, 0, .fmt f => some (.olend f)
  | 0x80, 1, .fmt f => some (.ogive f)
  | 0x80, 2, .fmt f => some (.ortrn f)
  | 0x80, 3, .fmt f => some (.osplit f)
  | 0x80, 4, .fmt f => some (.ojoin f)
  | 0x80, 5, .fmt f => some (.oshare f)
  | 0x80, 6, .fmt f => some (.odrop f)
  | 0x80, 7, .fmt f => some (.oquery f)
  | 0x80, 8, .fmt f => some (.oreclaim f)
  | 0xA0, 0, .fms f => some (.trap f)
  | 0xA0, 1, .fms f => some (.tret f)
  | 0xA0, 2, .fms f => some (.dbgbrk f)
  | 0xA0, 3, .fms f => some (.trcmark f)
  | 0xA0, 4, .fms f => some (.cntsave f)
  | 0xA0, 5, .fms f => some (.cntload f)
  | 0xA0, 6, .fms f => some (.tlbinv f)
  | 0xC0, 0, .fml f => some (.vadd f)
  | 0xC0, 1, .fml f => some (.vsub f)
  | 0xC0, 2, .fml f => some (.vmul f)
  | 0xC0, 3, .fml f => some (.vfma f)
  | 0xC0, 4, .fml f => some (.vfms f)
  | 0xC0, 5, .fml f => some (.vmin f)
  | 0xC0, 6, .fml f => some (.vmax f)
  | 0xC0, 7, .fml f => some (.vabs f)
  | 0xC0, 8, .fml f => some (.vneg f)
  | 0xC0, 9, .fml f => some (.vscale f)
  | 0xC0, 10, .fml f => some (.vaddx f)
  | 0xC1, 0, .fml f => some (.vand f)
  | 0xC1, 1, .fml f => some (.vor f)
  | 0xC1, 2, .fml f => some (.vxor f)
  | 0xC1, 3, .fml f => some (.vnot f)
  | 0xC1, 4, .fml f => some (.vshl f)
  | 0xC1, 5, .fml f => some (.vshr f)
  | 0xC1, 6, .fml f => some (.vsra f)
  | 0xC2, 0, .fml f => some (.vcmpeq f)
  | 0xC2, 1, .fml f => some (.vcmplt f)
  | 0xC2, 2, .fml f => some (.vcmple f)
  | 0xC2, 3, .fml f => some (.vsel f)
  | 0xC2, 4, .fml f => some (.vclamp f)
  | 0xC3, 0, .fml f => some (.vcvt f)
  | 0xC3, 1, .fml f => some (.vquant f)
  | 0xC3, 2, .fml f => some (.vdeq f)
  | 0xC4, 0, .fml f => some (.vrcp f)
  | 0xC4, 1, .fml f => some (.vrsqrt f)
  | 0xC4, 2, .fml f => some (.vsqrt f)
  | 0xC4, 3, .fml f => some (.vexp2 f)
  | 0xC4, 4, .fml f => some (.vexp f)
  | 0xC4, 5, .fml f => some (.vlog2 f)
  | 0xC4, 6, .fml f => some (.vlog f)
  | 0xC4, 7, .fml f => some (.vsin f)
  | 0xC4, 8, .fml f => some (.vcos f)
  | 0xC4, 9, .fml f => some (.vtanh f)
  | 0xC4, 10, .fml f => some (.vsigm f)
  | 0xC4, 11, .fml f => some (.verf f)
  | 0xC5, 0, .fml f => some (.vmov f)
  | 0xC5, 1, .fml f => some (.vfill f)
  | 0xC5, 2, .fml f => some (.viota f)
  | 0xC5, 3, .fml f => some (.vtrans f)
  | 0xC5, 4, .fml f => some (.vshuf f)
  | 0xC5, 5, .fml f => some (.vbcrow f)
  | 0xC5, 6, .fml f => some (.vbccol f)
  | 0xE0, 0, .fml f => some (.mma f)
  | 0xE0, 1, .fml f => some (.mmach f)
  | 0xE1, 0, .fml f => some (.mmai f)
  | 0xE2, 0, .fml f => some (.mdrain f)
  | 0xE2, 1, .fml f => some (.mzero f)
  | 0xE2, 2, .fml f => some (.mldacc f)
  | 0xE3, 0, .fml f => some (.cbload f)
  | 0xE8, 0, .fml f => some (.tload f)
  | 0xE9, 0, .fml f => some (.tstore f)
  | 0xEA, 0, .fml f => some (.bcopy f)
  | 0xEB, 0, .fml f => some (.cxfer f)
  | 0xEC, 0, .fml f => some (.wmwait f)
  | 0xF0, 0, .fml f => some (.sinit f)
  | 0xF0, 1, .fml f => some (.qadd f)
  | 0xF0, 2, .fml f => some (.qmerge f)
  | 0xF0, 3, .fml f => some (.qquant f)
  | 0xF0, 4, .fml f => some (.qrank f)
  | 0xF0, 5, .fml f => some (.hadd f)
  | 0xF0, 6, .fml f => some (.hmerge f)
  | 0xF0, 7, .fml f => some (.htop f)
  | 0xF0, 8, .fml f => some (.dadd f)
  | 0xF0, 9, .fml f => some (.dmerge f)
  | 0xF0, 10, .fml f => some (.dcest f)
  | 0xF0, 11, .fml f => some (.msum f)
  | 0xF0, 12, .fml f => some (.msmerge f)
  | 0xF0, 13, .fml f => some (.msrow f)
  | 0xF0, 14, .fml f => some (.lserow f)
  | 0xF0, 15, .fml f => some (.lsemerge f)
  | 0xF0, 16, .fml f => some (.sread f)
  | 0xF8, 0, .fml f => some (.coll f)
  | 0xF9, 0, .fml f => some (.collstop f)
  | _, _, _ => none

/-- Whether the first word starts a long instruction: OP[7:6] = 0b11 (R67). -/
def isLong (w0 : Word) : Bool := w0.extractLsb' 6 2 == 3

/-- Bytes of the instruction that a first word starts (R67). -/
def lengthOf (w0 : Word) : Nat := if isLong w0 then 16 else 8

/-- The 128 bits of an instruction: a short one has zeros above its word. -/
def wide (w0 w1 : Word) : BitVec 128 := if isLong w0 then w1 ++ w0 else (0#64) ++ w0

/-- Decoding with the static checks of R79, 2 to 6 in order; an error is the ILLEGAL subcode of R80. -/
def decode (w0 w1 : Word) : Except Nat Instr :=
  let w := wide w0 w1
  match opcode (bits w 0 8).toNat with
  | none => .error 1
  | some (fm, n) =>
    if bits w 8 4 == 8 then .error 2
    else match instrOf (bits w 0 8).toNat (fnOf fm w) (fieldsOf fm w) with
      | none => .error 3
      | some i =>
        if n != 0 && n ≤ fnOf fm w then .error 3
        else if !(reservedZero fm w && i.unusedZero) then .error 4
        else if !i.valuesOk then .error 5
        else .ok i

/-- The opcode, function and fields of an instruction; a device step has no word. -/
def Instr.parts : Instr → Option (Nat × Nat × Fields)
  | .add f => some (0x00, 0, .fma f)
  | .sub f => some (0x00, 1, .fma f)
  | .mul f => some (0x00, 2, .fma f)
  | .mulh f => some (0x00, 3, .fma f)
  | .mulhn f => some (0x00, 4, .fma f)
  | .div f => some (0x00, 5, .fma f)
  | .divn f => some (0x00, 6, .fma f)
  | .rem f => some (0x00, 7, .fma f)
  | .remn f => some (0x00, 8, .fma f)
  | .andR f => some (0x00, 9, .fma f)
  | .orR f => some (0x00, 10, .fma f)
  | .xor f => some (0x00, 11, .fma f)
  | .andn f => some (0x00, 12, .fma f)
  | .shl f => some (0x00, 13, .fma f)
  | .shr f => some (0x00, 14, .fma f)
  | .sra f => some (0x00, 15, .fma f)
  | .rol f => some (0x00, 16, .fma f)
  | .min f => some (0x00, 17, .fma f)
  | .max f => some (0x00, 18, .fma f)
  | .minn f => some (0x00, 19, .fma f)
  | .maxn f => some (0x00, 20, .fma f)
  | .clz f => some (0x00, 21, .fma f)
  | .ctz f => some (0x00, 22, .fma f)
  | .popc f => some (0x00, 23, .fma f)
  | .brev f => some (0x00, 24, .fma f)
  | .sext f => some (0x00, 25, .fma f)
  | .zext f => some (0x00, 26, .fma f)
  | .sel f => some (0x00, 27, .fma f)
  | .abs f => some (0x00, 28, .fma f)
  | .neg f => some (0x00, 29, .fma f)
  | .addi f => some (0x01, 0, .fmi f)
  | .muli f => some (0x01, 1, .fmi f)
  | .andi f => some (0x01, 2, .fmi f)
  | .ori f => some (0x01, 3, .fmi f)
  | .xori f => some (0x01, 4, .fmi f)
  | .shli f => some (0x01, 5, .fmi f)
  | .shri f => some (0x01, 6, .fmi f)
  | .srai f => some (0x01, 7, .fmi f)
  | .movi f => some (0x01, 8, .fmi f)
  | .movhi f => some (0x01, 9, .fmi f)
  | .cmpeq f => some (0x02, 0, .fma f)
  | .cmpne f => some (0x02, 1, .fma f)
  | .cmplt f => some (0x02, 2, .fma f)
  | .cmple f => some (0x02, 3, .fma f)
  | .cmpltn f => some (0x02, 4, .fma f)
  | .cmplen f => some (0x02, 5, .fma f)
  | .cmpeqi f => some (0x03, 0, .fmi f)
  | .cmpnei f => some (0x03, 1, .fmi f)
  | .cmplti f => some (0x03, 2, .fmi f)
  | .cmplei f => some (0x03, 3, .fmi f)
  | .cmpltni f => some (0x03, 4, .fmi f)
  | .cmpleni f => some (0x03, 5, .fmi f)
  | .fadd f => some (0x04, 0, .fma f)
  | .fsub f => some (0x04, 1, .fma f)
  | .fmul f => some (0x04, 2, .fma f)
  | .ffma f => some (0x04, 3, .fma f)
  | .fdiv f => some (0x04, 4, .fma f)
  | .fsqrt f => some (0x04, 5, .fma f)
  | .fmin f => some (0x04, 6, .fma f)
  | .fmax f => some (0x04, 7, .fma f)
  | .fcvti f => some (0x04, 8, .fma f)
  | .fcvtf f => some (0x04, 9, .fma f)
  | .fcmplt f => some (0x04, 10, .fma f)
  | .fcmpeq f => some (0x04, 11, .fma f)
  | .br f => some (0x40, 0, .fmj f)
  | .call f => some (0x40, 1, .fmj f)
  | .jr f => some (0x40, 2, .fmj f)
  | .jlr f => some (0x40, 3, .fmj f)
  | .loop f => some (0x41, 0, .fmj f)
  | .breakl f => some (0x41, 1, .fmj f)
  | .pset f => some (0x42, 0, .fma f)
  | .pclr f => some (0x42, 1, .fma f)
  | .pand f => some (0x42, 2, .fma f)
  | .por f => some (0x42, 3, .fma f)
  | .pxor f => some (0x42, 4, .fma f)
  | .pnot f => some (0x42, 5, .fma f)
  | .halt f => some (0x43, 0, .fms f)
  | .yield f => some (0x43, 1, .fms f)
  | .nop f => some (0x43, 2, .fms f)
  | .estim f => some (0x43, 3, .fms f)
  | .sysr f => some (0x43, 4, .fms f)
  | .sysw f => some (0x43, 5, .fms f)
  | .twait f => some (0x60, 0, .fmk f)
  | .tskip f => some (0x60, 1, .fmk f)
  | .tsig f => some (0x60, 2, .fmk f)
  | .tstat f => some (0x60, 3, .fmk f)
  | .tdone f => some (0x60, 4, .fmk f)
  | .tquota f => some (0x60, 5, .fmk f)
  | .treset f => some (0x60, 6, .fmk f)
  | .tget f => some (0x60, 7, .fmk f)
  | .tins f => some (0x60, 8, .fmk f)
  | .kset f => some (0x61, 0, .fmi f)
  | .kadd f => some (0x61, 1, .fmi f)
  | .kmovx f => some (0x61, 2, .fmi f)
  | .fqpush f => some (0x62, 0, .fmi f)
  | .fqpushi f => some (0x62, 1, .fmi f)
  | .fqclr f => some (0x62, 2, .fmi f)
  | .shapeset f => some (0x62, 3, .fmi f)
  | .shapei f => some (0x62, 4, .fmi f)
  | .kvaddr f => some (0x63, 0, .fma f)
  | .arnset f => some (0x63, 1, .fma f)
  | .pfxfind f => some (0x63, 2, .fma f)
  | .pfxpin f => some (0x63, 3, .fma f)
  | .pfxunpin f => some (0x63, 4, .fma f)
  | .pfxins f => some (0x63, 5, .fma f)
  | .bhash f => some (0x64, 0, .fmk f)
  | .claim f => some (0x6C, 0, .fmc f)
  | .fence f => some (0x6D, 0, .fmf f)
  | .barArrive f => some (0x6E, 0, .fms f)
  | .barWait f => some (0x6E, 1, .fms f)
  | .barSync f => some (0x6E, 2, .fms f)
  | .barLeave f => some (0x6E, 3, .fms f)
  | .amh f => some (0x6F, 0, .fmx f)
  | .lds f => some (0x70, 0, .fmm f)
  | .sts f => some (0x71, 0, .fmm f)
  | .ldc f => some (0x72, 0, .fmm f)
  | .stc f => some (0x73, 0, .fmm f)
  | .ldd f => some (0x74, 0, .fmm f)
  | .std f => some (0x75, 0, .fmm f)
  | .ldm f => some (0x76, 0, .fmm f)
  | .stm f => some (0x77, 0, .fmm f)
  | .ldx f => some (0x78, 0, .fmm f)
  | .stx f => some (0x79, 0, .fmm f)
  | .ldh f => some (0x7A, 0, .fmm f)
  | .sth f => some (0x7B, 0, .fmm f)
  | .amc f => some (0x7C, 0, .fmx f)
  | .amd f => some (0x7D, 0, .fmx f)
  | .amm f => some (0x7E, 0, .fmx f)
  | .amx f => some (0x7F, 0, .fmx f)
  | .olend f => some (0x80, 0, .fmt f)
  | .ogive f => some (0x80, 1, .fmt f)
  | .ortrn f => some (0x80, 2, .fmt f)
  | .osplit f => some (0x80, 3, .fmt f)
  | .ojoin f => some (0x80, 4, .fmt f)
  | .oshare f => some (0x80, 5, .fmt f)
  | .odrop f => some (0x80, 6, .fmt f)
  | .oquery f => some (0x80, 7, .fmt f)
  | .oreclaim f => some (0x80, 8, .fmt f)
  | .trap f => some (0xA0, 0, .fms f)
  | .tret f => some (0xA0, 1, .fms f)
  | .dbgbrk f => some (0xA0, 2, .fms f)
  | .trcmark f => some (0xA0, 3, .fms f)
  | .cntsave f => some (0xA0, 4, .fms f)
  | .cntload f => some (0xA0, 5, .fms f)
  | .tlbinv f => some (0xA0, 6, .fms f)
  | .vadd f => some (0xC0, 0, .fml f)
  | .vsub f => some (0xC0, 1, .fml f)
  | .vmul f => some (0xC0, 2, .fml f)
  | .vfma f => some (0xC0, 3, .fml f)
  | .vfms f => some (0xC0, 4, .fml f)
  | .vmin f => some (0xC0, 5, .fml f)
  | .vmax f => some (0xC0, 6, .fml f)
  | .vabs f => some (0xC0, 7, .fml f)
  | .vneg f => some (0xC0, 8, .fml f)
  | .vscale f => some (0xC0, 9, .fml f)
  | .vaddx f => some (0xC0, 10, .fml f)
  | .vand f => some (0xC1, 0, .fml f)
  | .vor f => some (0xC1, 1, .fml f)
  | .vxor f => some (0xC1, 2, .fml f)
  | .vnot f => some (0xC1, 3, .fml f)
  | .vshl f => some (0xC1, 4, .fml f)
  | .vshr f => some (0xC1, 5, .fml f)
  | .vsra f => some (0xC1, 6, .fml f)
  | .vcmpeq f => some (0xC2, 0, .fml f)
  | .vcmplt f => some (0xC2, 1, .fml f)
  | .vcmple f => some (0xC2, 2, .fml f)
  | .vsel f => some (0xC2, 3, .fml f)
  | .vclamp f => some (0xC2, 4, .fml f)
  | .vcvt f => some (0xC3, 0, .fml f)
  | .vquant f => some (0xC3, 1, .fml f)
  | .vdeq f => some (0xC3, 2, .fml f)
  | .vrcp f => some (0xC4, 0, .fml f)
  | .vrsqrt f => some (0xC4, 1, .fml f)
  | .vsqrt f => some (0xC4, 2, .fml f)
  | .vexp2 f => some (0xC4, 3, .fml f)
  | .vexp f => some (0xC4, 4, .fml f)
  | .vlog2 f => some (0xC4, 5, .fml f)
  | .vlog f => some (0xC4, 6, .fml f)
  | .vsin f => some (0xC4, 7, .fml f)
  | .vcos f => some (0xC4, 8, .fml f)
  | .vtanh f => some (0xC4, 9, .fml f)
  | .vsigm f => some (0xC4, 10, .fml f)
  | .verf f => some (0xC4, 11, .fml f)
  | .vmov f => some (0xC5, 0, .fml f)
  | .vfill f => some (0xC5, 1, .fml f)
  | .viota f => some (0xC5, 2, .fml f)
  | .vtrans f => some (0xC5, 3, .fml f)
  | .vshuf f => some (0xC5, 4, .fml f)
  | .vbcrow f => some (0xC5, 5, .fml f)
  | .vbccol f => some (0xC5, 6, .fml f)
  | .mma f => some (0xE0, 0, .fml f)
  | .mmach f => some (0xE0, 1, .fml f)
  | .mmai f => some (0xE1, 0, .fml f)
  | .mdrain f => some (0xE2, 0, .fml f)
  | .mzero f => some (0xE2, 1, .fml f)
  | .mldacc f => some (0xE2, 2, .fml f)
  | .cbload f => some (0xE3, 0, .fml f)
  | .tload f => some (0xE8, 0, .fml f)
  | .tstore f => some (0xE9, 0, .fml f)
  | .bcopy f => some (0xEA, 0, .fml f)
  | .cxfer f => some (0xEB, 0, .fml f)
  | .wmwait f => some (0xEC, 0, .fml f)
  | .sinit f => some (0xF0, 0, .fml f)
  | .qadd f => some (0xF0, 1, .fml f)
  | .qmerge f => some (0xF0, 2, .fml f)
  | .qquant f => some (0xF0, 3, .fml f)
  | .qrank f => some (0xF0, 4, .fml f)
  | .hadd f => some (0xF0, 5, .fml f)
  | .hmerge f => some (0xF0, 6, .fml f)
  | .htop f => some (0xF0, 7, .fml f)
  | .dadd f => some (0xF0, 8, .fml f)
  | .dmerge f => some (0xF0, 9, .fml f)
  | .dcest f => some (0xF0, 10, .fml f)
  | .msum f => some (0xF0, 11, .fml f)
  | .msmerge f => some (0xF0, 12, .fml f)
  | .msrow f => some (0xF0, 13, .fml f)
  | .lserow f => some (0xF0, 14, .fml f)
  | .lsemerge f => some (0xF0, 15, .fml f)
  | .sread f => some (0xF0, 16, .fml f)
  | .coll f => some (0xF8, 0, .fml f)
  | .collstop f => some (0xF9, 0, .fml f)
  | _ => none

/-- The word of fields under an opcode and a function (R70, R73), most significant field first. -/
def Fields.pack (op fn : Nat) : Fields → BitVec 128
  | .fma f => .setWidth 128 (f.xc ++ f.sz ++ BitVec.ofNat 8 fn ++ f.xb ++ f.xa ++ f.xd ++ f.g ++ BitVec.ofNat 8 op)
  | .fmi f => .setWidth 128 (f.imm ++ BitVec.ofNat 8 fn ++ f.xa ++ f.xd ++ f.g ++ BitVec.ofNat 8 op)
  | .fmj f => .setWidth 128 (f.off ++ BitVec.ofNat 4 fn ++ f.aux ++ f.xb ++ f.xa ++ f.g ++ BitVec.ofNat 8 op)
  | .fmm f => .setWidth 128 (f.disp ++ f.sem ++ f.cp ++ f.scope ++ f.cls ++ f.sx ++ f.sz ++ f.sh ++ f.xi ++ f.xa ++ f.xt
      ++ f.g ++ BitVec.ofNat 8 op)
  | .fmx f => .setWidth 128 (f.aop ++ f.disp ++ f.sem ++ f.cp ++ f.scope ++ f.cls ++ f.sx ++ f.sz ++ 0#2 ++ f.xi ++ f.xa
      ++ f.xt ++ f.g ++ BitVec.ofNat 8 op)
  | .fmc f => .setWidth 128 (f.disp ++ f.sem ++ f.cp ++ f.scope ++ f.cls ++ f.sx ++ f.sz ++ f.cspace ++ f.xi ++ f.xa ++ f.xt
      ++ f.g ++ BitVec.ofNat 8 op)
  | .fmk f => .setWidth 128 (BitVec.ofNat 8 fn ++ 0#1 ++ f.pd ++ f.q ++ f.top ++ f.xa ++ f.xd ++ f.g ++ BitVec.ofNat 8 op)
  | .fmt f => .setWidth 128 (BitVec.ofNat 8 fn ++ 0#1 ++ f.space ++ f.ls ++ f.xb ++ f.xa ++ f.xd ++ f.g ++ BitVec.ofNat 8 op)
  | .fms f => .setWidth 128 (f.imm ++ BitVec.ofNat 8 fn ++ f.sreg ++ f.xa ++ f.xd ++ f.g ++ BitVec.ofNat 8 op)
  | .fmf f => .setWidth 128 (f.kind ++ f.scope ++ f.path ++ f.cls ++ 0#6 ++ f.g ++ BitVec.ofNat 8 op)
  | .fml f => .setWidth 128 (f.imm ++ BitVec.ofNat 8 fn ++ f.xs2 ++ f.xs1 ++ f.tc ++ f.tb ++ f.opx ++ f.chk ++ f.rm ++ f.sat
      ++ f.sk ++ f.ta ++ f.dq ++ f.dt ++ f.sub ++ f.g ++ BitVec.ofNat 8 op)

/-- The 128 bits of an instruction's encoding; zero for a device step. -/
def Instr.encode128 (i : Instr) : BitVec 128 :=
  match i.parts with
  | some (op, fn, f) => f.pack op fn
  | none => 0

/-- The first and the second word of an instruction. -/
def Instr.word0 (i : Instr) : Word := i.encode128.extractLsb' 0 64
def Instr.word1 (i : Instr) : Word := i.encode128.extractLsb' 64 64

/-- Bytes of an instruction (R67). -/
def Instr.length (i : Instr) : Nat := if i.long?.isSome then 16 else 8

/-- The words of an instruction, in the order they are stored. -/
def encode (i : Instr) : List Word :=
  if i.isWord then (if i.long?.isSome then [i.word0, i.word1] else [i.word0]) else []

/-- What the decoder reads from an instruction whose bits are `w`, the first word in bits 63..0. -/
def decodeTableWord (_nbits w : Nat) : Option Instr :=
  match decode (BitVec.ofNat 64 w) (BitVec.ofNat 64 (w / 2 ^ 64)) with
  | .ok i => some i
  | .error _ => none

/-! ### Field helpers of the pseudocode (R82) -/

/-- `sext(v, n)`: the signed value of the low `n` bits. -/
def sextNat (v n : Nat) : Int :=
  let z := v % 2 ^ n
  if z < 2 ^ (n - 1) then z else (z : Int) - 2 ^ n

/-- A word from an integer, modulo 2^64. -/
def wordOfInt (v : Int) : Word := BitVec.ofInt 64 v

/-- The little-endian bytes of a number (R2). -/
def bytesLE (v : Nat) : Nat → List Byte
  | 0 => []
  | n + 1 => BitVec.ofNat 8 v :: bytesLE (v / 256) n

/-- The number of little-endian bytes (R2). -/
def natLE : List Byte → Nat
  | [] => 0
  | b :: bs => b.toNat + 256 * natLE bs

end Sys2Proof
end

