-- ==== Sys2Proof/Machine/Table.lean ====
section
/-! DEFINITION. Sparse tables (Word.lean): reading with a default, writing so that the canonical form is kept, and the
same for byte stores, with the little-endian accesses built from them (R2). -/

namespace Sys2Proof

/-- The value at a key; an unlisted key holds the default. -/
def tget {α : Type} (d : α) : Table α → Nat → α
  | [], _ => d
  | (k, v) :: t, a => if a = k then v else tget d t a

/-- The entry at a key, if one is listed. -/
def tfind {α : Type} : Table α → Nat → Option α
  | [], _ => none
  | (k, v) :: t, a => if a = k then some v else tfind t a

/-- Removes a key. -/
def tdel {α : Type} : Table α → Nat → Table α
  | [], _ => []
  | (k, v) :: t, a => if a = k then tdel t a else (k, v) :: tdel t a

/-- Lists an entry at a key, in place of the one there. -/
def tput {α : Type} : Table α → Nat → α → Table α
  | [], a, v => [(a, v)]
  | (k, w) :: t, a, v => if a = k then (k, v) :: t else if a < k then (a, v) :: (k, w) :: t else (k, w) :: tput t a v

/-- Writes a value: writing what an unlisted key holds removes the entry, so that equal tables are equal data. -/
def tset {α : Type} [DecidableEq α] (d : α) (t : Table α) (a : Nat) (v : α) : Table α :=
  if v = d then tdel t a else tput t a v

/-- Strictly rising keys above a bound. -/
def tsorted {α : Type} : Option Nat → Table α → Bool
  | _, [] => true
  | lo, (k, _) :: t => (match lo with | none => true | some b => b < k) && tsorted (some k) t

/-- The canonical form of a table: strictly rising keys and no entry equal to the default. -/
def twf {α : Type} [DecidableEq α] (d : α) (t : Table α) : Bool :=
  tsorted none t && t.all (fun e => e.2 != d)

/-- The canonical form of a byte store. -/
def Memory.wf (m : Memory) : Bool := twf 0 m

/-- The byte at an address: an unlisted address reads as zero (R8). -/
def Memory.get (m : Memory) (a : Nat) : Byte := tget 0 m a

/-- Writes one byte. -/
def Memory.set (m : Memory) (a : Nat) (b : Byte) : Memory := tset 0 m a b

/-- `n` bytes at offset `o` of a block held as one number. -/
def fieldOf (v o n : Nat) : Nat := v / 2 ^ (8 * o) % 2 ^ (8 * n)

/-- Reads `n` bytes from an address, lowest first. -/
def Memory.read (m : Memory) (a : Nat) : Nat → List Byte
  | 0 => []
  | n + 1 => m.get a :: m.read (a + 1) n

/-- Writes bytes from an address on. -/
def Memory.write (m : Memory) (a : Nat) : List Byte → Memory
  | [] => m
  | b :: bs => (m.set a b).write (a + 1) bs

/-- Writes the listed bytes of a block at `a`: (offset, byte) pairs. -/
def Memory.patch (m : Memory) (a : Nat) : List (Nat × Byte) → Memory
  | [] => m
  | (o, b) :: bs => (m.set (a + o) b).patch a bs

/-- Zeroes `n` bytes from an address on (keys in the range are dropped). -/
def Memory.zero (m : Memory) (a n : Nat) : Memory := m.filter (fun e => !(a ≤ e.1 && e.1 < a + n))

/-- Reads a little-endian number of `n` bytes (R2). -/
def Memory.readLE (m : Memory) (a n : Nat) : Nat := natLE (m.read a n)

/-- Writes the low `n` bytes of a number, lowest first (R2). -/
def Memory.writeLE (m : Memory) (a v n : Nat) : Memory := m.write a (bytesLE v n)

end Sys2Proof
end

