-- ==== Sys2Proof/Machine/State.lean ====
section
/-! DEFINITION. Everything the spec gives the machine to hold, as plain data, and the state after reset. Objects are numbered
by what they are and never by where they run (R28, R202), so that a restore moves nothing:
stream `launch*4096 + stream index`, core of a launch `launch*512 + cluster rank*8 + core rank`, physical core
`die*96 + cluster*8 + core`, physical cluster `die*12 + cluster`. -/

namespace Sys2Proof.Machine

/-- The agent that acts in `exec`: a stream's sequencer, or an engine at the head of one of its queues. -/
inductive Actor where
  | sequencer
  | engine (unit : Nat)
  deriving DecidableEq, Repr

/-- The particulars of a device step (spec/95): which object it is about, and what the outside world brings with it.
Each step's meaning says which fields it reads. -/
structure Input where
  a : Nat := 0
  b : Nat := 0
  c : Nat := 0
  d : Nat := 0
  ok : Bool := true
  flags : List Bool := []
  nums : List Nat := []
  bytes : List Byte := []
  upto : Option Nat := none
  w0 : Word := 0
  w1 : Word := 0
  chunk : Option Chunk := none
  access : Option RemoteAccess := none
  deriving DecidableEq, Repr

/-- What acts next: the order the spec leaves to the hardware, as data (log entry 5). -/
inductive Turn where
  /-- Stream `k` issues one instruction; `late` leaves a load's or atomic's data to LOAD_DATA_ARRIVES. -/
  | issue (k : Nat) (late : Bool)
  /-- Engine `unit` (1 matrix, 2 vector, 3 Porter, 4 Assayer) starts the head of stream `k`'s queue. -/
  | start (k unit : Nat)
  /-- A device step happens. -/
  | event (i : Instr) (p : Input)
  /-- Nanoseconds pass. -/
  | elapse (ns : Nat)
  /-- ACLK cycles of a physical cluster pass. -/
  | cycles (cluster n : Nat)
  /-- A valid L1 sector leaves a core's L1, written back first if dirty (R193). -/
  | evict (key : Nat)
  /-- A TLB entry is dropped (R189). -/
  | untranslate (key : Nat)
  /-- A combining buffer is sent to the home L2 (R193). -/
  | combine (key : Nat)
  /-- A requester loses ACLK cycles to bank conflicts (R414). -/
  | conflict (key n : Nat)
  /-- Host memory or a peer's memory is written by its own side. -/
  | outside (place : Nat) (bytes : List Byte)
  /-- The Rearguard's copy of stream `k`'s context comes to hold `v` in X register `x` (R118, log entry 68). -/
  | upset (k : Nat) (x : BitVec 6) (v : Word)
  deriving DecidableEq, Repr

/-- One firmware image of module flash (R11). -/
structure Image where
  ecdsa : Bool
  lms : Bool
  digest : BitVec 384
  deriving DecidableEq, Repr

/-- An alarm's policy (R18). -/
inductive Policy where
  | log | halt | erase
  deriving DecidableEq, Repr

/-- A row-repair entry of an SRAM store (R12): the store (0 tiles, 1 scratchpad, 2 L1, 3 serai, 4 Depot, 5 L2), which core's,
cluster's or die's, and the offset of the row in it. -/
structure Repair where
  store : Nat
  unit : Nat
  offset : Nat
  deriving DecidableEq, Repr

/-- Module flash (R11, R12, R15, R407): it alone survives the loss of the rails (R22). -/
structure Flash where
  imageA : Image
  imageB : Image
  /-- Both signatures of the configuration record verify; its form is good, the repair entries apart, which are below. -/
  recordSigned : Bool
  recordFormed : Bool
  recordDigest : BitVec 384
  sku : Nat
  /-- The core-disable mask, one bit per physical core. -/
  coreDisable : BitVec 384
  /-- Row-repair entries; for HBM the stack and the offset of the row. -/
  sramRepair : List Repair
  hbmRepair : List (Nat × Nat)
  /-- Policies of the voltage, clock, temperature and mesh alarms. -/
  policies : List Policy
  bktcfg : List Word
  lmsCounter : Nat
  /-- The attestation keys are provisioned (R18, R19). -/
  attestKeys : Bool
  deriving DecidableEq, Repr

/-- A signal of the Factor to the driver: its MSI-X vector, what it is about (0 a page request, 1 a fault record, 2 a queue
fault) and of which page, launch or queue (R46, R384, R392, R398). -/
structure Signal where
  vector : BitVec 6
  kind : Nat
  about : Nat
  deriving DecidableEq, Repr

/-- The device and its management (R7 to R22, R407). -/
structure Device where
  railsGood : Bool
  ready : Bool
  stage : BitVec 3
  failcode : BitVec 8
  erased : Bool
  alVolt : Bool
  alClk : Bool
  alTemp : Bool
  alMesh : Bool
  /-- A stage failed (R7), or an alarm's policy stopped the part (R18). -/
  stopped : Bool
  halted : Bool
  /-- The image that runs and whether the record is accepted (R11, R12). -/
  running : Option Image
  accepted : Bool
  /-- The SKU and the core-disable mask in force (R12). -/
  sku : Nat
  disabled : BitVec 384
  memoryKeys : Bool
  flash : Flash
  /-- The Factor's log of events (R18, R407). -/
  events : List Nat
  /-- Nanoseconds since the rails became good, and that count when READY became 1 (R149). -/
  ns : Nat
  readyAt : Nat
  /-- ACLK cycles of each physical cluster since power-on (R149). -/
  acyc : Table Nat
  sagcnt : Table (BitVec 32)
  /-- Clusters that sag now, and ACLK cycles left of a stretch (R20). -/
  sagging : Table Bool
  stretch : Table Nat
  gated : Table Bool
  /-- FMSTAT (R13), the host's signals (MSI-X, R384) and the words that a command answers. -/
  busy : Bool
  done : Bool
  overrun : Bool
  fmseq : BitVec 32
  pendingSeq : BitVec 32
  answer : Option (Nat × List (Nat × Byte))
  command : Option Nat
  /-- A QSETPRIO that has not been answered: the queue, PRIO, WEIGHT and AGECEIL (R50). -/
  setPrio : Option (List Nat)
  signals : List Signal
  /-- HBM_RSTALL: FORCED and STALL, and the refreshes postponed, by pseudo-channel (R200). -/
  forced : Table Nat
  stall : Table Nat
  postponed : Table Nat
  /-- Counters of TELEM (R21). -/
  droppedStores : Nat
  refusedWidx : Table Nat
  lostPermits : Table Nat
  predictive : Table Nat
  uncorrectable : Nat
  bktcfg : Table Word
  /-- Leaky buckets and whether each is disarmed (R407), and Bloom filters (R408). -/
  buckets : Table Nat
  disarmed : Table Bool
  blooms : Table (BitVec 4096)
  /-- Leak periods that have acted, by class (R407). -/
  leaks : Table Nat
  /-- Cores declared lost, and the times of each core's last divergence (key `2 * core`) and of its last uncorrectable error
(`2 * core + 1`) (R402). -/
  coreLost : Table Bool
  diverged : Table Nat
  deriving DecidableEq, Repr

/-- The states of a region (R204). -/
inductive Hold where
  | excl | shared | lent | quarantined | orphaned
  deriving DecidableEq, Repr

/-- A region of the token directory (R201, R204, R208). -/
structure Region where
  ls : Nat
  state : Hold
  holder : Nat
  lender : Nat
  /-- The holder of each read share (R204). -/
  shares : List Nat
  dirtyLost : Bool
  /-- Its lender is lost: its return orphans it (R211). -/
  lostLender : Bool
  /-- ORPHANED or QUARANTINED: the supervisor that may reclaim it (R231). -/
  super : Nat
  deriving DecidableEq, Repr

/-- A translation as a walk or the TLB gives it (R187): the page's physical address and its attributes, with the page's
size, and what a TLB entry records of the rights (R189): for a page that one region of the token directory covers wholly, the base
of that region and the region as the directory gave it, from which each requester's rights follow. -/
structure Leaf where
  pa : Nat
  ls : Nat
  key : Nat
  host : Bool
  notok : Bool
  mt : Nat
  x : Bool
  w : Bool
  rights : Option (Nat × Region) := none
  deriving DecidableEq, Repr

/-- Address spaces (R186, R191, R192). -/
structure Spaces where
  roots : Table (Option Nat)
  /-- Remote access enabled: key `asid * 4096 + device`. -/
  remote : Table Bool
  window : Option Nat
  /-- The TLBs of cores, clusters and dies (R189): key `(TLB * 2^16 + asid) * 2^36 + virtual page number` of the page's first
  4 KiB, TLB 0 to 383 a physical core's, 384 to 431 a physical cluster's, 432 to 435 a die's. -/
  tlb : Table Leaf
  /-- Queue pages and fault-queue pages stand outside the token system (R37, R392): by physical page, the queue plus 1, or 4,097
  plus the launch; a page that is both bears the queue's mark. -/
  notok : Table Nat
  deriving DecidableEq, Repr

/-- An L1 sector (R195). An unlisted sector is not valid. -/
structure Sector where
  data : BitVec 2048
  dirty : BitVec 256
  scope : BitVec 3
  /-- Classes and paths of the marked bytes: bit `class * 8 + path`. -/
  dcls : BitVec 128
  priv : Bool
  /-- Poison of its bytes (R403). -/
  poison : BitVec 256
  /-- The mark that CP left on its line (R193): 1 next to evict, 2 last to evict. -/
  evict : BitVec 2
  /-- The model's own: what may be ordered after its dirty bytes (log entry 69), by bits of DCLS: a class on path 0, any class of
  an engine's path, bit 6 for count events and bit 7 for full fences. -/
  after : BitVec 128
  deriving DecidableEq, Repr

/-- A write-combining buffer (R193): the 64-byte unit, the bytes it holds. -/
structure Combine where
  unit : Nat
  mask : BitVec 64
  data : BitVec 512
  deriving DecidableEq, Repr

/-- A tile but its data (R102). -/
structure Tile where
  count : BitVec 16
  quota : BitVec 4
  skip : Bool
  writer : Option (BitVec 3)
  inflight : Nat
  wip : Bool
  /-- The write that waits only for reads in flight: its stream and unit, `k * 8 + unit`, or a collective port's,
  `2^60 + handle`. -/
  pending : Option Nat
  /-- ACLK count of the last change of count, quota, inflight or wip (R113). -/
  stamp : Nat
  deriving DecidableEq, Repr

/-- An access that waits for a page (R398): the page's address space and address, what the fault would tell of it. -/
structure PageWait where
  asid : Nat
  va : Nat
  space : Nat
  store : Bool
  fetch : Bool
  /-- The flat index of the element (R391). -/
  f : Nat
  /-- It is the fetch of a TRET with NEXT, on behalf of another stream (R401). -/
  next : Bool := false
  deriving DecidableEq, Repr

/-- The tile that a wait is on: its key and number, the expected count and the count mode, and whether it is a read that waits
(R105, R391). -/
structure TileWait where
  key : Nat
  num : Nat
  exp : BitVec 16
  mode : BitVec 2
  reads : Bool
  /-- Of a destination, the expected counts of the instruction's own retires of the tile (R106). -/
  own : List (BitVec 16) := []
  deriving DecidableEq, Repr

/-- A wait (R113): the ACLK count when its first test failed, the tiles it names, what the fault record tells of it (R391):
the tile it is on, a barrier's tag, or the words ARG0 to ARG2; of a replay turn the ACTOR whose entry it waits for (R419). -/
structure Wait where
  since : Nat
  tiles : List Nat := []
  tile : Option TileWait := none
  tag : Option Nat := none
  actor : Option Nat := none
  args : List Nat := []
  deriving DecidableEq, Repr

/-- A cause with its code, subcode and cause-specific words ARG0 to ARG7 (R389, R391). -/
structure Cause where
  code : Nat
  sub : Nat := 0
  args : List Nat := []
  deriving DecidableEq, Repr

/-- What an entry of an engine queue captures (R114, R268). -/
structure Entry where
  w0 : Word
  w1 : Word
  pc : Word
  /-- Expected counts of DT, TA, TB, TC. -/
  edt : BitVec 16
  eta : BitVec 16
  etb : BitVec 16
  etc : BitVec 16
  xs1 : Word
  xs2 : Word
  shape : Word
  ssr : Word
  rm : BitVec 2
  /-- An MMA that holds no word of FQ yet (R268). -/
  unbound : Bool
  seq : BitVec 32
  /-- The accesses that its stream had issued before it (R239). -/
  mark : Nat
  /-- The tiles it names (R110). -/
  names : List Nat
  /-- The arena of a TLOAD.CHK (R323). -/
  arena : BitVec 512
  deriving DecidableEq, Repr

/-- A new version of a tile, or part of one, waiting to be finished (R107): the tile, the bytes written, the quota and
whether the version is a skip. -/
structure Version where
  tile : Nat
  bytes : List (Nat × Byte)
  quota : BitVec 4
  skip : Bool
  deriving DecidableEq, Repr

/-- What a started Porter entry holds: its iterator record as it was read, the bytes taken from its tile or staged so far with
the offsets of the poisoned ones, the source address of its next compression block, the lent regions it wrote in (place and
address of the base), the words of its first remote error, the fault that stopped it, the wait for a replay turn of its
channel return, the places whose checks its reads have passed under the watermark rule and that it may meet again (R205, R218), and
the hits of a TLOAD.CHK, each with its address and the place that was read (R323). -/
structure PorterRun where
  record : BitVec 512 := 0
  data : List Byte := []
  bad : List Nat := []
  src : Nat := 0
  wrote : List (Nat × Nat) := []
  erred : List Nat := []
  fault : Option Cause := none
  turn : Option Wait := none
  passed : List Nat := []
  hits : List (Nat × Nat) := []
  deriving DecidableEq, Repr

/-- A started entry (R106, R115): the reads still in flight, what it writes when it finishes, and how far it is. -/
structure Running where
  unit : Nat
  entry : Entry
  marks : List Nat
  versions : List Version
  flags : BitVec 6
  /-- Elements done, and elements in all, of a Porter entry or a walker start (R247, R254). -/
  progress : Nat
  total : Nat
  /-- CBLOAD: the codebook and its values (R281). -/
  codebook : Option (Nat × BitVec 256)
  /-- A page service request is open for it (R398). -/
  paging : Option PageWait
  porter : Option PorterRun
  deriving DecidableEq, Repr

/-- One engine queue of a stream (R114): unstarted entries, oldest first, and the entries appended so far; the wait of its
head (R113). -/
structure Queue where
  entries : List Entry
  appended : BitVec 32
  wait : Option Wait
  paging : Option PageWait
  /-- Places whose checks its head's record reads have passed under the watermark rule (R205, R218). -/
  passed : List Nat := []
  deriving DecidableEq, Repr

/-- What a pending access has still to do at its place. -/
inductive Todo where
  /-- It reads; with `wm`, against the watermark of channel `wm.2` of stream `wm.1` (R205). -/
  | load (wm : Option (Nat × Nat))
  /-- It writes bytes at each of its places. -/
  | store (bytes : List Byte)
  /-- It reads and writes the word at its place: operation, operand and compare value. -/
  | atomic (aop op cmp : Nat)
  /-- It adds to the WIDX word of queue `q` (R38, R357). -/
  | slot (q op : Nat)
  /-- It takes a chunk of the claim record at its place; the length goes to XI (R361). `w0` is its word. -/
  | claim (xi : BitVec 6) (w0 : Word)
  deriving DecidableEq, Repr

/-- A load, store or atomic that has passed its checks and has not performed (R218, R326): where its data goes, where it acts
(several places for a multicast), how it goes through the caches, and what it has to do. -/
structure Access where
  xt : BitVec 6
  n : Nat
  sx : Bool
  cls : BitVec 4
  pc : Word
  addr : Word
  space : Nat
  places : List Nat
  leaf : Option Leaf
  cp : BitVec 2
  sem : BitVec 3
  scope : BitVec 3
  todo : Todo
  /-- The part or link it goes to has been lost: it completes as a remote error (R223, R386). -/
  failed : Bool
  deriving DecidableEq, Repr

/-- The cut of a stopped stream (R116). -/
structure Cut where
  pc : Word
  qseq : List (BitVec 32)
  fqpos : BitVec 32
  deriving DecidableEq, Repr

/-- A FENCE that has not completed (R347): what it names, its kind and scope, and the Porter entries (`seq`) and accesses
(`mark`) that precede it. -/
structure Fence where
  cls : BitVec 16
  path : BitVec 8
  scope : BitVec 3
  kind : BitVec 2
  seq : BitVec 32
  mark : Nat
  deriving DecidableEq, Repr

/-- A stream (R97). -/
structure Stream where
  pc : Word
  x : Table Word
  k : Table (BitVec 16)
  p : BitVec 8
  shape : Word
  fq : List Word
  /-- FQ words that no entry has been bound to (R268). -/
  u : Nat
  fqpos : BitVec 32
  ssr : Word
  arn : Table (BitVec 512)
  acc : Table (BitVec 32)
  wm : Table Word
  loopst : Table Word
  scoord : Word
  sleg : Word
  lastDrained : Option (BitVec 2)
  matrixQ : Queue
  vectorQ : Queue
  porterQ : Queue
  assayerQ : Queue
  running : List Running
  halted : Bool
  stopped : Bool
  cut : Cut
  /-- The wait of the instruction at issue (R113). -/
  wait : Option Wait
  /-- Places whose checks the instruction at issue has passed and that it waits for at a watermark (R205, R218). -/
  passed : List Nat
  /-- Accesses that have not performed, by the number each took at its issue, and the number of accesses issued. -/
  accesses : Table Access
  accessNo : Nat
  fences : List Fence
  /-- PEND by tag (R351): 0, or one above the generation arrived in. -/
  pend : Table Nat
  /-- BAR_SYNC by tag: it has arrived and its wait goes on (R352). -/
  synced : BitVec 8
  /-- Streams that must issue before a yielded stream is ready again, and the SCLK left (R146). -/
  yielded : List Nat
  yieldLeft : Nat
  paging : Option PageWait
  deriving DecidableEq, Repr

/-- The manifest (R24). -/
structure Manifest where
  policy : Nat
  nclust : Nat
  ncore : Nat
  nstrm : Nat
  nleg : Nat
  twin : Nat
  nbar : Nat
  ncb : Nat
  ngrant : Nat
  spad : Nat
  serai : Nat
  depot : Nat
  entry : Nat
  faultq : Nat
  fqlog : Nat
  ckpt : Nat
  ckptlen : Nat
  estr : Nat
  allow : Nat
  rbint : Nat
  retto : Nat
  returnto : Nat
  super : Nat
  waitlim : Nat
  waybill : Nat
  wblen : Nat
  legtab : List Nat
  bartab : List Nat
  grants : Nat
  cbtab : Nat
  deriving DecidableEq, Repr

/-- Where a core of a launch is placed: the physical core, its slots and the first bank group of its window (R51, R100). -/
structure CorePlace where
  phys : Nat
  slots : List Nat
  baseg : Nat
  deriving DecidableEq, Repr

/-- A barrier tag of a launch (R351): the generations completed, those whose waiters are released, the stream indices that
have arrived in the current one, and the members that have left. -/
structure BarTag where
  gen : Nat
  released : Nat
  arrived : List Nat
  gone : List Nat
  deriving DecidableEq, Repr

/-- A breakpoint (R415). -/
structure Breakpoint where
  sidx : Nat
  loop : Nat
  iter : Nat
  deriving DecidableEq, Repr

/-- A collective start on the walker or the distributor (R370, R378): its record, the ring as it read it, how far it has
walked, the transfers not acknowledged. -/
structure CollStart where
  id : Nat
  stream : Option Nat
  /-- The sequence number of its queue entry. -/
  seq : BitVec 32
  record : Nat
  ring : List Nat
  gen : Nat
  handle : Nat
  asid : Nat
  next : Nat
  total : Nat
  unacked : List Nat
  /-- The first transfer that has completed as a remote error. -/
  failed : Option Nat
  paging : Option PageWait
  /-- Places whose checks its reads have passed under the watermark rule (R205, R218). -/
  passed : List Nat := []
  complAddr : Nat
  complHost : Bool
  tag : Nat
  queue : Nat
  deriving DecidableEq, Repr

/-- What a rollback checkpoint holds (R404, R406): the launch's streams, tiles, private memories, codebooks and barrier
tags, and the waybill's counts, as they stood. -/
structure Snapshot where
  streams : Table Stream
  tiles : Table Tile
  mem : Memory
  poison : Table Bool
  codebooks : Table (BitVec 256)
  tags : Table BarTag
  colls : List CollStart
  est : Nat
  waybill : Nat
  replay : Nat
  deriving DecidableEq, Repr

/-- The life of a launch: latched (R23), placed (R54), to be checkpointed (R57), checkpointed (R61), to be killed (R57, R64),
to be rolled back, with or without a lost core (R402, R406), retiring (R410). -/
inductive Phase where
  | latched | placed | stopping | checkpointed | killing
  | rolling (lost : Bool)
  | retiring
  deriving DecidableEq, Repr

/-- A launch (R23 to R34, R47 to R64, R392, R404, R409 to R418), by its launch number. -/
structure Launch where
  m : Manifest
  asid : Nat
  queue : Nat
  tag : Nat
  argAddr : Nat
  argLen : Nat
  complAddr : Nat
  complHost : Bool
  counterAddr : Nat
  counterHost : Bool
  grants : List (Nat × Nat)
  codebooks : Table (BitVec 256)
  prio : Nat
  weight : Nat
  ageceil : Nat
  /-- DRAIN of the queue that carried it (R57). -/
  drain : Nat
  latchNs : Nat
  phase : Phase
  bound : Nat
  est : Nat
  estNs : Nat
  cores : List CorePlace
  /-- The dies of its cores as it was placed last: a checkpointed launch's tokens stay in their directories (R61, R207). -/
  homes : List Nat
  /-- The pinned pages of its fault queue, by their number in it (R392). -/
  pinned : Table Nat
  /-- The physical die of each die rank, and the die rank of each cluster rank (R28). -/
  dies : List Nat
  clusterDie : List Nat
  tags : Table BarTag
  faultSeq : Nat
  held : List (BitVec 1024)
  faultLost : Nat
  ckptSeq : Nat
  ckptNs : Nat
  resumeNs : Nat
  snapshot : Option Snapshot
  /-- The cause code of the machine check that the launch is being killed for (R397, R402). -/
  fatal : Option Nat := none
  /-- Sectors logged since the rollback checkpoint, newest first, each with its bytes and poisoned offsets, and token changes among the launch's parties (R404, R406). -/
  sectorLog : List (Nat × List Byte × List Nat)
  tokenLog : List (List (Nat × Option Region × Option Region))
  unreturned : Nat
  retireNs : Nat
  /-- Waybill entries recorded, the replay position, the entries to replay (R417). -/
  waybill : Nat
  replay : Nat
  replayCount : Nat
  breakpoints : Table Breakpoint
  traceMask : BitVec 8
  traceBase : Nat
  traceLog : Nat
  traceIdx : Nat
  deriving DecidableEq, Repr

/-- What the distributor reads of a LAUNCH when it latches its packet (R23): the manifest with its tables. -/
structure Latched where
  m : Manifest
  grants : List (Nat × Nat)
  books : Table (BitVec 256)
  deriving DecidableEq, Repr

/-- A latched packet (R45, R47): its bytes; of a LAUNCH what was read then, or the status and detail that it ends with, and what
was captured from the descriptor; the time of the latch. -/
structure Packet where
  bytes : List Byte
  launch : Option ((Nat × Nat) ⊕ Latched)
  prio : Nat
  weight : Nat
  ageceil : Nat
  ns : Nat
  deriving DecidableEq, Repr

/-- A work queue (R36, R46, R48). -/
structure WorkQueue where
  base : Nat
  logslots : Nat
  prio : Nat
  weight : Nat
  ageceil : Nat
  submit : BitVec 8
  widx : Nat
  ridx : Nat
  /-- Physical addresses of the pinned index words (R37). -/
  widxPa : Nat
  ridxPa : Nat
  qfault : Nat
  asid : Nat
  drain : Nat
  agelim : Nat
  ageq : Nat
  stalllim : Nat
  credit : Int
  /-- The launch number of the latched head. -/
  head : Option Nat
  /-- A packet latched and not yet acted on. -/
  packet : Option Packet
  stalled : Bool
  /-- When the unpublished head was first read (R46). -/
  unpublished : Option Nat
  closing : Bool
  /-- An add on WIDX or a finished head asks for an examination (R45). -/
  notified : Bool
  /-- Launches, copies and collectives of earlier packets that have not completed, and SIGNALs that wait for them (R43). -/
  outstanding : List (Nat × Nat)
  waiting : List (List Byte × List (Nat × Nat))
  deriving DecidableEq, Repr

/-- A packet copy (R255). -/
structure Copy where
  queue : Nat
  src : Nat
  dst : Nat
  len : Nat
  dz : Bool
  tag : Nat
  complAddr : Nat
  complHost : Bool
  progress : Nat
  paging : Option PageWait
  /-- Bytes of source units read that have not been written yet, and their poisoned offsets (R341). -/
  carry : List Byte := []
  carryBad : List Nat := []
  deriving DecidableEq, Repr

/-- A prefix-table entry (R316). -/
structure PrefixEntry where
  asid : Nat
  hash : Word
  len : Nat
  page : Nat
  ls : Nat
  ret : Nat
  /-- Physical base of the page's region; PIN is the number of its shares. -/
  place : Nat
  age : Nat
  deriving DecidableEq, Repr

/-- A collective handle (R370, R371, R373, R376). -/
structure Handle where
  launch : Option Nat
  asid : Nat
  gen : Option Nat
  completed : Bool
  /-- The receiving start's record, if it has started, with its stream, PC and captured SSR. -/
  recv : Option Nat
  recvStream : Nat
  recvPc : Word
  recvSsr : Word
  arrivals : Nat
  /-- Contributions combined into each destination chunk, by its address (R375). -/
  combined : Table Nat
  /-- The contribution that is partly in, by its destination chunk's address: its key in `counts` plus 1 (R375). -/
  partly : Table Nat := []
  held : List Chunk
  /-- Lent regions that the generation wrote: place and address of the base. -/
  wrote : List (Nat × Nat)
  /-- Arrival actions not performed yet, and flags of the combinations. -/
  due : Nat
  flags : BitVec 6
  /-- A start of the generation was stopped by a fault, or a transfer of one erred: it never completes. -/
  broken : Bool
  /-- Bytes that have arrived of each chunk that has not arrived whole: key `(start * 2^64 + f) * 4096 + sender` (R373). -/
  counts : Table Nat
  /-- A return waits for its replay turn (R374, R419). -/
  turn : Option Wait
  deriving DecidableEq, Repr

/-- A flit on its way to a peer: its virtual channel and the peer; on VC1 the chunk's start and flat index and the offset of its
payload in the chunk (R381). -/
structure Flit where
  vc : Nat
  dev : Nat
  start : Nat
  f : Nat
  off : Nat
  deriving DecidableEq, Repr

/-- A chunk on its way to a peer: its packet, and how many of its bytes have been put into flits (R369, R381). -/
structure Outgoing where
  dev : Nat
  chunk : Chunk
  next : Nat
  deriving DecidableEq, Repr

/-- A Veroitor port (R381 to R383). -/
structure Port where
  up : Bool
  lanes : Nat
  /-- Lanes of the nine that have not failed. -/
  good : Nat
  spare : Bool
  /-- The peers that the Factor's routes reach through it (R381). -/
  routes : List Nat
  retraining : Bool
  /-- A flit for this device has failed its CRC, and its sender sends it again. -/
  replaying : Bool
  /-- The replay buffer: flits sent and not acknowledged, oldest first. -/
  replay : List Flit
  deriving DecidableEq, Repr

/-- The permits of one port, virtual channel and direction (R382). -/
structure Permits where
  held : Nat
  inflight : Nat
  occupied : Nat
  returning : Nat
  deriving DecidableEq, Repr

/-- The completion of a request of the host or a peer (R38, R191, R384, R385): data with the offsets of its poisoned bytes,
Completer Abort, Unsupported Request, a remote error. -/
inductive Completion where
  | data (bytes : List Byte) (bad : List Nat)
  | abort
  | unsupported
  | remoteError
  deriving DecidableEq, Repr

/-- A cluster's trace buffer (R412): its records, each with its launch and the records that go with it (R414), the records lost
before the next one at the buffer, and those that a full ring has dropped. -/
structure TraceBuf where
  recs : List (Nat × List (BitVec 256))
  lost : Nat
  ringLost : Nat
  deriving DecidableEq, Repr

/-- The machine. -/
structure State where
  dev : Device
  spaces : Spaces
  /-- Every byte store by place (see `Place`): device memory, scratchpad, serai, Depot, host, peers, tile data, FMMSG. -/
  mem : Memory
  /-- Poison marks by place (R403). -/
  poison : Table Bool
  /-- Parts of checkpoint areas whose bytes are the device's own (R59). -/
  own : List (Nat × Nat)
  l1 : Table Sector
  wc : Table Combine
  regions : Table Region
  prefixes : Table PrefixEntry
  prefixSeq : Nat
  tiles : Table Tile
  /-- Codebooks of each core: key `core key * 64 + index` (R97). -/
  codebooks : Table (BitVec 256)
  streams : Table Stream
  launches : Table Launch
  queues : Table WorkQueue
  copies : Table Copy
  /-- Launches selected and not yet placed, foremost first (R55), and the decisions carried out for one, by key
  `newcomer * 2^14 + incumbent`: the incumbents that drain, and those being checkpointed or killed (R56, R57). -/
  newcomers : List Nat
  draining : List Nat
  displacing : List Nat
  colls : List CollStart
  handles : Table Handle
  /-- Packets that this device sends itself and that have not arrived; those refused, waiting to be sent again, with the time of
  the refusal (R376); chunks on their way to peers; and flits of ports that went down, to be sent over another (R383). -/
  flying : List Chunk
  refused : List (Nat × Chunk)
  sent : List Outgoing
  resend : List Flit
  ports : Table Port
  /-- Key `(port * 2 + VC) * 2 + direction`: 0 to this device, 1 from it (R382). -/
  permits : Table Permits
  peersLost : Table Bool
  /-- The host link (R384): up, contained, and the lanes and GT/s at which it has trained. -/
  hostUp : Bool
  hostContained : Bool
  hostLanes : Nat
  hostRate : Nat
  /-- The completion sent last to the host or a peer. -/
  reply : Option Completion
  /-- Page service requests (R398): key `asid * 2^36 + va / 4096`, the time each was made. -/
  pageRequests : Table Nat
  /-- Pages that a party asked for which no stream's own wait stands for (a channel or port return's waybill entry, the fetch of
  TRET or FRESUME with NEXT), and those of them whose request has failed, until that party takes the answer (R399, R401, R418). -/
  asked : List Nat
  failedPages : List Nat
  traceBufs : Table TraceBuf
  /-- Bank-conflict counters: key `core key * 112 + requester * 8 + group` (R414). -/
  conflicts : Table Nat
  /-- The streams that each sequencer, engine and Porter channel served last (R65, R234): by key `core * 16 + arbiter`, the
  slot, plus 1. -/
  served : Table Nat
  /-- The ACLK cycle, plus 1, of the last start of a write of a tile, by key `2 * tile key`, and of the last TQUOTA or TRESET on it,
  by the key after it (R105, R153). -/
  orders : Table Nat
  /-- The Rearguard's copies of the sequencer contexts (R118): those that differ from the stream's own context; an unlisted
  copy holds what the stream holds. -/
  shadow : Table Stream
  /-- The model's own: the order of turns, the turns taken after it, the acting stream and agent, the late switch, the step's
  particulars and the number of free values drawn (log entries 5, 6). -/
  tape : List Turn
  rota : Nat
  cur : Nat
  actor : Actor
  late : Bool
  inp : Input
  draws : Nat
  deriving DecidableEq, Repr

/-- Why a step stops with a fault. -/
inductive Fault where
  /-- Raised by `step` when the tape names a stream of a launch that does not exist, or a stream index that its launch does
  not have. Safe: no run of the hardware has such a turn. -/
  | unschedulable
  deriving DecidableEq, Repr

/-- Why a step has no meaning. -/
inductive Refusal where
  /-- Raised by an arm of `exec` whose instruction has no meaning yet. Safe: nothing is claimed about it. -/
  | notModelled (mnemonic : String)
  deriving DecidableEq, Repr

/-! ### Defaults -/

def Tile.default : Tile :=
  { count := 0, quota := 0, skip := false, writer := none, inflight := 0, wip := false, pending := none, stamp := 0 }

def Queue.default : Queue := { entries := [], appended := 0, wait := none, paging := none }

def Cut.default : Cut := { pc := 0, qseq := [0, 0, 0, 0], fqpos := 0 }

/-- A stream before it starts: R27's values with a zero ENTRY. -/
def Stream.default : Stream :=
  { pc := 0, x := [], k := [], p := 0, shape := 0, fq := [], u := 0, fqpos := 0, ssr := 0, arn := [], acc := [], wm := [],
    loopst := [], scoord := 0, sleg := 0, lastDrained := none, matrixQ := Queue.default, vectorQ := Queue.default,
    porterQ := Queue.default, assayerQ := Queue.default, running := [], halted := false, stopped := false,
    cut := Cut.default, wait := none, passed := [], accesses := [], accessNo := 0, fences := [], pend := [], synced := 0, yielded := [], yieldLeft := 0, paging := none }

def Manifest.default : Manifest :=
  { policy := 0, nclust := 1, ncore := 1, nstrm := 1, nleg := 0, twin := 32, nbar := 0, ncb := 0, ngrant := 0, spad := 0,
    serai := 0, depot := 0, entry := 0, faultq := 0, fqlog := 4, ckpt := 0, ckptlen := 0, estr := 0, allow := 0, rbint := 0,
    retto := 0, returnto := 0, super := 0, waitlim := 0, waybill := 0, wblen := 0, legtab := [], bartab := [], grants := 0,
    cbtab := 0 }

/-- A launch with one stream and nothing else. -/
def Launch.default : Launch :=
  { m := Manifest.default, asid := 0, queue := 0, tag := 0, argAddr := 0, argLen := 0, complAddr := 0, complHost := false,
    counterAddr := 0, counterHost := false, grants := [], codebooks := [], prio := 0, weight := 1, ageceil := 0, drain := 0,
    latchNs := 0, phase := .latched, bound := 0, est := 0, estNs := 0, cores := [], homes := [], pinned := [], dies := [], clusterDie := [],
    tags := [], faultSeq := 0, held := [], faultLost := 0, ckptSeq := 0, ckptNs := 0, resumeNs := 0, snapshot := none,
    sectorLog := [], tokenLog := [], unreturned := 0, retireNs := 0, waybill := 0, replay := 0, replayCount := 0,
    breakpoints := [], traceMask := 0, traceBase := 0, traceLog := 10, traceIdx := 0 }

def BarTag.default : BarTag := { gen := 0, released := 0, arrived := [], gone := [] }

/-- A handle bound to nothing (R371). -/
def Handle.default : Handle :=
  { launch := none, asid := 0, gen := none, completed := false, recv := none, recvStream := 0, recvPc := 0, recvSsr := 0,
    arrivals := 0, combined := [], held := [], wrote := [], due := 0, flags := 0, broken := false,
    counts := [], turn := none }

def Port.default : Port :=
  { up := false, lanes := 8, good := 9, spare := false, routes := [], retraining := false, replaying := false,
    replay := [] }

/-- The permits of an idle channel: all of TOTAL = 256 held (R382). -/
def Permits.default : Permits := { held := 256, inflight := 0, occupied := 0, returning := 0 }

def TraceBuf.default : TraceBuf := { recs := [], lost := 0, ringLost := 0 }

/-- The contents of module flash (log entry 2). -/
def Flash.default : Flash :=
  { imageA := { ecdsa := true, lms := true, digest := 0 }, imageB := { ecdsa := true, lms := true, digest := 0 },
    recordSigned := true, recordFormed := true, recordDigest := 0, sku := 0, coreDisable := 0, sramRepair := [],
    hbmRepair := [], policies := [.log, .log, .log, .log], bktcfg := [], lmsCounter := 0, attestKeys := true }

/-- The device when the rails become good (R7 to R22). -/
def Device.powerOn (flash : Flash) : Device :=
  { railsGood := true, ready := false, stage := 0, failcode := 0, erased := false, alVolt := false, alClk := false,
    alTemp := false, alMesh := false, stopped := false, halted := false, running := none, accepted := false, sku := 0, disabled := 0,
    memoryKeys := true, flash := flash, events := [], ns := 0, readyAt := 0, acyc := [], sagcnt := [], sagging := [],
    stretch := [], gated := [], busy := false, done := false, overrun := false, fmseq := 0, pendingSeq := 0,
    answer := none, command := none, setPrio := none, signals := [], forced := [], stall := [], postponed := [], droppedStores := 0,
    refusedWidx := [], lostPermits := [], predictive := [], uncorrectable := 0, bktcfg := [], buckets := [],
    disarmed := [], blooms := [], leaks := [], coreLost := [], diverged := [] }

/-- The machine when the rails become good, with a given flash: everything else is empty (R8, R22). -/
def State.powerOn (flash : Flash) : State :=
  { dev := Device.powerOn flash,
    spaces := { roots := [], remote := [], window := none, tlb := [], notok := [] },
    mem := [], poison := [], own := [], l1 := [], wc := [], regions := [], prefixes := [], prefixSeq := 0, tiles := [],
    codebooks := [], streams := [], launches := [], queues := [], copies := [], newcomers := [], draining := [], displacing := [], colls := [],
    handles := [], flying := [], refused := [], sent := [], resend := [], ports := [], permits := [], peersLost := [], hostUp := false, hostContained := false, hostLanes := 0, hostRate := 0, reply := none,
    pageRequests := [], asked := [], failedPages := [], traceBufs := [], conflicts := [], served := [], orders := [], shadow := [], tape := [], rota := 0, cur := 0, actor := .sequencer, late := false,
    inp := {}, draws := 0 }

/-- The machine right after reset: the moment after the rails become good (log entry 1). -/
def State.reset : State := State.powerOn Flash.default

end Sys2Proof.Machine
end

