-- ==== Sys2Proof/Machine/Ops.lean ====
section
/-! DEFINITION. The named operations over a stream's registers, the tiles, the launches and their records; taking a trap
(R116, R390 to R395) and returning from one (R401), each once for every instruction. -/

namespace Sys2Proof.Machine

/-- What an instruction or a step answers. -/
abbrev Result := Host.Outcome State Fault Refusal

/-! ### The acting stream and its registers (R82, R97) -/

def State.stream (s : State) (k : Nat) : Stream := tget Stream.default s.streams k
def State.setStream (s : State) (k : Nat) (t : Stream) : State :=
  { s with streams := tset Stream.default s.streams k t }
def State.st (s : State) : Stream := s.stream s.cur
def State.setSt (s : State) (t : Stream) : State := s.setStream s.cur t

def State.launchOf (s : State) (l : Nat) : Launch := tget Launch.default s.launches l
def State.setLaunch (s : State) (l : Nat) (v : Launch) : State := { s with launches := tput s.launches l v }

/-- The launch and the stream index of the acting stream. -/
def State.launchNo (s : State) : Nat := s.cur / 4096
def State.sidx (s : State) : Nat := s.cur % 4096
def State.launch (s : State) : Launch := s.launchOf s.launchNo

/-- `xr` and `xw` (R82): X0 reads as zero and ignores writes. -/
def Stream.xr (t : Stream) (i : BitVec 6) : Word := if i = 0 then 0 else tget 0 t.x i.toNat
def Stream.xw (t : Stream) (i : BitVec 6) (v : Word) : Stream :=
  if i = 0 then t else { t with x := tset 0 t.x i.toNat v }
def State.xr (s : State) (i : BitVec 6) : Word := s.st.xr i
def State.xw (s : State) (i : BitVec 6) (v : Word) : State := s.setSt (s.st.xw i v)

/-- `pr` (R82) and a predicate write: P0 reads as 1 and ignores writes. -/
def Stream.pr (t : Stream) (i : Nat) : Bool := i = 0 || t.p.getLsbD i
def Stream.pw (t : Stream) (i : Nat) (b : Bool) : Stream :=
  if i = 0 then t
  else { t with p := if b then t.p ||| (1#8 <<< i) else t.p &&& ~~~(1#8 <<< i) }
def State.pr (s : State) (i : Nat) : Bool := s.st.pr i
def State.pw (s : State) (i : Nat) (b : Bool) : State := s.setSt (s.st.pw i b)

/-- Cursors (R97). -/
def Stream.kr (t : Stream) (i : Nat) : BitVec 16 := tget 0 t.k i
def Stream.kw (t : Stream) (i : Nat) (v : BitVec 16) : Stream := { t with k := tset 0 t.k i v }

/-- After an instruction the PC advances by its length (R67). -/
def Stream.advance (t : Stream) (n : Nat) : Stream := { t with pc := t.pc + BitVec.ofNat 64 n }
def State.advance (s : State) (n : Nat) : State := s.setSt (s.st.advance n)

/-- The guard (R69). -/
def Stream.guardTrue (t : Stream) (g : BitVec 4) : Bool := t.pr (g.toNat % 8) != g.getLsbD 3

/-- A short instruction under its guard: a false guard only advances the PC (R69). -/
def issue (g : BitVec 4) (s : State) (body : State → Result) : Result :=
  if s.st.guardTrue g then body s else .next (s.advance 8)

/-- The end of a short instruction. -/
def done (s : State) : Result := .next (s.advance 8)

/-! ### Ranks and places (R28, R51) -/

def Manifest.streams (m : Manifest) : Nat := m.nclust * m.ncore * m.nstrm
def Manifest.slotRank (m : Manifest) (i : Nat) : Nat := i % m.nstrm
def Manifest.coreIndex (m : Manifest) (i : Nat) : Nat := i / m.nstrm
def Manifest.coreRank (m : Manifest) (i : Nat) : Nat := m.coreIndex i % m.ncore
def Manifest.clusterRank (m : Manifest) (i : Nat) : Nat := i / (m.ncore * m.nstrm)

/-- Where the core of a stream index is placed. -/
def Launch.corePlace (l : Launch) (i : Nat) : CorePlace :=
  l.cores.getD (l.m.coreIndex i) { phys := 0, slots := [], baseg := 0 }
def Launch.physCore (l : Launch) (i : Nat) : Nat := (l.corePlace i).phys
def Launch.slot (l : Launch) (i : Nat) : Nat := (l.corePlace i).slots.getD (l.m.slotRank i) 0

/-- Key of the core of a launch that a stream runs on. -/
def State.coreKeyOf (s : State) (k : Nat) : Nat :=
  let m := (s.launchOf (k / 4096)).m
  k / 4096 * 512 + m.clusterRank (k % 4096) * 8 + m.coreRank (k % 4096)
def State.physOf (s : State) (k : Nat) : Nat := (s.launchOf (k / 4096)).physCore (k % 4096)
def State.clusterOf (s : State) (k : Nat) : Nat := s.physOf k / 8
def State.dieOf (s : State) (k : Nat) : Nat := s.physOf k / 96

/-- ACLK count of a stream's cluster, and the nanoseconds since READY (R149). -/
def State.aclk (s : State) (k : Nat) : Nat := tget 0 s.dev.acyc (s.clusterOf k)
def State.timens (s : State) : Nat := if s.dev.ready then s.dev.ns - s.dev.readyAt else 0

/-- Owner identifiers (R202). -/
def streamId (k : Nat) : Nat := k / 4096 * 2 ^ 14 + k % 4096 * 4
def launchId (l : Nat) : Nat := 0x10000000 + l * 2 ^ 14
def channelId (k c : Nat) : Nat := 0x20000000 + streamId k + c
def portId (h : Nat) : Nat := 0x30000000 + h
def peerId (n : Nat) : Nat := 0x60000000 + n

/-- Names of the byte stores of `State.mem`. -/
inductive Place where
  | hbm | spad | serai | depot | host | peer | tile | fmmsg | fmseen
  deriving DecidableEq, Repr
/-- Each store's first key. -/
def Place.base : Place → Nat
  | .hbm => 0
  | .spad => 2 ^ 64
  | .serai => 2 * 2 ^ 64
  | .depot => 3 * 2 ^ 64
  | .host => 4 * 2 ^ 64
  | .peer => 5 * 2 ^ 64
  | .tile => 6 * 2 ^ 64
  | .fmmsg => 7 * 2 ^ 64
  | .fmseen => 8 * 2 ^ 64

/-! ### Free values -/

/-- A free word (log entry 11), and the state with the draw counted. -/
def State.draw (s : State) : Word × State := (Config.freeValue s.draws, { s with draws := s.draws + 1 })

/-! ### Signals (R384) -/

/-- The Factor signals the driver. -/
def Device.signal (d : Device) (kind about : Nat) : Device :=
  { d with signals := d.signals ++ [{ vector := Config.msixVector kind, kind := kind, about := about }] }

/-! ### Trace records (R412, R413) -/

/-- Records in a trace buffer. -/
def TraceBuf.size (b : TraceBuf) : Nat := (b.recs.map fun e => e.2.length).sum

/-- Appends a 32-byte trace record of a kind to the buffer of the stream's cluster, if the launch's mask enables it. A
record that finds 2,048 in the buffer is dropped and counted (log entry 13). -/
def State.trace (s : State) (k kind loop cause iter tag arg : Nat) (extra : List (BitVec 256)) : State :=
  let l := s.launchOf (k / 4096)
  if l.traceMask.getLsbD kind then
    let c := s.clusterOf k
    let b := tget TraceBuf.default s.traceBufs c
    let coord := (s.stream k).sleg.toNat % 16 * 4096 + l.slot (k % 4096) * 512 + s.physOf k % 8 * 64 +
      c % 12 * 4 + c / 12
    let n := extra.length + 1
    if b.size + n ≤ 2048 then
      let r := BitVec.ofNat 256 (s.timens % 2 ^ 64 + coord * 2 ^ 64 + (loop * 32 + kind) * 2 ^ 80 + cause * 2 ^ 88 +
        iter % 2 ^ 31 * 2 ^ 96 + b.lost * 2 ^ 128 + tag % 2 ^ 32 * 2 ^ 160 + arg % 2 ^ 64 * 2 ^ 192)
      let b := { b with recs := b.recs ++ [(k / 4096, r :: extra)] }
      { s with traceBufs := tput s.traceBufs c b }
    else { s with traceBufs := tput s.traceBufs c { b with lost := min (b.lost + n) 0xFFFFFFFF } }
  else s

/-! ### Fault records (R390 to R393) -/

/-- The 64-bit words ARG0 to ARG7 as one number. -/
def argWords : List Nat → Nat
  | [] => 0
  | a :: as => a % 2 ^ 64 + 2 ^ 64 * argWords as

/-- A fault record with VALID 1 and no SEQ and LOST yet (R390). -/
def faultRecord (fatal nostop : Bool) (unit : Nat) (c : Cause) (sidx leg : Nat) (coord pc : Word) (cut : Cut) :
    BitVec 1024 :=
  BitVec.ofNat 1024
    (c.code + unit * 2 ^ 8 + c.sub * 2 ^ 16 + (if nostop then 2 ^ 29 else 0) + (if fatal then 2 ^ 30 else 0) + 2 ^ 31
      + sidx * 2 ^ 32 + leg * 2 ^ 48 + coord.toNat * 2 ^ 128
      + (if nostop then 0 else
          pc.toNat * 2 ^ 192 + cut.pc.toNat * 2 ^ 256
          + ((cut.qseq.getD 0 0).toNat + (cut.qseq.getD 1 0).toNat * 2 ^ 32 + (cut.qseq.getD 2 0).toNat * 2 ^ 64
            + (cut.qseq.getD 3 0).toNat * 2 ^ 96) * 2 ^ 320
          + cut.fqpos.toNat * 2 ^ 448)
      + argWords (c.args.take 8) * 2 ^ 512)

/-- Posts a record of a launch: up to 64 are held, each with the launch's next SEQ; a further one is dropped and counted
(R390, R392, R393). -/
def State.post (s : State) (l : Nat) (r : BitVec 1024) : State :=
  let v := s.launchOf l
  if v.held.length < 64 then
    s.setLaunch l
      { v with faultSeq := v.faultSeq + 1, held := v.held ++ [r ||| BitVec.ofNat 1024 ((v.faultSeq + 1) % 2 ^ 64 * 2 ^ 64)] }
  else s.setLaunch l { v with faultLost := min (v.faultLost + 1) 0xFFFFFFFF }

/-- The first sequence number of a queue that has not started. -/
def Queue.firstSeq (q : Queue) : BitVec 32 := q.appended - BitVec.ofNat 32 q.entries.length

/-- The cut of a stream at a PC (R116). -/
def Stream.cutAt (t : Stream) (pc : Word) : Cut :=
  { pc := pc, qseq := [t.matrixQ.firstSeq, t.vectorQ.firstSeq, t.porterQ.firstSeq, t.assayerQ.firstSeq],
    fqpos := t.fqpos }

/-- The trace record and the fault record of a cause at a stream; `pc` is the PC of the record. -/
def State.report (s : State) (k unit : Nat) (fatal nostop : Bool) (pc : Word) (cut : Cut) (c : Cause) : State :=
  let t := s.stream k
  (s.post (k / 4096)
    (faultRecord fatal nostop unit c (k % 4096) (t.sleg.toNat % 16) t.scoord pc cut)).trace
    k 2 0 c.code 0 0 (if nostop then 0 else pc.toNat) []

/-- TAKING A TRAP (R116): stream `k` stops with its cut recorded, and the record is posted. A stream that is stopped
already only gets the record (R395). `cutpc` is the faulting sequencer instruction, or the first instruction not yet
issued. -/
def State.takeTrap (s : State) (k unit : Nat) (pc cutpc : Word) (c : Cause) : State :=
  let t := s.stream k
  let cut := t.cutAt cutpc
  let t' := if t.stopped then t else { t with stopped := true, cut := cut, wait := none, passed := [] }
  (s.setStream k t').report k unit false false pc (if t.stopped then t.cut else cut) c

/-- A precise trap of the acting stream's instruction: it has no effect, and the cut is at it. -/
def State.trap (s : State) (c : Cause) : Result := .next (s.takeTrap s.cur 0 s.st.pc s.st.pc c)

/-- A trap after the instruction at `pc` has completed: the cut is at the next instruction (R99, R138, R401). -/
def State.trapAfter (s : State) (pc : Word) (c : Cause) : Result := .next (s.takeTrap s.cur 0 pc s.st.pc c)

/-- Causes that several instructions raise (R389, R391). -/
def illegal (sub : Nat) (w0 w1 : Word) : Cause := { code := 1, sub := sub, args := [w0.toNat, w1.toNat] }
def arith (flags : BitVec 6) (ssr : Word) : Cause := { code := 16, args := [flags.toNat, ssr.toNat] }

/-! ### The status register (R98, R99) -/

/-- The trap enables TEF and the sticky FLAGS. -/
def tef (ssr : Word) : BitVec 6 := ssr.extractLsb' 16 6
def strict (ssr : Word) : Bool := ssr.getLsbD 0
def terem (ssr : Word) : Bool := ssr.getLsbD 22
/-- WAITLIM: a value below 256 acts as 256. -/
def waitlim (ssr : Word) : Nat := max 256 (ssr.extractLsb' 32 32).toNat

/-- Flags set by an instruction, in the order of FLAGS (R98): RANGE, DZ, INX, UNF, OVF, INV from bit 5 down. -/
def setFlags (ssr : Word) (f : BitVec 6) : Word := ssr ||| ((f.zeroExtend 64) <<< 8)

/-- A sequencer instruction that has completed with flags: they are sticky in SSR, and a flag whose enable is 1 raises
ARITH after the result (R99, R138). -/
def State.finishFlags (s : State) (f : BitVec 6) : Result :=
  let pc := s.st.pc
  let s := s.setSt { s.st with ssr := setFlags s.st.ssr f }
  let s := s.advance 8
  if tef s.st.ssr &&& f = 0 then .next s else s.trapAfter pc (arith f s.st.ssr)

/-! ### Returning from a trap (R401) -/

/-- The channel of a Porter entry (R74, R234). -/
def Entry.channel (e : Entry) : Nat := e.w0.toNat / 2 ^ 12 % 4

def Queue.discard (q : Queue) : Queue := { q with entries := [], wait := none, paging := none, passed := [] }

/-- DROPQ: every unstarted entry and every FQ word is discarded. -/
def Stream.dropQueues (t : Stream) : Stream :=
  { t with matrixQ := t.matrixQ.discard, vectorQ := t.vectorQ.discard, porterQ := t.porterQ.discard,
           assayerQ := t.assayerQ.discard, fq := [], u := 0 }

/-- RETURN FROM A TRAP (R401): a stopped stream resumes at `pc`; one that has halted restarts only its queues. A BAR_SYNC that it
skips is over (R352). The measures of its queues' heads are kept: the spec does not say whether the time for which it was stopped
counts, and here it does (log entry 89). -/
def Stream.resume (t : Stream) (pc : Word) (drop : Bool) : Stream :=
  let t := if drop then t.dropQueues else t
  if t.halted then { t with stopped := false }
  else { t with stopped := false, pc := pc, wait := none, passed := [], paging := none, synced := if pc = t.cut.pc then t.synced else 0 }

/-! ### Tiles (R102 to R110) -/

def State.tile (s : State) (key : Nat) : Tile := tget Tile.default s.tiles key

/-- A change of count, quota, inflight or wip restarts the measures of the waits that name the tile (R113). -/
def Tile.restamp (t o : Tile) (now : Nat) : Tile :=
  if t.count = o.count && t.quota = o.quota && t.inflight = o.inflight && t.wip = o.wip then t else { t with stamp := now }

/-- ACLK count of the cluster that a tile of a launch lies in. -/
def State.aclkAt (s : State) (key : Nat) : Nat :=
  let core := key / 256
  let v := s.launchOf (core / 512)
  match v.cores[core % 512 / 8 * v.m.ncore + core % 8]? with
  | some c => tget 0 s.dev.acyc (c.phys / 8)
  | none => 0

/-- Writes a tile. -/
def State.setTile (s : State) (key : Nat) (t : Tile) : State :=
  { s with tiles := tset Tile.default s.tiles key (t.restamp (s.tile key) (s.aclkAt key)) }

/-- Key of a tile number of a stream's window. -/
def State.tileKey (s : State) (k t : Nat) : Nat := s.coreKeyOf k * 256 + t

/-- First place of a tile's data. -/
def tilePlace (key : Nat) : Nat := Place.base .tile + key * 2048

/-- `reached` (R82, R104). -/
def reached (c e : BitVec 16) : Bool := (c - e).toNat < 32768

/-- `expected` (R75, R82). -/
def Stream.expected (t : Stream) (top : BitVec 16) : BitVec 16 :=
  if topMode top = 2 then (t.xr (topCsel top)).setWidth 16
  else t.kr ((topCsel top).toNat / 4) + BitVec.ofNat 16 ((topCsel top).toNat % 4)

/-- A tile operand with its key, its mode and its captured count; `mark` says that its data is read. -/
structure Operand where
  key : Nat
  num : Nat
  mode : BitVec 2
  exp : BitVec 16
  mark : Bool
  deriving DecidableEq, Repr

/-- The wait of a stream's sequencer (0) or of the head of its queue of an engine. -/
def Stream.waitOf (t : Stream) (unit : Nat) : Option Wait :=
  if unit = 0 then t.wait else if unit = 1 then t.matrixQ.wait else if unit = 2 then t.vectorQ.wait
  else if unit = 3 then t.porterQ.wait else t.assayerQ.wait

/-- The mark of a collective arrival on the tile that its TSIG waits to write (R105, R373). -/
def portMark (h : Nat) : Nat := 2 ^ 60 + h

/-- What has marked a write as pending still waits: an instruction for the tile, a port for an arrival action that is due. -/
def State.stillPends (s : State) (key w : Nat) : Bool :=
  if 2 ^ 60 ≤ w then
    match tfind s.handles (w - 2 ^ 60) with | some v => v.due != 0 | none => false
  else
    let t := s.stream (w / 8)
    !t.stopped && (match t.waitOf (w % 8) with | some x => x.tiles.contains key | none => false)

/-- A write to a tile is pending (R105): what made it so still waits, and is not `me`. An instruction passes over a mark of its own,
on a tile that it both reads and writes (log entry 70). -/
def State.writePending (s : State) (key me : Nat) : Bool :=
  match (s.tile key).pending with
  | none => false
  | some w => w != me && s.stillPends key w

/-- `read_test` (R107); a NONE source only finds wip = 0 (R106). -/
def State.readTest (s : State) (o : Operand) (me : Nat) : Bool :=
  let t := s.tile o.key
  if o.mode = 0 then !t.wip else reached t.count o.exp && !t.wip && !s.writePending o.key me

/-- A read of a tile waits that became able to proceed in this ACLK cycle: it is admitted before a write (R105). -/
def State.readFirst (s : State) (key me : Nat) : Bool :=
  (s.tile key).stamp = s.aclkAt key && s.streams.any fun e =>
    !e.2.stopped && (List.range 5).any fun u =>
      match e.2.waitOf u with
      | some { tile := some w, .. } =>
        e.1 * 8 + u != me && w.reads && w.key = key &&
          s.readTest { key := key, num := w.num, mode := w.mode, exp := w.exp, mark := false } (e.1 * 8 + u)
      | _ => false

/-- `write_test` but for the reads in flight (R107). -/
def writeTest (t : Tile) (o : Operand) : Bool :=
  (o.mode = 0 || reached t.count o.exp) && (t.quota = 0 || t.quota = 15) && !t.wip

/-- A CUR or XREG source retires a read (R107, R110). -/
def Operand.retires (o : Operand) : Bool := o.mode = 1 || o.mode = 2

/-- `admit` (R107): the tile after it, and whether it was an overread. A NONE source only takes its mark. -/
def admitRead (t : Tile) (o : Operand) : Tile × Bool :=
  let cur := o.mode != 0 && o.retires && t.count = o.exp
  let beyond := cur && t.quota = 0
  let t := if cur && t.quota != 0 && t.quota != 15 then { t with quota := t.quota - 1 } else t
  (if o.mark then { t with inflight := t.inflight + 1 } else t, beyond)

/-- Admits sources in order, each against the state the previous one left (R109): the state, and the overreads. -/
def State.admitAll (s : State) : List Operand → State × Bool
  | [] => (s, false)
  | o :: os =>
    let (t, beyond) := admitRead (s.tile o.key) o
    let (s', more) := (s.setTile o.key t).admitAll os
    (s', beyond || more)

/-- The STALE_VERSION subcode of the sources, tested in order (R108). -/
def State.staleSources (s : State) : List Operand → Option (Nat × Operand)
  | [] => none
  | o :: os =>
    let t := s.tile o.key
    if o.mode != 0 && t.count != o.exp then some (1, o)
    else if o.retires && t.quota = 0 then some (2, o)
    else (s.setTile o.key (admitRead t o).1).staleSources os

/-- What a test of a start answers (R106, R108). -/
inductive Start where
  /-- It waits, for the operand named, a source or not; a write that waits only for reads in flight has become pending. -/
  | waits (s : State) (o : Operand) (reads : Bool)
  /-- It would meet a version STRICT refuses. -/
  | stale (sub : Nat) (o : Operand)
  /-- It starts: every admission and reservation is made. -/
  | starts (s : State)
  deriving DecidableEq, Repr

/-- Marks the writes that wait only for reads in flight (R105). -/
def State.setPending (s : State) (me : Nat) : List Operand → State
  | [] => s
  | o :: os =>
    let t := s.tile o.key
    let t := if t.inflight != 0 && !s.writePending o.key me then { t with pending := some me } else t
    ({ s with tiles := tset Tile.default s.tiles o.key t }).setPending me os

/-- `start_write` on every destination. -/
def State.reserve (s : State) : List Operand → State
  | [] => s
  | o :: os => (s.setTile o.key { s.tile o.key with wip := true, pending := none }).reserve os

/-- The start of an instruction with tile operands, in one indivisible step (R106, R108, R109). `me` names the
instruction's stream and unit. -/
def State.startTiles (s : State) (me : Nat) (strictOn : Bool) (srcs dsts : List Operand) : Start :=
  match srcs.find? (fun o => !s.readTest o me) with
  | some o => .waits s o true
  | none =>
    let (s1, beyond) := s.admitAll srcs
    match dsts.find? (fun o => !writeTest (s1.tile o.key) o) with
    | some o => .waits s o false
    | none =>
      match dsts.find? (fun o => (s.tile o.key).inflight != 0 || s.readFirst o.key me) with
      | some o => .waits (s.setPending me dsts) o false
      | none =>
        match (if strictOn then s.staleSources srcs else none) with
        | some (sub, o) => .stale sub o
        | none =>
          match (if strictOn then dsts.find? (fun o => o.mode != 0 && (s.tile o.key).count != o.exp) else none) with
          | some o => .stale 3 o
          | none =>
            let s2 := if beyond then s1.setSt { s1.st with ssr := s1.st.ssr ||| 2 } else s1
            .starts (s2.reserve dsts)

/-- `finish_write` (R107) on a reserved tile, with the bytes that the new version changes. -/
def State.finishWrite (s : State) (key : Nat) (bytes : List (Nat × Byte)) (dq : BitVec 4) (skip : Bool)
    (who : Option (BitVec 3)) : State :=
  let t := s.tile key
  let s := if skip then s else
    { s with mem := s.mem.patch (tilePlace key) bytes,
             poison := s.poison.filter fun e => !bytes.any fun b => tilePlace key + b.1 = e.1 }
  s.setTile key { t with count := t.count + 1, quota := dq, skip := skip, writer := who, wip := false }

/-- Clears the inflight mark of a read whose data has been taken. -/
def State.takeMark (s : State) (key : Nat) : State :=
  let t := s.tile key
  s.setTile key { t with inflight := t.inflight - 1 }

/-- An operand of the acting stream's sequencer. -/
def State.operand (s : State) (top : BitVec 16) (mark : Bool) : Operand :=
  { key := s.tileKey s.cur (topTile top), num := topTile top, mode := topMode top, exp := s.st.expected top, mark := mark }

/-- The slot rank of a stream, as a writer. -/
def State.writerOf (s : State) (k : Nat) : BitVec 3 :=
  BitVec.ofNat 3 ((s.launchOf (k / 4096)).m.slotRank (k % 4096))

/-- The STALE_VERSION and WAIT_TIMEOUT words of a tile (R391). -/
def State.tileArgs (s : State) (o : Operand) (w0 : Word) : List Nat :=
  [o.num + o.exp.toNat * 2 ^ 16 + (s.tile o.key).count.toNat * 2 ^ 32, w0.toNat]

/-- What a wait on an operand keeps of it; `srcs` are the sources of its instruction. -/
def Operand.wait (o : Operand) (reads : Bool) (srcs : List Operand) : TileWait :=
  { key := o.key, num := o.num, exp := o.exp, mode := o.mode, reads := reads,
    own := if reads then [] else (srcs.filter fun x => x.key = o.key && x.retires).map Operand.exp }

/-- The tile as a destination's test takes it, after its instruction's own admissions (R106). -/
def TileWait.after (w : TileWait) (t : Tile) : Tile :=
  w.own.foldl (fun t e => (admitRead t { key := w.key, num := w.num, mode := 1, exp := e, mark := false }).1) t

/-- The operand that a wait is on. -/
def TileWait.operand (w : TileWait) : Operand := { key := w.key, num := w.num, mode := w.mode, exp := w.exp, mark := false }

/-- The acting stream waits at its instruction, from the ACLK cycle of its first failed test (R112, R113). -/
def State.waitAt (s : State) (w : Wait) : Result :=
  let since := match s.st.wait with | some o => o.since | none => s.aclk s.cur
  .next (s.setSt { s.st with wait := some { w with since := since } })

/-- It waits for a tile. -/
def State.waitTile (s : State) (o : Operand) (reads : Bool) (srcs : List Operand) (w0 : Word) : Result :=
  s.waitAt { since := 0, tiles := [o.key], tile := some (o.wait reads srcs), args := [w0.toNat] }

/-- A wait that R113 does not measure: the instruction issues again later. -/
def State.stall (s : State) : Result := .next s

/-- The start of a sequencer instruction on one tile operand (R106): a source, a destination, or both tests of one tile;
`body` acts on the started state, in which the wait has ended. -/
def tileStart (i : Instr) (top : BitVec 16) (srcs dsts : Bool) (mark : Bool) (s : State)
    (body : Operand → State → Result) : Result :=
  let o := s.operand top mark
  match s.startTiles (s.cur * 8) (strict s.st.ssr) (if srcs then [o] else []) (if dsts then [o] else []) with
  | .waits s o reads => s.waitTile o reads (if srcs then [o] else []) i.word0
  | .stale sub o => s.trap { code := 6, sub := sub, args := s.tileArgs o i.word0 }
  | .starts s => body o (s.setSt { s.st with wait := none })

/-- A sequencer instruction with a tile operand (R76, R79): the window check, then the guard. -/
def tileGuard (i : Instr) (top : BitVec 16) (s : State) (body : State → Result) : Result :=
  if s.launch.m.twin ≤ topTile top then s.trap (illegal 6 i.word0 i.word1) else issue i.guard s body

/-- A sequencer instruction that waits on its tile operand. -/
def tileInstr (i : Instr) (top : BitVec 16) (srcs dsts : Bool) (mark : Bool) (s : State)
    (body : Operand → State → Result) : Result :=
  tileGuard i top s fun s => tileStart i top srcs dsts mark s body

end Sys2Proof.Machine
end

