-- ==== Sys2Proof/Machine/Flags.lean ====
section
/-! DEFINITION. Exact values of the number formats, rounding, and every flag that a rounding or an operation sets
(R83, R98, R140). Flags are six bits in the order of SSR.FLAGS: INV 1, OVF 2, UNF 4, INX 8, DZ 16, RANGE 32. -/

namespace Sys2Proof.Machine

def flagInv : BitVec 6 := 1
def flagOvf : BitVec 6 := 2
def flagUnf : BitVec 6 := 4
def flagInx : BitVec 6 := 8
def flagDz : BitVec 6 := 16
def flagRange : BitVec 6 := 32

/-- An exact value: a zero keeps its sign; `fin neg n e` is `±n·2^e`. -/
inductive Val where
  | nan
  | inf (neg : Bool)
  | fin (neg : Bool) (n : Nat) (e : Int)
  deriving DecidableEq, Repr

/-- A binary format: precision with the hidden bit, exponent bias, total bits. -/
structure Fmt where
  p : Nat
  bias : Nat
  width : Nat
  deriving DecidableEq, Repr

def f32 : Fmt := { p := 24, bias := 127, width := 32 }
def bf16 : Fmt := { p := 8, bias := 127, width := 16 }
def f64 : Fmt := { p := 53, bias := 1023, width := 64 }

/-- The bits of +infinity: the exponent field all ones. -/
def Fmt.infBits (f : Fmt) : Nat := (2 * f.bias + 1) * 2 ^ (f.p - 1)
/-- The canonical NaN: 0x7FC0_0000, 0x7FC0. -/
def Fmt.nanBits (f : Fmt) : Nat := f.infBits + 2 ^ (f.p - 2)
def Fmt.signBit (f : Fmt) : Nat := 2 ^ (f.width - 1)
def Fmt.signed (f : Fmt) (neg : Bool) (b : Nat) : Nat := if neg then f.signBit + b else b

/-- `val32`, `valbf` (R83): the value of a format's bits. -/
def Fmt.val (f : Fmt) (bits : Nat) : Val :=
  let b := bits % 2 ^ f.width
  let neg := f.signBit ≤ b
  let m := b % f.signBit
  let ex := m / 2 ^ (f.p - 1)
  let fr := m % 2 ^ (f.p - 1)
  if ex = 2 * f.bias + 1 then (if fr = 0 then .inf neg else .nan)
  else if ex = 0 then .fin neg fr (1 - (f.bias : Int) - ((f.p : Int) - 1))
  else .fin neg (fr + 2 ^ (f.p - 1)) ((ex : Int) - f.bias - ((f.p : Int) - 1))

/-- Rounding modes as SHAPE codes them (R82): RNE, RZ, RU, RD. -/
abbrev Mode := BitVec 2

/-- Whether the magnitude `m + r/d` (0 ≤ r < d) rounds up to `m + 1`. -/
def roundsUp (mode : Mode) (neg : Bool) (m r d : Nat) : Bool :=
  if r = 0 then false
  else if mode = 0 then d < 2 * r || (d = 2 * r && m % 2 = 1)
  else if mode = 1 then false
  else if mode = 2 then !neg
  else neg

/-- `2^e · num/den` as a fraction of naturals. -/
def scale (num den : Nat) (e : Int) : Nat × Nat :=
  match e with
  | .ofNat k => (num * 2 ^ k, den)
  | .negSucc k => (num, den * 2 ^ (k + 1))

/-- floor(log2(num/den)) for a positive fraction. -/
def ilog (num den : Nat) : Int :=
  let l : Int := (num.log2 : Int) - den.log2
  let (a, b) := scale num den (-l)
  if b ≤ a then l else l - 1

/-- `round32`, `roundbf` (R83): the positive or negative fraction num/den rounded to a format under a mode, and its flags. -/
def Fmt.roundFrac (f : Fmt) (mode : Mode) (neg : Bool) (num den : Nat) : Nat × BitVec 6 :=
  if num = 0 then (f.signed neg 0, 0)
  else
    let emin : Int := 1 - (f.bias : Int)
    let e := ilog num den
    let q := max e emin - ((f.p : Int) - 1)
    let (a, b) := scale num den (-q)
    let m := a / b
    let r := a % b
    let m := if roundsUp mode neg m r b then m + 1 else m
    let field := (q + ((f.p : Int) - 1) + f.bias).toNat
    let bits := (field - 1) * 2 ^ (f.p - 1) + m
    if f.infBits ≤ bits then
      let toInf := if mode = 0 then true else if mode = 1 then false else if mode = 2 then !neg else neg
      (f.signed neg (if toInf then f.infBits else f.infBits - 1), flagOvf ||| flagInx)
    else
      let inexact := r != 0
      let (a', b') := scale num den (((f.p : Int) - 1) - e)
      let m' := if roundsUp mode neg (a' / b') (a' % b') b' then a' / b' + 1 else a' / b'
      let tiny := e < emin && !(m' = 2 ^ f.p && e + 1 = emin)
      (f.signed neg bits, (if inexact then flagInx else 0) ||| (if inexact && tiny then flagUnf else 0))

/-- Rounds a value: a NaN gives the canonical NaN, an infinity itself, a zero itself (R83). -/
def Fmt.round (f : Fmt) (mode : Mode) : Val → Nat × BitVec 6
  | .nan => (f.nanBits, 0)
  | .inf neg => (f.signed neg f.infBits, 0)
  | .fin neg n e => let (a, b) := scale n 1 e; f.roundFrac mode neg a b

/-! ### Exact arithmetic -/

/-- A signed integer `±n·2^(e-lo)` for a common exponent `lo ≤ e`. -/
def alignTo (lo : Int) (neg : Bool) (n : Nat) (e : Int) : Int :=
  let v : Int := (n * 2 ^ (e - lo).toNat : Nat)
  if neg then -v else v

/-- Least exponent of the finite terms. -/
def lowExp : List Val → Int
  | [] => 0
  | [.fin _ _ e] => e
  | .fin _ _ e :: vs => min e (lowExp vs)
  | _ :: vs => lowExp vs

/-- The sum of finite terms over a common exponent. -/
def sumAligned (lo : Int) : List Val → Int
  | [] => 0
  | .fin neg n e :: vs => alignTo lo neg n e + sumAligned lo vs
  | _ :: vs => sumAligned lo vs

def Val.neg : Val → Bool
  | .nan => false
  | .inf b => b
  | .fin b _ _ => b
def Val.isNan (v : Val) : Bool := v = .nan
def Val.isInf : Val → Bool
  | .inf _ => true
  | _ => false
def Val.isZero : Val → Bool
  | .fin _ 0 _ => true
  | _ => false

/-- `exact_sum` (R83): a zero sum is −0 when every term is −0, or when the list holds terms of both signs and the mode is RD;
the empty sum is +0. -/
def exactSum (mode : Mode) (vs : List Val) : Val :=
  let lo := lowExp vs
  let t := sumAligned lo vs
  if t = 0 then
    let allNegZero := !vs.isEmpty && vs.all (fun v => v.isZero && v.neg)
    let both := vs.any Val.neg && vs.any (fun v => !v.neg)
    .fin (allNegZero || (both && mode = 3)) 0 0
  else .fin (t < 0) t.natAbs lo

def Val.negate : Val → Val
  | .nan => .nan
  | .inf b => .inf !b
  | .fin b n e => .fin (!b) n e
def Val.abs : Val → Val
  | .nan => .nan
  | .inf _ => .inf false
  | .fin _ n e => .fin false n e

/-- The product of finite values. -/
def mulFin (a b : Val) : Val :=
  match a, b with
  | .fin s n e, .fin t m f => .fin (s != t) (n * m) (e + f)
  | _, _ => .nan

/-- a < b and a = b for values that are no NaN (+0 equals −0). -/
def Val.lt : Val → Val → Bool
  | .nan, _ | _, .nan => false
  | .inf a, .inf b => a && !b
  | .inf a, .fin .. => a
  | .fin .., .inf b => !b
  | .fin s n e, .fin t m f =>
    let lo := min e f
    alignTo lo s n e < alignTo lo t m f
def Val.eq : Val → Val → Bool
  | .nan, _ | _, .nan => false
  | .inf a, .inf b => a = b
  | .inf _, .fin .. | .fin .., .inf _ => false
  | .fin s n e, .fin t m f =>
    let lo := min e f
    alignTo lo s n e = alignTo lo t m f
def Val.le (a b : Val) : Bool := a.lt b || a.eq b

/-- An exact integer as a value. -/
def Val.ofInt (v : Int) : Val := .fin (v < 0) v.natAbs 0

/-! ### The rounded operations (R140, R167) -/

/-- A sum of two values with the special cases of R140. -/
def Fmt.add (f : Fmt) (mode : Mode) (a b : Val) : Nat × BitVec 6 :=
  match a, b with
  | .nan, _ | _, .nan => (f.nanBits, 0)
  | .inf x, .inf y => if x = y then (f.signed x f.infBits, 0) else (f.nanBits, flagInv)
  | .inf x, _ | _, .inf x => (f.signed x f.infBits, 0)
  | a, b => f.round mode (exactSum mode [a, b])

def Fmt.sub (f : Fmt) (mode : Mode) (a b : Val) : Nat × BitVec 6 := f.add mode a b.negate

def Fmt.mul (f : Fmt) (mode : Mode) (a b : Val) : Nat × BitVec 6 :=
  match a, b with
  | .nan, _ | _, .nan => (f.nanBits, 0)
  | .inf x, b => if b.isZero then (f.nanBits, flagInv) else (f.signed (x != b.neg) f.infBits, 0)
  | a, .inf y => if a.isZero then (f.nanBits, flagInv) else (f.signed (a.neg != y) f.infBits, 0)
  | a, b => f.round mode (mulFin a b)

/-- a · b + c with one rounding. The product of a zero and an infinity is invalid whatever c is; a NaN a or b sets no
flag (R140). -/
def Fmt.fma (f : Fmt) (mode : Mode) (a b c : Val) : Nat × BitVec 6 :=
  if a.isNan || b.isNan then (f.nanBits, 0)
  else if (a.isInf && b.isZero) || (a.isZero && b.isInf) then (f.nanBits, flagInv)
  else if c.isNan then (f.nanBits, 0)
  else if a.isInf || b.isInf then
    let s := a.neg != b.neg
    if c.isInf && c.neg != s then (f.nanBits, flagInv) else (f.signed s f.infBits, 0)
  else if c.isInf then (f.signed c.neg f.infBits, 0)
  else f.round mode (exactSum mode [mulFin a b, c])

def Fmt.div (f : Fmt) (mode : Mode) (a b : Val) : Nat × BitVec 6 :=
  match a, b with
  | .nan, _ | _, .nan => (f.nanBits, 0)
  | .inf _, .inf _ => (f.nanBits, flagInv)
  | .inf x, b => (f.signed (x != b.neg) f.infBits, 0)
  | a, .inf y => (f.signed (a.neg != y) 0, 0)
  | .fin s n e, .fin t m g =>
    if m = 0 then
      (if n = 0 then (f.nanBits, flagInv) else (f.signed (s != t) f.infBits, flagDz))
    else let (p, q) := scale n m (e - g); f.roundFrac mode (s != t) p q

/-- Integer square root by binary digits: `k` result bits. -/
def isqrtAux (n : Nat) : Nat → Nat → Nat
  | 0, r => r
  | k + 1, r => let c := r + 2 ^ k; isqrtAux n k (if c * c ≤ n then c else r)
def isqrt (n : Nat) : Nat := isqrtAux n (n.log2 / 2 + 1) 0

/-- The square root of `n·2^e` as a fraction, with a sticky half unit far below every format's precision. -/
def sqrtFrac (n : Nat) (e : Int) : Nat × Nat :=
  let (n, e) := if e % 2 = 0 then (n, e) else (2 * n, e - 1)
  let n' := n * 2 ^ 256
  let r := isqrt n'
  let r2 := if r * r = n' then 2 * r else 2 * r + 1
  scale r2 1 (e / 2 - 128 - 1)

def Fmt.sqrt (f : Fmt) (mode : Mode) (a : Val) : Nat × BitVec 6 :=
  match a with
  | .nan => (f.nanBits, 0)
  | .inf neg => if neg then (f.nanBits, flagInv) else (f.infBits, 0)
  | .fin neg n e =>
    if n = 0 then (f.signed neg 0, 0)
    else if neg then (f.nanBits, flagInv)
    else let (p, q) := sqrtFrac n e; f.roundFrac mode false p q

/-- FMIN and FMAX (R139, R140): −0 below +0; one NaN gives the other operand, two the canonical NaN; no flag. -/
def Fmt.minmax (f : Fmt) (wantMax : Bool) (a b : Nat) : Nat :=
  let x := f.val a
  let y := f.val b
  if x.isNan && y.isNan then f.nanBits
  else if x.isNan then b % 2 ^ f.width
  else if y.isNan then a % 2 ^ f.width
  else
    let less := x.lt y || (x.eq y && x.neg && !y.neg)
    (if less != wantMax then a else b) % 2 ^ f.width

/-- The integer that a finite value rounds to under a mode, and whether that was inexact. -/
def roundInt (mode : Mode) (neg : Bool) (n : Nat) (e : Int) : Int × Bool :=
  let (a, b) := scale n 1 e
  let m := if roundsUp mode neg (a / b) (a % b) b then a / b + 1 else a / b
  (if neg then -(m : Int) else m, a % b != 0)

/-- Conversion to an integer between bounds: NaN gives 0, what rounds outside saturates, both set INV; an inexact one sets
INX (R140). -/
def toInt (mode : Mode) (lo hi : Int) : Val → Int × BitVec 6
  | .nan => (0, flagInv)
  | .inf neg => (if neg then lo else hi, flagInv)
  | .fin neg n e =>
    let (v, inexact) := roundInt mode neg n e
    if v < lo then (lo, flagInv) else if hi < v then (hi, flagInv) else (v, if inexact then flagInx else 0)

end Sys2Proof.Machine
end

