-- ==== Sys2Proof/Machine/Scalar.lean ====
section
/-! DEFINITION. The scalar families: integer arithmetic (R132 to R135), comparison (R136), predicate logic (R137) and scalar
floating point (R138 to R140). -/

namespace Sys2Proof.Machine

/-- The width that SZ gives (R71). -/
def aluWidth (sz : BitVec 2) : Nat := 64 >>> sz.toNat

/-- `wrap_s` (R82) of an integer. -/
def wrapS (v : Int) (n : Nat) : Int := sextNat (v % (2 : Int) ^ n).toNat n

/-- An ALU function (R132): `op n a b` on the unsigned values at width n, sign-extended into XD. -/
def aluOp (f : FA) (s : State) (op : Nat → Nat → Nat → Int) : Result :=
  issue f.g s fun s =>
    let n := aluWidth f.sz
    let a := (s.xr f.xa).toNat % 2 ^ n
    let b := (s.xr f.xb).toNat % 2 ^ n
    done (s.xw f.xd (wordOfInt (wrapS (op n a b) n)))

/-- Signed and unsigned division (R134). -/
def divS (n : Nat) (a b : Int) : Int :=
  if b = 0 then -1 else if a = -(2 : Int) ^ (n - 1) && b = -1 then a else a.tdiv b
def remS (n : Nat) (a b : Int) : Int :=
  if b = 0 then a else if a = -(2 : Int) ^ (n - 1) && b = -1 then 0 else a - b * a.tdiv b
def divN (n a b : Nat) : Nat := if b = 0 then 2 ^ n - 1 else a / b
def remN (a b : Nat) : Nat := if b = 0 then a else a - b * (a / b)

/-- Leading and trailing zeros within `n` bits, the ones, and the bits reversed (R133). -/
def clzN (n a : Nat) : Nat := if a = 0 then n else n - 1 - a.log2
def ctzN : Nat → Nat → Nat
  | 0, _ => 0
  | n + 1, a => if a % 2 = 1 then 0 else 1 + ctzN n (a / 2)
def popcN : Nat → Nat → Nat
  | 0, _ => 0
  | n + 1, a => a % 2 + popcN n (a / 2)
def brevN : Nat → Nat → Nat
  | 0, _ => 0
  | n + 1, a => a % 2 * 2 ^ n + brevN n (a / 2)
/-- a rotated left by `k` within `n` bits. -/
def rolN (n a k : Nat) : Nat := (a * 2 ^ k) % 2 ^ n + a / 2 ^ (n - k)

/-- ADD (R133). -/
def execAdd (f : FA) (s : State) : Result := aluOp f s (fun _ a b => (a + b : Nat))
/-- SUB (R133). -/
def execSub (f : FA) (s : State) : Result := aluOp f s (fun _ a b => (a : Int) - b)
/-- MUL (R133). -/
def execMul (f : FA) (s : State) : Result := aluOp f s (fun _ a b => (a * b : Nat))
/-- MULH (R133). -/
def execMulh (f : FA) (s : State) : Result := aluOp f s (fun n a b => sextNat a n * sextNat b n / (2 : Int) ^ n)
/-- MULHN (R133). -/
def execMulhn (f : FA) (s : State) : Result := aluOp f s (fun n a b => (a * b / 2 ^ n : Nat))
/-- DIV (R133). -/
def execDiv (f : FA) (s : State) : Result := aluOp f s (fun n a b => divS n (sextNat a n) (sextNat b n))
/-- DIVN (R133). -/
def execDivn (f : FA) (s : State) : Result := aluOp f s (fun n a b => (divN n a b : Nat))
/-- REM (R133). -/
def execRem (f : FA) (s : State) : Result := aluOp f s (fun n a b => remS n (sextNat a n) (sextNat b n))
/-- REMN (R133). -/
def execRemn (f : FA) (s : State) : Result := aluOp f s (fun _ a b => (remN a b : Nat))
/-- AND (R133). -/
def execAndR (f : FA) (s : State) : Result := aluOp f s (fun _ a b => (a &&& b : Nat))
/-- OR (R133). -/
def execOrR (f : FA) (s : State) : Result := aluOp f s (fun _ a b => (a ||| b : Nat))
/-- XOR (R133). -/
def execXor (f : FA) (s : State) : Result := aluOp f s (fun _ a b => (a ^^^ b : Nat))
/-- ANDN (R133). -/
def execAndn (f : FA) (s : State) : Result := aluOp f s (fun n a b => (a &&& (2 ^ n - 1 - b) : Nat))
/-- SHL (R133). -/
def execShl (f : FA) (s : State) : Result := aluOp f s (fun n a b => (a * 2 ^ (b % n) : Nat))
/-- SHR (R133). -/
def execShr (f : FA) (s : State) : Result := aluOp f s (fun n a b => (a / 2 ^ (b % n) : Nat))
/-- SRA (R133). -/
def execSra (f : FA) (s : State) : Result := aluOp f s (fun n a b => sextNat a n / (2 : Int) ^ (b % n))
/-- ROL (R133). -/
def execRol (f : FA) (s : State) : Result := aluOp f s (fun n a b => (rolN n a (b % n) : Nat))
/-- MIN (R133). -/
def execMin (f : FA) (s : State) : Result := aluOp f s (fun n a b => Min.min (sextNat a n) (sextNat b n))
/-- MAX (R133). -/
def execMax (f : FA) (s : State) : Result := aluOp f s (fun n a b => Max.max (sextNat a n) (sextNat b n))
/-- MINN (R133). -/
def execMinn (f : FA) (s : State) : Result := aluOp f s (fun _ a b => (Min.min a b : Nat))
/-- MAXN (R133). -/
def execMaxn (f : FA) (s : State) : Result := aluOp f s (fun _ a b => (Max.max a b : Nat))
/-- CLZ (R133). -/
def execClz (f : FA) (s : State) : Result := aluOp f s (fun n a _ => (clzN n a : Nat))
/-- CTZ (R133). -/
def execCtz (f : FA) (s : State) : Result := aluOp f s (fun n a _ => (ctzN n a : Nat))
/-- POPC (R133). -/
def execPopc (f : FA) (s : State) : Result := aluOp f s (fun n a _ => (popcN n a : Nat))
/-- BREV (R133). -/
def execBrev (f : FA) (s : State) : Result := aluOp f s (fun n a _ => (brevN n a : Nat))
/-- SEXT (R133). -/
def execSext (f : FA) (s : State) : Result := aluOp f s (fun _ a _ => (a : Nat))
/-- ABS (R133). -/
def execAbs (f : FA) (s : State) : Result := aluOp f s (fun n a _ => ((sextNat a n).natAbs : Nat))
/-- NEG (R133). -/
def execNeg (f : FA) (s : State) : Result := aluOp f s (fun n a _ => -sextNat a n)
/-- ZEXT (R133): written without sign extension. -/
def execZext (f : FA) (s : State) : Result :=
  issue f.g s fun s => done (s.xw f.xd (BitVec.ofNat 64 ((s.xr f.xa).toNat % 2 ^ aluWidth f.sz)))
/-- SEL (R133): the predicate XC[2:0] selects. -/
def execSel (f : FA) (s : State) : Result := aluOp f s (fun _ a b => if s.pr (f.xc.toNat % 8) then (a : Nat) else (b : Nat))

/-! ### Immediates (R135) -/

/-- An ALUI function of the source register and the immediate. -/
def aluiOp (f : FI) (s : State) (op : Word → BitVec 32 → Word) : Result :=
  issue f.g s fun s => done (s.xw f.xd (op (s.xr f.xa) f.imm))

/-- ADDI (R135). -/
def execAddi (f : FI) (s : State) : Result := aluiOp f s (fun a i => a + i.signExtend 64)
/-- MULI (R135). -/
def execMuli (f : FI) (s : State) : Result := aluiOp f s (fun a i => a * i.signExtend 64)
/-- ANDI (R135). -/
def execAndi (f : FI) (s : State) : Result := aluiOp f s (fun a i => a &&& i.signExtend 64)
/-- ORI (R135). -/
def execOri (f : FI) (s : State) : Result := aluiOp f s (fun a i => a ||| i.zeroExtend 64)
/-- XORI (R135). -/
def execXori (f : FI) (s : State) : Result := aluiOp f s (fun a i => a ^^^ i.zeroExtend 64)
/-- SHLI (R135). -/
def execShli (f : FI) (s : State) : Result := aluiOp f s (fun a i => a <<< i.toNat)
/-- SHRI (R135). -/
def execShri (f : FI) (s : State) : Result := aluiOp f s (fun a i => a >>> i.toNat)
/-- SRAI (R135). -/
def execSrai (f : FI) (s : State) : Result := aluiOp f s (fun a i => a.sshiftRight i.toNat)
/-- MOVI (R135). -/
def execMovi (f : FI) (s : State) : Result := aluiOp f s (fun _ i => i.signExtend 64)
/-- MOVHI (R135): the high half from the immediate, the low half of XD kept. -/
def execMovhi (f : FI) (s : State) : Result :=
  issue f.g s fun s => done (s.xw f.xd (f.imm ++ (s.xr f.xd).extractLsb' 0 32))

/-! ### Comparison (R136) -/

/-- CMP at width n, on the unsigned values. -/
def cmpOp (f : FA) (s : State) (op : Nat → Nat → Nat → Bool) : Result :=
  issue f.g s fun s =>
    let n := aluWidth f.sz
    done (s.pw (f.xd.toNat % 8) (op n ((s.xr f.xa).toNat % 2 ^ n) ((s.xr f.xb).toNat % 2 ^ n)))
/-- CMPI at 64 bits, with the sign-extended immediate. -/
def cmpiOp (f : FI) (s : State) (op : Word → Word → Bool) : Result :=
  issue f.g s fun s => done (s.pw (f.xd.toNat % 8) (op (s.xr f.xa) (f.imm.signExtend 64)))

/-- CMPEQ and CMPEQI (R136). -/
def execCmpeq (f : FA) (s : State) : Result := cmpOp f s (fun _ a b => decide (a = b))
def execCmpeqi (f : FI) (s : State) : Result := cmpiOp f s (fun a b => decide (a = b))
/-- CMPNE and CMPNEI (R136). -/
def execCmpne (f : FA) (s : State) : Result := cmpOp f s (fun _ a b => decide (a ≠ b))
def execCmpnei (f : FI) (s : State) : Result := cmpiOp f s (fun a b => decide (a ≠ b))
/-- CMPLT and CMPLTI (R136). -/
def execCmplt (f : FA) (s : State) : Result := cmpOp f s (fun n a b => decide (sextNat a n < sextNat b n))
def execCmplti (f : FI) (s : State) : Result := cmpiOp f s (fun a b => a.slt b)
/-- CMPLE and CMPLEI (R136). -/
def execCmple (f : FA) (s : State) : Result := cmpOp f s (fun n a b => decide (sextNat a n ≤ sextNat b n))
def execCmplei (f : FI) (s : State) : Result := cmpiOp f s (fun a b => a.sle b)
/-- CMPLTN and CMPLTNI (R136). -/
def execCmpltn (f : FA) (s : State) : Result := cmpOp f s (fun _ a b => decide (a < b))
def execCmpltni (f : FI) (s : State) : Result := cmpiOp f s (fun a b => a.ult b)
/-- CMPLEN and CMPLENI (R136). -/
def execCmplen (f : FA) (s : State) : Result := cmpOp f s (fun _ a b => decide (a ≤ b))
def execCmpleni (f : FI) (s : State) : Result := cmpiOp f s (fun a b => a.ule b)

/-! ### Predicate logic (R137) -/

/-- A predicate function of two predicates. -/
def predOp (f : FA) (s : State) (op : Bool → Bool → Bool) : Result :=
  issue f.g s fun s => done (s.pw (f.xd.toNat % 8) (op (s.pr (f.xa.toNat % 8)) (s.pr (f.xb.toNat % 8))))

/-- PSET, PCLR, PAND, POR, PXOR, PNOT (R137). -/
def execPset (f : FA) (s : State) : Result := predOp f s (fun _ _ => true)
def execPclr (f : FA) (s : State) : Result := predOp f s (fun _ _ => false)
def execPand (f : FA) (s : State) : Result := predOp f s (fun a b => a && b)
def execPor (f : FA) (s : State) : Result := predOp f s (fun a b => a || b)
def execPxor (f : FA) (s : State) : Result := predOp f s (fun a b => a != b)
def execPnot (f : FA) (s : State) : Result := predOp f s (fun a _ => !a)

/-! ### Scalar floating point (R138 to R140) -/

/-- The rounding field of SHAPE (R82). -/
def shapeMode (shape : Word) : Mode := shape.extractLsb' 24 2

/-- The binary32 value of a register's low half. -/
def State.xf (s : State) (i : BitVec 6) : Val := f32.val (s.xr i).toNat

/-- An FPS function with a binary32 result, and its flags. -/
def fpsOp (f : FA) (s : State) (op : Mode → Val → Val → Val → Nat × BitVec 6) : Result :=
  issue f.g s fun s =>
    let r := op (shapeMode s.st.shape) (s.xf f.xa) (s.xf f.xb) (s.xf f.xc)
    (s.xw f.xd (BitVec.ofNat 64 r.1)).finishFlags r.2

/-- FADD, FSUB, FMUL, FFMA, FDIV, FSQRT (R139). -/
def execFadd (f : FA) (s : State) : Result := fpsOp f s (fun m a b _ => f32.add m a b)
def execFsub (f : FA) (s : State) : Result := fpsOp f s (fun m a b _ => f32.sub m a b)
def execFmul (f : FA) (s : State) : Result := fpsOp f s (fun m a b _ => f32.mul m a b)
def execFfma (f : FA) (s : State) : Result := fpsOp f s (fun m a b c => f32.fma m a b c)
def execFdiv (f : FA) (s : State) : Result := fpsOp f s (fun m a b _ => f32.div m a b)
def execFsqrt (f : FA) (s : State) : Result := fpsOp f s (fun m a _ _ => f32.sqrt m a)

/-- FMIN and FMAX (R139, R140): on the bits. -/
def fminmax (f : FA) (s : State) (wantMax : Bool) : Result :=
  issue f.g s fun s =>
    done (s.xw f.xd (BitVec.ofNat 64 (f32.minmax wantMax (s.xr f.xa).toNat (s.xr f.xb).toNat)))
def execFmin (f : FA) (s : State) : Result := fminmax f s false
def execFmax (f : FA) (s : State) : Result := fminmax f s true

/-- FCVTI (R139, R140): to a signed 64-bit integer. -/
def execFcvti (f : FA) (s : State) : Result :=
  issue f.g s fun s =>
    let r := toInt (shapeMode s.st.shape) (-2 ^ 63) (2 ^ 63 - 1) (s.xf f.xa)
    (s.xw f.xd (wordOfInt r.1)).finishFlags r.2
/-- FCVTF (R139): from a signed 64-bit integer. -/
def execFcvtf (f : FA) (s : State) : Result :=
  issue f.g s fun s =>
    let r := f32.round (shapeMode s.st.shape) (Val.ofInt (s.xr f.xa).toInt)
    (s.xw f.xd (BitVec.ofNat 64 r.1)).finishFlags r.2

/-- FCMPLT (R140): a NaN operand gives 0 and sets INV. -/
def execFcmplt (f : FA) (s : State) : Result :=
  issue f.g s fun s =>
    let a := s.xf f.xa
    let b := s.xf f.xb
    (s.pw (f.xd.toNat % 8) (a.lt b)).finishFlags (if a.isNan || b.isNan then flagInv else 0)
/-- FCMPEQ (R140): a NaN operand gives 0 and sets no flag. -/
def execFcmpeq (f : FA) (s : State) : Result :=
  issue f.g s fun s => done (s.pw (f.xd.toNat % 8) ((s.xf f.xa).eq (s.xf f.xb)))

end Sys2Proof.Machine
end

