-- ==== Sys2Proof/Machine/Control.lean ====
section
/-! DEFINITION. Barrier membership (R31, R351, R353), branches and calls (R141, R142), hardware loops (R143, R144) with
their trace records and breakpoints (R413 to R415), and the control functions (R146 to R149). -/

namespace Sys2Proof.Machine

/-! ### Barrier groups -/

/-- The leg of a cluster rank (R28): legs take cluster ranks in increasing order. -/
def legOfCluster : List Nat → Nat → Nat
  | [], _ => 0
  | n :: ns, c => if c < n then 0 else 1 + legOfCluster ns (c - n)
def Manifest.legOf (m : Manifest) (i : Nat) : Nat :=
  if m.nleg = 0 then 0 else legOfCluster (m.legtab.take m.nleg) (m.clusterRank i)

/-- Whether a stream index belongs to the group of a tag as BARTAB gives it (R31). -/
def Manifest.inGroup (m : Manifest) (tag i : Nat) : Bool :=
  let e := m.bartab.getD tag 0
  tag < m.nbar && i < m.streams &&
    (if e / 16 % 4 = 1 then m.slotRank i = e / 2 ^ 12 % 8
     else if e / 16 % 4 = 2 then m.legOf i = e / 2 ^ 8 % 16
     else true)

/-- The SCOPE of a tag's group. -/
def Manifest.barScope (m : Manifest) (tag : Nat) : Nat := m.bartab.getD tag 0 % 8

def Launch.barTag (l : Launch) (tag : Nat) : BarTag := tget BarTag.default l.tags tag

/-- Current members of a tag (R351). -/
def Launch.isMember (l : Launch) (tag i : Nat) : Bool := l.m.inGroup tag i && !(l.barTag tag).gone.contains i
def Launch.members (l : Launch) (tag : Nat) : List Nat := (List.range l.m.streams).filter (l.isMember tag)

/-- The generation completes when every current member has arrived (R351): the counts start again, the release follows. -/
def Launch.settleTag (l : Launch) (tag : Nat) : Launch :=
  let b := l.barTag tag
  if (l.members tag).all b.arrived.contains then
    { l with tags := tput l.tags tag { b with gen := b.gen + 1, arrived := [] } }
  else l

/-- A change to a tag restarts the measures of the streams that wait on it (R354). -/
def State.restartTagWaits (s : State) (l tag : Nat) : List Nat → State
  | [] => s
  | i :: is =>
    let k := l * 4096 + i
    let t := s.stream k
    let t := match t.wait with
      | some w => if w.tag = some tag && tget 0 t.pend tag != 0 then { t with wait := some { w with since := s.aclk k } } else t
      | none => t
    (s.setStream k t).restartTagWaits l tag is

/-- An arrival counted in a tag (R352). -/
def State.arriveTag (s : State) (l tag i : Nat) : State :=
  let v := s.launchOf l
  let b := v.barTag tag
  let v := { v with tags := tput v.tags tag { b with arrived := b.arrived ++ [i] } }
  (s.setLaunch l (v.settleTag tag)).restartTagWaits l tag (v.members tag)

/-- LEAVE (R353): the membership ends; an arrival already made stays counted. -/
def State.leaveTag (s : State) (l tag i : Nat) : State :=
  let v := s.launchOf l
  if v.isMember tag i then
    let b := v.barTag tag
    let v := { v with tags := tput v.tags tag { b with gone := b.gone ++ [i] } }
    (s.setLaunch l (v.settleTag tag)).restartTagWaits l tag (v.members tag)
  else s

def State.leaveAll (s : State) (l i : Nat) : Nat → State
  | 0 => s
  | n + 1 => (s.leaveAll l i n).leaveTag l n i

/-! ### Branches and calls (R141, R142) -/

def Stream.jump (t : Stream) (pc : Word) : Stream := { t with pc := pc }

/-- The target of a PC-relative transfer: OFF32 counts 8-byte units from the branch itself. -/
def State.target (s : State) (off : BitVec 32) : Word := s.st.pc + off.signExtend 64 * 8

/-- BR (R141). -/
def execBr (f : FJ) (s : State) : Result := issue f.g s fun s => .next (s.setSt (s.st.jump (s.target f.off)))
/-- CALL (R141): the link, then the transfer. -/
def execCall (f : FJ) (s : State) : Result :=
  issue f.g s fun s => .next (s.setSt ((s.st.xw f.xa (s.st.pc + 8)).jump (s.target f.off)))

/-- The ALIGN of a jump whose target is no multiple of 8 (R142): the jump's own, no fetch (log entry 26). -/
def jumpAlign (target : Word) : Cause := { code := 15, args := [target.toNat, 0] }

/-- JR (R141, R142). -/
def execJr (f : FJ) (s : State) : Result :=
  issue f.g s fun s =>
    let t := s.xr f.xa
    if t.toNat % 8 = 0 then .next (s.setSt (s.st.jump t)) else s.trap (jumpAlign t)
/-- JLR (R141, R142): XA is read before XB is written. -/
def execJlr (f : FJ) (s : State) : Result :=
  issue f.g s fun s =>
    let t := s.xr f.xa
    if t.toNat % 8 = 0 then .next (s.setSt ((s.st.xw f.xb (s.st.pc + 8)).jump t)) else s.trap (jumpAlign t)

/-! ### Hardware loops (R143, R144) -/

/-- A LOOPST word from ACTIVE, ITER and REMAIN. -/
def loopWord (active : Bool) (iter : BitVec 31) (remain : BitVec 32) : Word := BitVec.ofBool active ++ iter ++ remain
def loopActive (w : Word) : Bool := w.getLsbD 63
def loopIter (w : Word) : BitVec 31 := w.extractLsb' 32 31
def loopRemain (w : Word) : BitVec 32 := w.extractLsb' 0 32

def Stream.setLoop (t : Stream) (n : Nat) (w : Word) : Stream := { t with loopst := tset 0 t.loopst n w }

/-- LOOP on a LOOPST word, with the value of XA: the word after it, and whether it branches back (R144). -/
def loopStep (w n : Word) : Word × Bool :=
  let w := if loopActive w then w
           else loopWord true 0 (BitVec.ofNat 32 (max 1 (min n.toNat (2 ^ 32)) - 1))
  let iter := loopIter w + 1
  if loopRemain w = 0 then (loopWord false iter (loopRemain w), false)
  else (loopWord true iter (loopRemain w - 1), true)

/-- The counters of a core, requester-major (R414), as seven 32-byte records of sixteen 16-bit counters. -/
def State.conflictRecords (s : State) (core : Nat) : List (BitVec 256) :=
  (List.range 7).map fun r =>
    (List.range 16).foldl (fun a j => a ||| (BitVec.ofNat 256 (tget 0 s.conflicts (core * 112 + r * 16 + j)) <<< (16 * j))) 0

/-- The trace of a completed LOOP: a kind-0 record when it branches back, or a kind-1 record with the seven matrix records
when it exits, after which the counters are cleared (R413, R414). -/
def State.traceLoop (s : State) (k loop iter : Nat) (back : Bool) : State :=
  if back then s.trace k 0 loop 0 iter 0 0 []
  else if (s.launchOf (k / 4096)).traceMask.getLsbD 1 then
    let core := s.physOf k
    let s := s.trace k 1 loop 0 iter 0 0 (s.conflictRecords core)
    { s with conflicts := s.conflicts.filter (fun e => e.1 / 112 != core) }
  else s

/-- The breakpoints that a LOOP of a stream fires (R415). -/
def Launch.breaks (l : Launch) (sidx loop iter : Nat) : List Nat :=
  (l.breakpoints.filter fun e => (e.2.sidx = 0xFFF || e.2.sidx = sidx) && e.2.loop = loop && e.2.iter = iter).map Prod.fst

/-- The kind-4 records of breakpoints that fire. -/
def State.traceBreaks (s : State) (k loop iter : Nat) : List Nat → State
  | [] => s
  | b :: bs => (s.trace k 4 loop 0 iter 0 b []).traceBreaks k loop iter bs

/-- LOOP (R144): the iteration boundary, where the trace records and breakpoints land (R415). -/
def execLoop (f : FJ) (s : State) : Result :=
  issue f.g s fun s =>
    let n := f.aux.toNat
    let pc := s.st.pc
    let (w, back) := loopStep (tget 0 s.st.loopst n) (s.xr f.xa)
    let next := if back then s.target f.off else pc + 8
    let iter := (loopIter w).toNat
    let s := (s.setSt ((s.st.setLoop n w).jump next)).traceLoop s.cur n iter back
    match s.launch.breaks s.sidx n iter with
    | [] => .next s
    | bs => (s.traceBreaks s.cur n iter bs).trapAfter pc { code := 27, sub := 1 }
/-- BREAKL (R144): the loop is left and control transfers. -/
def execBreakl (f : FJ) (s : State) : Result :=
  issue f.g s fun s =>
    let n := f.aux.toNat
    let w := tget 0 s.st.loopst n
    .next (s.setSt ((s.st.setLoop n (loopWord false (loopIter w) (loopRemain w))).jump (s.target f.off)))

/-! ### Control (R146 to R148) -/

/-- HALT (R147): the stream leaves every barrier group and issues no more. -/
def execHalt (f : FS) (s : State) : Result :=
  issue f.g s fun s =>
    let s := s.leaveAll s.launchNo s.sidx 8
    .next ((s.setSt { s.st with halted := true }).advance 8)

/-- The streams placed on a physical core. -/
def State.streamsOn (s : State) (phys : Nat) : List Nat :=
  s.launches.flatMap fun e =>
    ((List.range e.2.m.streams).filter (fun i => e.2.physCore i = phys)).map (fun i => e.1 * 4096 + i)

/-- NOP (R146). -/
def execNop (f : FS) (s : State) : Result := issue f.g s fun s => done s

/-- ESTIM (R148): the launch's remaining estimate, received now. -/
def execEstim (f : FS) (s : State) : Result :=
  issue f.g s fun s =>
    let l := s.launch
    done (s.setLaunch s.launchNo { l with est := min (s.xr f.xa).toNat (2 ^ 32 - 1), estNs := s.dev.ns })

/-! ### System registers (R149) -/

/-- Every engine entry that the stream appended has completed (R99). -/
def Stream.drained (t : Stream) : Bool :=
  t.matrixQ.entries.isEmpty && t.vectorQ.entries.isEmpty && t.porterQ.entries.isEmpty && t.assayerQ.entries.isEmpty &&
    t.running.isEmpty

/-- The value of a system register. -/
def State.sreg (s : State) (n : Nat) : Word :=
  let t := s.st
  if n = 0 then t.ssr
  else if n = 1 then t.scoord
  else if n = 2 then t.sleg
  else if n = 3 then BitVec.ofNat 64 ((s.launch.corePlace s.sidx).baseg * 2 ^ 16 + s.launch.m.twin)
  else if n = 4 then t.shape
  else if n = 5 then BitVec.ofNat 64 (streamId s.cur)
  else if n = 6 then BitVec.ofNat 64 (launchId s.launchNo)
  else if 8 ≤ n && n ≤ 0xB then BitVec.ofNat 64 (channelId s.cur (n - 8))
  else if n = 0x10 then BitVec.ofNat 64 s.timens
  else if n = 0x11 then BitVec.ofNat 64 (s.aclk s.cur)
  else if n = 0x18 then BitVec.ofNat 64 (t.fq.length * 2 ^ 32 + t.fqpos.toNat)
  else if 0x20 ≤ n && n ≤ 0x27 then tget 0 t.loopst (n - 0x20)
  else if 0x30 ≤ n && n ≤ 0x33 then tget 0 t.wm (n - 0x30)
  else 0

/-- The writable fields of SSR (R98). -/
def ssrMask : Word := 0xFFFFFFFF007F3F07

/-- SYSR (R149); a read of SSR waits until the stream's earlier entries have completed (R99). -/
def execSysr (f : FS) (s : State) : Result :=
  issue f.g s fun s =>
    if f.sreg = 0 && !s.st.drained then s.stall
    else done (s.xw f.xd (s.sreg f.sreg.toNat))
/-- SYSW (R149): the writable fields; a write of SSR waits as a read does. -/
def execSysw (f : FS) (s : State) : Result :=
  issue f.g s fun s =>
    let v := s.xr f.xa
    if f.sreg = 0 then
      (if s.st.drained then done (s.setSt { s.st with ssr := v &&& ssrMask }) else s.stall)
    else done (s.setSt (s.st.setLoop (f.sreg.toNat - 0x20) v))

end Sys2Proof.Machine
end

