-- ==== Sys2Proof/Machine/Operands.lean ====
section
/-! DEFINITION. The operand forms of the tile instructions: SHAPE and its views (R158 to R161), the elements of a tile, and
the operands of a queue entry (R75, R114). -/

namespace Sys2Proof.Machine

/-! ### Element types (R159, R160) -/

/-- Bits of an element of a type code. -/
def typeBits (c : Nat) : Nat :=
  if c = 0 || c = 2 || c = 3 then 32 else if c = 1 || c = 4 || c = 5 then 16 else if c = 8 then 4 else 8
def typeFmt (c : Nat) : Fmt := if c = 0 then f32 else bf16
def typeFloat (c : Nat) : Bool := c < 2
/-- An I type. -/
def typeSigned (c : Nat) : Bool := c = 2 || c = 4 || c = 6

/-- Bytes of `n` elements: ceil(n · sz). -/
def viewBytes (c n : Nat) : Nat := (n * typeBits c + 7) / 8

/-! ### SHAPE (R158) -/

def shapeType (w : Word) : Nat := (w.extractLsb' 0 4).toNat
def shapeRows (w : Word) : Nat := (w.extractLsb' 4 8).toNat
def shapeCols (w : Word) : Nat := (w.extractLsb' 12 12).toNat
def shapeReserved (w : Word) : Bool := w.extractLsb' 26 38 != 0

def rowsOk (r : Nat) : Bool := 1 ≤ r && r ≤ 64
def colsOk (c : Nat) : Bool := 1 ≤ c && c ≤ 2048

/-- A view of one operand: its rows, columns and element type. -/
structure View where
  rows : Nat
  cols : Nat
  type : Nat
  deriving DecidableEq, Repr

def View.count (v : View) : Nat := v.rows * v.cols
def View.fits (v : View) : Bool := viewBytes v.type v.count ≤ 2048

/-- The checks of R161 in the order of subcodes 1, 2, 4, 3. `c` is the effective type, `ok` whether the instruction accepts
it with its other fields, `rows` a further test of the derived views. -/
def shapeCheck (shape : Word) (c : Nat) (ok rows : Bool) (views : List View) : Option Nat :=
  if shapeReserved shape || 9 ≤ c then some 1
  else if !(rowsOk (shapeRows shape) && colsOk (shapeCols shape) && rows) then some 2
  else if !ok then some 4
  else if !views.all View.fits then some 3
  else none

/-! ### Elements of a tile -/

/-- The bits of element `i` of type `c` in the block of memory at `a` (R160). -/
def elemAt (m : Memory) (a c i : Nat) : Nat :=
  if c = 8 then
    let b := (m.get (a + i / 2)).toNat
    if i % 2 = 0 then b % 16 else b / 16
  else m.readLE (a + i * (typeBits c / 8)) (typeBits c / 8)

/-- Elements `first` to `first + n − 1`. -/
def elemsFrom (m : Memory) (a c first : Nat) : Nat → List Nat
  | 0 => []
  | n + 1 => elemAt m a c first :: elemsFrom m a c (first + 1) n

/-- Bytes of CB4 codes from byte `j` on; a last odd code keeps the other nibble. -/
def packNibbles (m : Memory) (a : Nat) : Nat → List Nat → List (Nat × Byte)
  | _, [] => []
  | j, [x] => [(j, BitVec.ofNat 8 (x % 16 + (m.get (a + j)).toNat / 16 * 16))]
  | j, x :: y :: r => (j, BitVec.ofNat 8 (x % 16 + y % 16 * 16)) :: packNibbles m a (j + 1) r

/-- Bytes of whole elements from offset `o` on. -/
def packBytes (n : Nat) : Nat → List Nat → List (Nat × Byte)
  | _, [] => []
  | o, x :: r => ((bytesLE x n).mapIdx fun i b => (o + i, b)) ++ packBytes n (o + n) r

/-- The bytes that storing elements from index `first` on changes (R160): only the written elements' own. -/
def storeElems (m : Memory) (a c first : Nat) (xs : List Nat) : List (Nat × Byte) :=
  if c = 8 then
    if first % 2 = 1 then
      match xs with
      | [] => []
      | x :: r => (first / 2, BitVec.ofNat 8 ((m.get (a + first / 2)).toNat % 16 + x % 16 * 16)) ::
          packNibbles m a (first / 2 + 1) r
    else packNibbles m a (first / 2) xs
  else packBytes (typeBits c / 8) (first * (typeBits c / 8)) xs

/-- The integer value of element bits (R167). -/
def intOf (c b : Nat) : Int := if typeSigned c then sextNat b (typeBits c) else (b % 2 ^ typeBits c : Nat)

/-- An integer narrowed to a type, wrapping or saturating (R167). -/
def narrow (c : Nat) (sat : Bool) (v : Int) : Nat :=
  let n := typeBits c
  let lo : Int := if typeSigned c then -(2 : Int) ^ (n - 1) else 0
  let hi : Int := if typeSigned c then (2 : Int) ^ (n - 1) - 1 else (2 : Int) ^ n - 1
  let v := if sat then max lo (min v hi) else v
  (v % (2 : Int) ^ n).toNat

/-! ### Causes of the engines (R391) -/

def shapeCause (sub : Nat) (e : Entry) : Cause :=
  { code := 5, sub := sub, args := [e.w0.toNat, e.w1.toNat, e.shape.toNat] }
def formatCause (sub arg : Nat) (e : Entry) : Cause :=
  { code := 4, sub := sub, args := [e.w0.toNat, e.w1.toNat, arg] }

/-! ### The operands of an entry -/

/-- A tile operand of an entry of the acting stream, with its captured count. -/
def State.entryOp (s : State) (top exp : BitVec 16) (mark : Bool) : Operand :=
  { key := s.tileKey s.cur (topTile top), num := topTile top, mode := topMode top, exp := exp, mark := mark }

/-- The odd tile of an even-numbered pair, admitted as its twin is. -/
def Operand.twin (o : Operand) : Operand := { o with key := o.key + 1, num := o.num + 1 }

/-- A tile operand, or both of a pair. -/
def pairOps (o : Operand) (pair : Bool) : List Operand := if pair then [o, o.twin] else [o]

/-- First place of the data of a tile operand of the acting stream. -/
def tileRead (s : State) (top : BitVec 16) : Nat := tilePlace (s.tileKey s.cur (topTile top))

/-- The effective type of a vector entry (R163). -/
def effType (f : FL) (shape : Word) : Nat := if f.sub = 0 then shapeType shape else f.sub.toNat - 1

/-- The bytes that hold `n` elements of a type from `first` on. -/
def elemSpan (c first n : Nat) : Nat × Nat :=
  if c = 8 then (first / 2, (first + n + 1) / 2 - first / 2) else (first * (typeBits c / 8), n * (typeBits c / 8))

end Sys2Proof.Machine
end

