-- ==== Sys2Proof/Machine/Memory.lean ====
section
/-! DEFINITION. Memory: translation (R186 to R190), the right to access (R203 to R205), L1 sectors and combining buffers
(R193 to R198), the rollback log (R404, R405), and the reads and writes of device memory built on them. L2 holds lines of one home only (R194), so device
memory here is what the home L2 serves. -/

namespace Sys2Proof.Machine

/-! ### Bytes of the stores -/

/-- The bytes of a checkpoint area that are the device's own are free (R59, log entry 14). -/
def State.ownByte (s : State) (a : Nat) : Bool := s.own.any fun r => r.1 ≤ a && a < r.1 + r.2

/-- The byte of a store at a place: free in device memory whose keys are erased (R19). -/
def State.byte (s : State) (a : Nat) : Byte :=
  if s.ownByte a || (a < Place.base .spad && !s.dev.memoryKeys) then (Config.freeValue (2 ^ 80 + a)).setWidth 8 else s.mem.get a

def State.bytes (s : State) (a : Nat) : Nat → List Byte
  | 0 => []
  | n + 1 => s.byte a :: s.bytes (a + 1) n

/-- A little-endian number at a place. -/
def State.readLE (s : State) (a n : Nat) : Nat := natLE (s.bytes a n)

/-- The ranges of the device's own bytes that a write to `[a, a+n)` leaves. -/
def cutRange (a n : Nat) (r : Nat × Nat) : List (Nat × Nat) :=
  if a + n ≤ r.1 || r.1 + r.2 ≤ a then [r]
  else (if r.1 < a then [(r.1, a - r.1)] else []) ++ (if a + n < r.1 + r.2 then [(a + n, r.1 + r.2 - (a + n))] else [])

/-- Writes bytes at a place: they are no longer poisoned (R403). -/
def State.putBytes (s : State) (a : Nat) (bs : List Byte) : State :=
  { s with mem := s.mem.write a bs, own := s.own.flatMap (cutRange a bs.length),
           poison := s.poison.filter fun e => !(a ≤ e.1 && e.1 < a + bs.length) }

/-- Marks bytes poisoned. -/
def State.setPoison (s : State) (a : Nat) : Nat → State
  | 0 => s
  | n + 1 => ({ s with poison := tset false s.poison a true }).setPoison (a + 1) n

/-- Any byte of a block is poisoned (R403). -/
def State.poisoned (s : State) (a n : Nat) : Bool := s.poison.any fun e => a ≤ e.1 && e.1 < a + n && e.2

/-- Entries of a die's rollback log: 512 MiB at 272 bytes each (R405). -/
def logEntries : Nat := 2 ^ 29 / 272

/-- The entries of a launch, and of every launch, in a die's log. -/
def Launch.loggedOn (v : Launch) (die : Nat) : Nat := (v.sectorLog.filter fun e => e.1 / Config.dieBytes = die).length
def State.loggedOn (s : State) (die : Nat) : Nat := (s.launches.map fun e => e.2.loggedOn die).sum

/-- A write of a launch to a place of device memory needs an entry of a log that is full: it stalls (R405). -/
def State.logFull (s : State) (l place : Nat) : Bool :=
  match tfind s.launches l with
  | none => false
  | some v => place < Place.base .spad && v.snapshot.isSome && !v.sectorLog.any (fun e => e.1 = place / 256 * 256) &&
      logEntries ≤ s.loggedOn (place / Config.dieBytes)

/-- A launch with rollback logs the old value of a 256-byte sector the first time it writes to it in an interval, with the
offsets of its poisoned bytes (R403, R404). -/
def State.logSector (s : State) (l pa : Nat) : State :=
  match tfind s.launches l with
  | none => s
  | some v =>
    let b := pa / 256 * 256
    if v.snapshot.isSome && !v.sectorLog.any (fun e => e.1 = b) then
      s.setLaunch l { v with sectorLog := (b, s.bytes b 256, (List.range 256).filter fun i => s.poisoned (b + i) 1) :: v.sectorLog }
    else s

/-! ### Translation -/

/-- The bits of an entry that a table entry must hold zero (R187): all but V, PS and PA. -/
def tableBits (w : Nat) : Bool := w / 2 % 64 = 0 && w / 2 ^ 8 % 16 = 0 && w / 2 ^ 52 = 0

/-- A physical address that names usable memory (R188, R194). -/
def usable (pa : Nat) : Bool :=
  pa < Config.dies * Config.dieBytes && pa % Config.dieBytes < Config.dieBytes - Config.reservedBytes

/-- The 16 entries of a 64 KiB page agree, with rising addresses (R187). -/
def State.groupOk (s : State) (table idx : Nat) : Bool :=
  let base := table + idx / 16 * 16 * 8
  let w0 := s.readLE base 8
  (List.range 16).all fun i => s.readLE (base + i * 8) 8 = w0 + i * 4096

/-- A leaf entry at a level (1 to 4) that passes R188, for the 4 KiB page of `va`. -/
def State.leafOf (s : State) (table idx level w va : Nat) : Option Leaf :=
  let ls := if level = 3 then 30 else if level = 2 then 21 else if w / 2 ^ 8 % 2 = 1 then 16 else 12
  let base := w / 2 ^ 12 % 2 ^ 40 * 2 ^ 12
  let host := w / 2 ^ 9 % 2 = 1
  let size := if level = 3 then 2 ^ 30 else if level = 2 then 2 ^ 21 else 4096
  let pa := base + va % size / 4096 * 4096
  if w / 2 ^ 5 % 2 = 1 || w / 2 ^ 10 % 4 != 0 || w / 2 ^ 3 % 4 = 3 || base % size != 0 then none
  else if level != 1 && w / 2 ^ 8 % 2 = 1 then none
  else if level = 1 && w / 2 ^ 8 % 2 = 1 && !(s.groupOk table idx && (base - idx % 16 * 4096) % 2 ^ 16 = 0) then none
  else if host && w / 2 ^ 52 != 0 then none
  else if !host && !(usable base && usable pa) then none
  else some { pa := pa, ls := ls, key := w / 2 ^ 52, host := host, notok := w / 2 ^ 6 % 2 = 1, mt := w / 2 ^ 3 % 4,
              x := w / 4 % 2 = 1, w := w / 2 % 2 = 1 }

/-- A walk from a table at a level (R186, R188); none is a walk that ends in TRANSLATION. -/
def State.walk (s : State) (va : Nat) : Nat → Nat → Option Leaf
  | 0, _ => none
  | level + 1, table =>
    let idx := va / 2 ^ (12 + 9 * level) % 512
    let w := s.readLE (table + idx * 8) 8
    let ps := w / 2 ^ 7 % 2 = 1
    if w % 2 = 0 then none
    else if level = 0 || (ps && level ≤ 2) then s.leafOf table idx (level + 1) w va
    else if ps || !tableBits w || !usable (w / 2 ^ 12 % 2 ^ 40 * 2 ^ 12) then none
    else s.walk va level (w / 2 ^ 12 % 2 ^ 40 * 2 ^ 12)

/-- The TLBs that a requester looks in, one after another (R189): a physical core's, its cluster's and its die's; any other
requester is given as `384 + die` and has the die's alone. -/
def tlbUnits (at_ : Nat) : List Nat := if at_ < 384 then [at_, 384 + at_ / 8, 432 + at_ / 96] else [48 + at_]
/-- A requester without a core: the TLB of die 0 (log entry 72). -/
def farTlb : Nat := 384
/-- Entries of a TLB. -/
def tlbSize (unit : Nat) : Nat := if unit < 384 then 64 else if unit < 432 then 1024 else 16384

/-- Key of a TLB entry. -/
def tlbKey (unit asid va : Nat) : Nat := (unit * 2 ^ 16 + asid) * 2 ^ 36 + va / 4096

/-- The named region that contains a place, with its base. -/
def State.regionAt (s : State) (place : Nat) : Option (Nat × Region) :=
  s.regions.find? fun e => e.1 ≤ place && place < e.1 + 2 ^ e.2.ls

/-- The first address of the page of a size that holds an address. -/
def pageStart (ls va : Nat) : Nat := va / 2 ^ ls * 2 ^ ls

/-- The translation of the first 4 KiB of the page that holds `va`, from that of `va`, and the other way round. -/
def Leaf.first (e : Leaf) (va : Nat) : Leaf := { e with pa := e.pa - (va / 4096 * 4096 - pageStart e.ls va) }
def Leaf.piece (e : Leaf) (va : Nat) : Leaf := { e with pa := e.pa + (va / 4096 * 4096 - pageStart e.ls va) }

/-- The entry of the page of `va` (R189): with the region that covers it wholly, if one does. -/
def State.tlbEntry (s : State) (leaf : Leaf) (va : Nat) : Leaf :=
  let e := leaf.first va
  { e with rights := if e.host then none else match s.regionAt e.pa with
      | some (b, r) => if e.pa + 2 ^ e.ls ≤ b + 2 ^ r.ls then some (b, r) else none
      | none => none }

/-- The entry that a TLB holds for an address, whatever its page's size; a page of memory that cannot be used is walked again
(R188). -/
def State.tlbHit (s : State) (unit asid va : Nat) : Option Leaf :=
  ([12, 16, 21, 30].filterMap fun ls => match tfind s.spaces.tlb (tlbKey unit asid (pageStart ls va)) with
    | some e => if e.ls = ls && (e.host || usable (e.piece va).pa) then some e else none
    | none => none).head?

/-- An entry enters a TLB; a full one drops an entry that a free value names (log entry 72). -/
def State.fillTlb (s : State) (asid va : Nat) (e : Leaf) (unit : Nat) : State :=
  let mine := (s.spaces.tlb.filter fun x => x.1 / 2 ^ 52 = unit).map Prod.fst
  let (drop, s) := if mine.length < tlbSize unit then ([], s)
    else ([mine.getD ((Config.freeValue s.draws).toNat % mine.length) 0], { s with draws := s.draws + 1 })
  { s with spaces := { s.spaces with
      tlb := tput (s.spaces.tlb.filter fun x => !drop.contains x.1) (tlbKey unit asid (pageStart e.ls va)) e } }
def State.fillTlbs (s : State) (asid va : Nat) (e : Leaf) : List Nat → State
  | [] => s
  | u :: us => (s.fillTlb asid va e u).fillTlbs asid va e us

/-- The entry that the first TLB to hold one gives, with the TLBs that missed before it. -/
def State.lookTlb (s : State) (asid va : Nat) : List Nat → List Nat × Option Leaf
  | [] => ([], none)
  | u :: us => match s.tlbHit u asid va with
    | some e => ([], some e)
    | none => let (m, e) := s.lookTlb asid va us; (u :: m, e)

/-- The translation of a 48-bit address for a requester: a TLB entry, stale or not, or a walk; both fill the TLBs that missed
(R189, R190). -/
def State.translate (s : State) (at_ asid va : Nat) : Option (Leaf × State) :=
  match s.lookTlb asid va (tlbUnits at_) with
  | (missed, some e) => some (e.piece va, s.fillTlbs asid va e missed)
  | (missed, none) =>
    match tget none s.spaces.roots asid with
    | none => none
    | some root => (s.walk va 4 root).map fun leaf =>
      let e := s.tlbEntry leaf va
      (e.piece va, s.fillTlbs asid va e missed)

/-- The TLB shootdown of a change to the region at a base (R190): entries that record its rights are gone. -/
def State.shootDown (s : State) (base : Nat) : State :=
  let mine := fun (e : Nat × Leaf) => match e.2.rights with | some (b, _) => b = base | none => false
  if s.spaces.tlb.any mine then { s with spaces := { s.spaces with tlb := s.spaces.tlb.filter fun e => !mine e } }
  else s

/-- The page stands outside the token system (R37, R187, R392). -/
def State.noToken (s : State) (leaf : Leaf) : Bool := leaf.notok || tget 0 s.spaces.notok (leaf.pa / 4096) != 0

/-! ### Regions (R201 to R208) -/

/-- The Factor's default holding (R201). -/
def defaultRegion (ls : Nat) : Region :=
  { ls := ls, state := .excl, holder := Config.factorId, lender := 0, shares := [], dirtyLost := false, lostLender := false,
    super := 0 }

def Hold.code : Hold → Nat
  | .excl => 0 | .shared => 1 | .lent => 2 | .quarantined => 3 | .orphaned => 4

/-- The state word of a region (R208). -/
def stateWord (r : Region) (exact : Bool) : Nat :=
  r.holder * 2 ^ 32 + min r.shares.length 65535 * 2 ^ 16 + r.ls * 32 + (if exact then 16 else 0) +
    (if r.dirtyLost then 8 else 0) + r.state.code

/-- The largest block of the default holding that contains a place and no named region, within a die's usable range
(R225, R230). -/
def State.defaultLs (s : State) (place : Nat) : Nat → Nat
  | 0 => 12
  | n + 1 =>
    let ls := n + 12
    let base := place / 2 ^ ls * 2 ^ ls
    if ls ≤ 37 && usable base && usable (base + 2 ^ ls - 1) && base / Config.dieBytes = (base + 2 ^ ls - 1) / Config.dieBytes
        && !s.regions.any (fun e => e.1 < base + 2 ^ ls && base < e.1 + 2 ^ e.2.ls) then ls
    else s.defaultLs place n

/-- The state word at a place, as faults and OQUERY report it; `exact` compares a queried size. -/
def State.wordAt (s : State) (place ls : Nat) : Nat :=
  match s.regionAt place with
  | some (b, r) => stateWord r (b = place && r.ls = ls)
  | none => let n := s.defaultLs place 26; stateWord (defaultRegion n) (n = ls && place % 2 ^ n = 0)

/-- The launch number of an identifier of kind 0, 1 or 2, and its kind. -/
def idKind (id : Nat) : Nat := id / 2 ^ 28
def idLaunch (id : Nat) : Nat := id / 2 ^ 14 % 2 ^ 14
def idStream (id : Nat) : Nat := idLaunch id * 4096 + id / 4 % 4096

/-- What an access is allowed (R204, R205). -/
inductive Right where
  | ok
  | deny (code : Nat)
  /-- The watermark rule, against channel `c` of stream `k`. -/
  | watermark (k c : Nat)
  deriving DecidableEq, Repr

/-- The right of an access that acts for `ids` to a region (R204). `launch` is the launch it acts for, if any. -/
def Region.right (r : Region) (ids : List Nat) (launch : Option Nat) (store : Bool) : Right :=
  match r.state with
  | .excl => if ids.contains r.holder then .ok else .deny (if store then 9 else 8)
  | .shared =>
    let mine := ids.contains r.holder || ids.any r.shares.contains
    if store then .deny (if mine then 10 else 9) else if mine then .ok else .deny 8
  | .lent =>
    if ids.contains r.holder then .ok
    else if store then .deny 9
    else if idKind r.holder = 2 && launch.isSome && (idKind r.lender = 0 || idKind r.lender = 1 || idKind r.lender = 2) &&
        some (idLaunch r.lender) = launch then .watermark (idStream r.holder) (r.holder % 4)
    else .deny 8
  | .quarantined => .deny 18
  | .orphaned => .deny (if store then 9 else 8)

/-- The right at a byte of a store in the token system: as the TLB entry of its page records it, else as the directory says
(R189). -/
def State.rightAt (s : State) (place : Nat) (leaf : Option Leaf) (ids : List Nat) (launch : Option Nat) (store : Bool) : Right :=
  match leaf with
  | some { rights := some (_, r), .. } => r.right ids launch store
  | _ => match s.regionAt place with
    | some (_, r) => r.right ids launch store
    | none => (defaultRegion 12).right ids launch store

/-! ### Causes of accesses (R391) -/

/-- Address, and the kind of access: bit 0 store, bit 1 fetch, [6:4] the space as DSPACE. -/
def accessCause (code : Nat) (addr space : Nat) (store fetch : Bool) : Cause :=
  { code := code, args := [addr, (if store then 1 else 0) + (if fetch then 2 else 0) + space * 16] }
/-- Address and state word. -/
def State.ownCause (s : State) (code addr place : Nat) : Cause := { code := code, args := [addr, s.wordAt place 0] }

/-! ### L1 sectors (R195 to R198) -/

def l1Key (phys pa : Nat) : Nat := phys * 2 ^ 32 + pa / 256

def Sector.byte (t : Sector) (o : Nat) : Byte := t.data.extractLsb' (8 * o) 8
def putByte {n : Nat} (d : BitVec n) (o : Nat) (b : Byte) : BitVec n :=
  (d &&& ~~~((255 : BitVec n) <<< (8 * o))) ||| (b.setWidth n <<< (8 * o))
def putSector (d : BitVec 2048) (o : Nat) : List Byte → BitVec 2048
  | [] => d
  | b :: bs => putSector (putByte d o b) (o + 1) bs
def markBits {n : Nat} (m : BitVec n) (o k : Nat) : BitVec n := m ||| ((BitVec.ofNat n (2 ^ k - 1)) <<< o)

/-- Writes the marked bytes of a block back to a place. -/
def State.writeMarked (s : State) (a : Nat) (mask : Nat → Bool) (byte : Nat → Byte) : Nat → State
  | 0 => s
  | n + 1 =>
    let s := s.writeMarked a mask byte n
    if mask n then s.putBytes (a + n) [byte n] else s

/-- Marks poisoned the bytes of a block that a mask names. -/
def State.poisonMarked (s : State) (a : Nat) (mask : Nat → Bool) : Nat → State
  | 0 => s
  | n + 1 =>
    let s := s.poisonMarked a mask n
    if mask n then s.setPoison (a + n) 1 else s

/-- Writes back a sector: the marked bytes go to the home L2, their poison with them; the sector stays valid and clean
(R195, R197, R403). -/
def State.writeBack (s : State) (key : Nat) : State :=
  match tfind s.l1 key with
  | none => s
  | some t =>
    if t.dirty = 0 then s
    else
      let s := s.writeMarked (key % 2 ^ 32 * 256) (fun i => t.dirty.getLsbD i) t.byte 256
      let s := if t.poison &&& t.dirty = 0 then s
        else s.poisonMarked (key % 2 ^ 32 * 256) (fun i => t.dirty.getLsbD i && t.poison.getLsbD i) 256
      { s with l1 := tput s.l1 key { t with dirty := 0, dcls := 0, after := 0 } }

/-- Invalidates a sector, without write-back. -/
def State.dropSector (s : State) (key : Nat) : State := { s with l1 := tdel s.l1 key }

/-- Writes back every listed sector; writes back and drops every listed sector. -/
def State.writeBackAll (s : State) : List Nat → State
  | [] => s
  | k :: ks => (s.writeBack k).writeBackAll ks
def State.purgeAll (s : State) : List Nat → State
  | [] => s
  | k :: ks => ((s.writeBack k).dropSector k).purgeAll ks
def State.dropAll (s : State) : List Nat → State
  | [] => s
  | k :: ks => (s.dropSector k).dropAll ks

/-- The sectors of a core's L1. -/
def State.sectorsOf (s : State) (phys : Nat) : List (Nat × Sector) := s.l1.filter fun e => e.1 / 2 ^ 32 = phys

/-- A sector with dirty bytes. -/
def State.isDirty (s : State) (key : Nat) : Bool := match tfind s.l1 key with | some t => t.dirty != 0 | none => false

/-! ### Combining buffers (R193) -/

/-- Sends a combining buffer to the home L2. -/
def State.combine (s : State) (key : Nat) : State :=
  match tfind s.wc key with
  | none => s
  | some c =>
    let s := s.writeMarked (c.unit * 64) (fun i => c.mask.getLsbD i) (fun i => c.data.extractLsb' (8 * i) 8) 64
    { s with wc := tdel s.wc key }
def State.combineAll (s : State) : List Nat → State
  | [] => s
  | k :: ks => (s.combine k).combineAll ks
/-- The combining buffers of a core: all, or those of one unit but the named class. -/
def State.buffersOf (s : State) (phys : Nat) : List Nat := (s.wc.filter fun e => e.1 / 16 = phys).map Prod.fst
def State.buffersAt (s : State) (phys pa : Nat) : List Nat :=
  (s.wc.filter fun e => e.1 / 16 = phys && e.2.unit = pa / 64).map Prod.fst

/-! ### What is ordered after dirty bytes (R326 to R335, log entry 69) -/

/-- Bits of `Sector.after`: a class on path 0, count events, full fences (R335), every engine's path. -/
def classBit (cls : BitVec 4) : BitVec 128 := 1#128 <<< (cls.toNat * 8)
def countBit : BitVec 128 := 64
def fullBit : BitVec 128 := 128
def pathBits : BitVec 128 := 62

/-- `names` may be ordered after the dirty bytes of those sectors of a core's L1 that a test selects. -/
def State.orderAfter (s : State) (phys : Nat) (p : Nat → Sector → Bool) (names : BitVec 128) : State :=
  let mine := fun (e : Nat × Sector) => e.1 / 2 ^ 32 = phys && e.2.dirty != 0 && p e.1 e.2
  if s.l1.any mine then
    { s with l1 := s.l1.map fun e => if mine e then (e.1, { e.2 with after := e.2.after ||| names }) else e }
  else s

/-- Something but an engine's access may be ordered after a sector's dirty bytes. -/
def Sector.followed (t : Sector) : Bool := t.after &&& ~~~pathBits != 0

/-- An access of a class to the bytes at `pa` performs on a core: it follows the dirty bytes that it touches (R326), a load those of
its class, and any access may depend on a load that follows others (R327). -/
def State.noteUse (s : State) (phys pa : Nat) (cls : BitVec 4) (load : Bool) : State :=
  s.orderAfter phys (fun key t => t.followed || key % 2 ^ 32 = pa / 256 || (load && t.dcls &&& classBit cls != 0)) (classBit cls)

/-- What a stream does next on engines' paths may be ordered after the dirty bytes of its core's L1 that a test selects. -/
def State.enginesAfter (s : State) (phys : Nat) (p : Sector → Bool) : State := s.orderAfter phys (fun _ t => p t) pathBits

/-- An engine's read on a path, at the home L2: what combines there is sent, and dirty bytes of its core's L1 that it is ordered
after leave L1 first, as R193 lets both go at any time, so that the read sees them (R329, R332). -/
def State.engineSees (s : State) (phys path pa : Nat) : State :=
  let s := s.combineAll (s.buffersAt phys pa)
  match tfind s.l1 (l1Key phys pa) with
  | some t => if t.dirty != 0 && t.after.getLsbD path then (s.writeBack (l1Key phys pa)).dropSector (l1Key phys pa) else s
  | none => s

/-- The write-back of a release at a scope (R197); `names` restricts a FENCE to the classes and paths it names. -/
def State.release (s : State) (phys : Nat) (scope : BitVec 3) (names : BitVec 128) : State :=
  let s := s.combineAll (s.buffersOf phys)
  s.writeBackAll (((s.sectorsOf phys).filter fun e =>
    e.2.dirty != 0 && e.2.scope < scope && e.2.dcls &&& names != 0).map Prod.fst)

/-- Dirty bytes that are ordered before what a release point names leave L1, as R193 lets a sector go at any time: R329 asks that
an acquirer on another core sees them (log entry 69). -/
def State.letGo (s : State) (phys : Nat) (scope : BitVec 3) (names : BitVec 128) : State :=
  if scope < 2 then s
  else s.purgeAll (((s.sectorsOf phys).filter fun e => e.2.dirty != 0 && e.2.after &&& names != 0).map Prod.fst)

/-- The invalidation of an acquire at CLUSTER or wider (R198). -/
def State.acquire (s : State) (phys : Nat) (scope : BitVec 3) : State :=
  if 2 ≤ scope.toNat then s.purgeAll (((s.sectorsOf phys).filter fun e => !e.2.priv).map Prod.fst) else s

/-- The cores that a holder's copies can lie on (R210): a stream's or channel's core, a launch's cores, none for others. -/
def State.location (s : State) (id : Nat) : List Nat :=
  let l := s.launchOf (idLaunch id)
  if idKind id = 0 || idKind id = 2 then ((l.cores[l.m.coreIndex (id / 4 % 4096)]?).toList).map CorePlace.phys
  else if idKind id = 1 then l.cores.map CorePlace.phys
  else []

/-- PRIV at fill (R196). -/
def State.privAt (s : State) (phys place : Nat) (leaf : Leaf) : Bool :=
  if s.noToken leaf then false
  else match s.regionAt place with
    | none => false
    | some (_, r) => r.state = .shared || ((r.state = .excl || r.state = .lent) && s.location r.holder = [phys])

/-! ### Device memory through L1 (R193) -/

/-- The bytes that a load at `pa` sees from a core: its valid sector, else the home L2. -/
def State.l1Bytes (s : State) (phys pa n : Nat) : List Byte :=
  match tfind s.l1 (l1Key phys pa) with
  | some t => (List.range n).map fun i => t.byte (pa % 256 + i)
  | none => s.bytes pa n

/-- Any byte that a load at `pa` would see is poisoned. -/
def State.l1Poisoned (s : State) (phys pa n : Nat) : Bool :=
  match tfind s.l1 (l1Key phys pa) with
  | some t => (List.range n).any fun i => t.poison.getLsbD (pa % 256 + i)
  | none => s.poisoned pa n

/-- Lines of an L1: 256 KiB in lines of 1,024 bytes, each of four sectors (R1, R195). -/
def l1Lines : Nat := 256

/-- The line of a sector, and the lines of a core's L1 that hold a valid sector. -/
def lineOf (key : Nat) : Nat := key / 4
def State.linesOf (s : State) (phys : Nat) : List Nat := ((s.sectorsOf phys).map fun e => lineOf e.1).eraseDups
/-- The sectors of a line, and its mark. -/
def State.lineSectors (s : State) (line : Nat) : List Nat := (s.l1.filter fun e => lineOf e.1 = line).map Prod.fst
def State.lineMark (s : State) (line : Nat) : BitVec 2 :=
  match s.l1.find? fun e => lineOf e.1 = line with | some e => e.2.evict | none => 0

/-- CP leaves its mark on the line of a sector (R193). -/
def State.markLine (s : State) (key : Nat) (cp : BitVec 2) : State :=
  if cp = 0 then s
  else { s with l1 := s.l1.map fun e => if lineOf e.1 = lineOf key then (e.1, { e.2 with evict := cp }) else e }

/-- A full L1 lets a line go to make room for another, its dirty bytes written back first: one marked next to evict before one
without a mark, and that before one marked last to evict; a free value names it among these (R193, log entry 73). -/
def State.makeRoom (s : State) (phys line : Nat) : State :=
  let mine := s.linesOf phys
  if mine.contains line || mine.length < l1Lines then s
  else
    let of := fun (m : BitVec 2) => mine.filter fun n => s.lineMark n = m
    let ks := if of 1 != [] then of 1 else if of 0 != [] then of 0 else of 2
    let victim := ks.getD ((Config.freeValue s.draws).toNat % ks.length) 0
    let s : State := { s with draws := s.draws + 1 }
    s.purgeAll (s.lineSectors victim)

/-- Fills a sector from the home L2, or finds it there; CP leaves its mark (R193). -/
def State.fill (s : State) (phys pa : Nat) (leaf : Leaf) (cp : BitVec 2) : State :=
  let key := l1Key phys pa
  match tfind s.l1 key with
  | some _ => s.markLine key cp
  | none =>
    let s := s.makeRoom phys (lineOf key)
    let b := pa / 256 * 256
    let bad := (List.range 256).foldl (fun a i => if s.poisoned (b + i) 1 then markBits a i 1 else a) (0 : BitVec 256)
    let t : Sector := { data := putSector 0 0 (s.bytes b 256), dirty := 0, scope := 0, dcls := 0,
                        priv := s.privAt phys pa leaf, poison := bad, evict := s.lineMark (lineOf key), after := 0 }
    ({ s with l1 := tput s.l1 key t }).markLine key cp

/-- A load of device memory after its checks: the bytes, and the state in which L1 may have been filled (R193). A read that
the watermark rule governs is served from the home L2 only (R344). A load through a WC or UC page sees the core's own dirty
bytes at home (R326). -/
def State.loadHbm (s : State) (phys pa n : Nat) (leaf : Leaf) (cp : BitVec 2) (homeOnly : Bool) : List Byte × State :=
  let s := s.combineAll (s.buffersAt phys pa)
  if homeOnly then (s.bytes pa n, s)
  else if leaf.mt != 0 then let s := s.writeBack (l1Key phys pa); (s.bytes pa n, s)
  else if cp = 3 then (s.l1Bytes phys pa n, s)
  else let s := s.fill phys pa leaf cp; (s.l1Bytes phys pa n, s)

/-- A store to a WB page that finds its sector (R195). -/
def Sector.store (t : Sector) (o : Nat) (bs : List Byte) (scope : BitVec 3) (cls : BitVec 4) : Sector :=
  let t := { t with data := putSector t.data o bs, poison := t.poison &&& ~~~(markBits 0 o bs.length) }
  if scope.toNat < 2 then
    { t with dirty := markBits t.dirty o bs.length,
             scope := if t.dirty = 0 || scope < t.scope then scope else t.scope,
             dcls := t.dcls ||| (1#128 <<< (cls.toNat * 8)) }
  else { t with scope := if t.dirty = 0 then scope else t.scope }

/-- A sector's dirty bytes must reach the home before a store of a class to bytes of it does: stores of the class, or to those
bytes, made them, or the class is ordered after them (R326, R341). -/
def Sector.precedes (t : Sector) (o n : Nat) (cls : BitVec 4) : Bool :=
  t.dirty &&& markBits 0 o n != 0 || (t.dcls ||| t.after) &&& classBit cls != 0

/-- A store to device memory after its checks, by a launch's stream on a core (R193, R195). -/
def State.storeHbm (s : State) (l phys pa : Nat) (bs : List Byte) (leaf : Leaf) (cp : BitVec 2) (scope : BitVec 3)
    (cls : BitVec 4) : State :=
  let s := s.logSector l pa
  let key := l1Key phys pa
  if leaf.mt = 1 then
    let wkey := phys * 16 + cls.toNat
    let s := (s.writeBack key).dropSector key
    let s := s.combineAll ((s.buffersAt phys pa).filter (· != wkey))
    let s := match tfind s.wc wkey with
      | some c => if c.unit = pa / 64 then s else s.combine wkey
      | none => s
    let c := (tfind s.wc wkey).getD { unit := pa / 64, mask := 0, data := 0 }
    let data := (bs.foldl (fun (a : BitVec 512 × Nat) b => (putByte a.1 a.2 b, a.2 + 1)) (c.data, pa % 64)).1
    let c := { c with mask := markBits c.mask (pa % 64) bs.length, data := data }
    let s := { s with wc := tput s.wc wkey c }
    if c.mask = BitVec.allOnes 64 then s.combine wkey else s
  else
    let s := s.combineAll (s.buffersAt phys pa)
    if leaf.mt = 2 || cp = 3 then ((s.writeBack key).putBytes pa bs).dropSector key
    else match tfind s.l1 key with
      | none => s.putBytes pa bs
      | some t =>
        let s := if 2 ≤ scope.toNat && t.precedes (pa % 256) bs.length cls then s.writeBack key else s
        let t := (tfind s.l1 key).getD t
        let s := ({ s with l1 := tput s.l1 key (t.store (pa % 256) bs scope cls) }).markLine key cp
        if scope.toNat < 2 then s else s.putBytes pa bs

/-- A store at the home L2 by an engine of a core: it invalidates the sector it touches in the core's own L1, whose dirty
bytes are written back first (R254). -/
def State.storeHome (s : State) (l : Option Nat) (phys : Option Nat) (pa : Nat) (bs : List Byte) : State :=
  let s := match l with | some l => s.logSector l pa | none => s
  let s := match phys with
    | some p => ((s.combineAll (s.buffersAt p pa)).writeBack (l1Key p pa)).dropSector (l1Key p pa)
    | none => s
  s.putBytes pa bs

end Sys2Proof.Machine
end

