-- ==== Sys2Proof/Machine/Access.lean ====
section
/-! DEFINITION. Where an access goes and what checks it passes (R183, R184, R188, R191, R204, R216 to R218), page service
(R398), and the waybill (R417 to R419). -/

namespace Sys2Proof.Machine

/-! ### Keys of the launch's own stores (R183, R185) -/

def State.spadPlace (s : State) (k off : Nat) : Nat := Place.base .spad + s.coreKeyOf k * 2 ^ 20 + off
def State.seraiPlace (s : State) (k off : Nat) : Nat :=
  Place.base .serai + (k / 4096 * 64 + (s.launchOf (k / 4096)).m.clusterRank (k % 4096)) * 2 ^ 22 + off
def depotPlace (l rank off : Nat) : Nat := Place.base .depot + (l * 4 + rank) * 2 ^ 26 + off
def peerPlace (dev va : Nat) : Nat := Place.base .peer + dev * 2 ^ 52 + va
def hostPlace (a : Nat) : Nat := Place.base .host + a

/-- Who accesses: the stream, for the launch whose stores and translation it uses and for its core and cluster; the identities
of R203; whether it looks in the TLB of a die alone, as a party without a core does (log entry 72); the places whose checks a
load has passed that waits for a watermark (R205, R218). -/
structure Who where
  k : Nat
  ids : List Nat
  far : Bool := false
  passed : List Nat := []
  deriving DecidableEq, Repr

def seqWho (k : Nat) : Who := { k := k, ids := [streamId k, launchId (k / 4096)] }
/-- The acting stream, for a load that its instruction makes as a part of it. -/
def State.partWho (s : State) : Who := { seqWho s.cur with passed := s.st.passed }
def channelWho (k c : Nat) : Who := { k := k, ids := [channelId k c, launchId (k / 4096)] }
/-- The distributor acting for a launch (R418). -/
def launchWho (l : Nat) : Who := { k := l * 4096, ids := [launchId l], far := true }
/-- The requester whose TLBs an access looks in (`tlbUnits`). -/
def State.tlbOf (s : State) (w : Who) : Nat := if w.far then farTlb else s.physOf w.k

/-- A peer is reached: it is not lost, and a port that is up leads to it (R381, R386). -/
def State.routed (s : State) (dev : Nat) : Bool :=
  !tget false s.peersLost dev && s.ports.any fun e => e.2.up && e.2.routes.contains dev

/-- Where an access goes. -/
inductive Spot where
  /-- A check fails. -/
  | cause (c : Cause)
  /-- The walk ended in TRANSLATION: a page service request (R398). -/
  | page (asid va : Nat)
  /-- It completes as a remote error (R223). -/
  | remote
  /-- It may perform at a place; `wm` holds the channel whose watermark a load must pass (R205). -/
  | ok (place : Nat) (leaf : Option Leaf) (wm : Option (Nat × Nat))
  deriving DecidableEq, Repr

/-- A queue page is reached only by a class that SUBMIT enables: bit 0 local cores, 1 host, 2 peers (R37). -/
def State.queuePageOk (s : State) (leaf : Leaf) (cls : Nat) : Bool :=
  let c := tget 0 s.spaces.notok (leaf.pa / 4096)
  if c = 0 || 4096 < c then true
  else match tfind s.queues (c - 1) with
    | some q => q.submit.getLsbD cls
    | none => true

/-- The queue whose WIDX word an access touches (R38). -/
def State.widxAt (s : State) (place n : Nat) : Option Nat :=
  (s.queues.find? fun e => e.2.widxPa < place + n && place < e.2.widxPa + 8).map Prod.fst

/-- A refused write to WIDX raises the queue's counter (R38). -/
def State.refuseWidx (s : State) (q : Nat) : State :=
  { s with dev := { s.dev with refusedWidx := tput s.dev.refusedWidx q (tget 0 s.dev.refusedWidx q + 1) } }

/-- An access that its class may not make: one that would write WIDX raises the queue's counter (R38). -/
def State.refuseAt (s : State) (place n : Nat) (store : Bool) : State :=
  match (if store then s.widxAt place n else none) with | some q => s.refuseWidx q | none => s

/-- The token check of an access to a place (R204) for the identities of R203 and the launch it acts for: loads before
stores. A load that has passed it once, and waited for a watermark, is not checked again: it completes against the region as it
stands (R205). -/
def State.tokenSpot (s : State) (ids : List Nat) (launch : Option Nat) (place addr : Nat) (load store : Bool)
    (leaf : Option Leaf) (passed : List Nat := []) : Spot :=
  match (if load then s.rightAt place leaf ids launch false else .ok), (if store then s.rightAt place leaf ids launch true else .ok) with
  | .deny c, _ => if !store && passed.contains place then .ok place leaf none else .cause (s.ownCause c addr place)
  | _, .deny c => .cause (s.ownCause c addr place)
  | .watermark k c, _ => .ok place leaf (some (k, c))
  | _, _ => .ok place leaf none

/-- The checks of an access of `n` bytes to device or host memory (`sp` 0 or 5) through an ASID, by the requester `at_`. -/
def State.locatePaged (s : State) (at_ asid : Nat) (ids : List Nat) (launch : Option Nat) (sp a n : Nat) (load store : Bool)
    (passed : List Nat) : Spot × State :=
  if 2 ^ 48 ≤ a then (.cause (accessCause 12 a sp store false), s)
  else
    match s.translate at_ asid a with
    | none => (.page asid a, s)
    | some (leaf, s) =>
      if (store && !leaf.w) || leaf.host != (sp = 5) then (.cause (accessCause 13 a sp store false), s)
      else if sp = 5 then
        (if s.hostUp && !s.hostContained then .ok (hostPlace (leaf.pa + a % 4096)) (some leaf) none else .remote, s)
      else if s.noToken leaf then
        (if s.queuePageOk leaf 0 then (.ok (leaf.pa + a % 4096) (some leaf) none, s)
         else (.cause (accessCause 13 a sp store false), s.refuseAt (leaf.pa + a % 4096) n store))
      else (s.tokenSpot ids launch (leaf.pa + a % 4096) a load store (some leaf) passed, s)

/-- The checks of an access of `n` bytes at `a` in a space coded as DSPACE (0 M, 1 S, 2 C, 3 D, 4 X, 5 H), after its alignment
(R218). The bytes lie in one page and one region. -/
def State.locate (s : State) (w : Who) (sp a n : Nat) (load store : Bool) : Spot × State :=
  let l := s.launchOf (w.k / 4096)
  let launch := if w.ids.contains (launchId (w.k / 4096)) then some (w.k / 4096) else none
  let bounds : Spot := .cause (accessCause 14 a sp store false)
  if sp = 1 then
    (if a < 2 ^ 20 && a + n ≤ l.m.spad then s.tokenSpot w.ids launch (s.spadPlace w.k a) a load store none w.passed else bounds, s)
  else if sp = 2 then
    (if a < 2 ^ 22 && a + n ≤ l.m.serai then s.tokenSpot w.ids launch (s.seraiPlace w.k a) a load store none w.passed else bounds, s)
  else if sp = 3 then
    let r := a / 2 ^ 26
    (if a < 2 ^ 28 && r < l.dies.length && a % 2 ^ 26 + n ≤ l.m.depot then
      s.tokenSpot w.ids launch (depotPlace (w.k / 4096) r (a % 2 ^ 26)) a load store none w.passed
     else bounds, s)
  else if sp = 4 then
    let dev := a / 2 ^ 52
    (if a / 2 ^ 48 % 16 != 0 || dev = Config.deviceNumber || !s.routed dev then .remote
     else .ok (peerPlace dev (a % 2 ^ 48)) none none, s)
  else s.locatePaged (s.tlbOf w) l.asid w.ids launch sp a n load store w.passed

/-! ### Page service (R398) -/

/-- Key of a page request. -/
def pageKey (asid va : Nat) : Nat := asid * 2 ^ 36 + va / 4096

/-- A request is open: several requesters of a page share it. -/
def State.requestPage (s : State) (asid va : Nat) : State :=
  let key := pageKey asid va
  match tfind s.pageRequests key with
  | some _ => s
  | none => { s with pageRequests := tput s.pageRequests key s.dev.ns, dev := s.dev.signal 0 key }

/-- A party without a wait of its own asks for a page: none once its request has failed. -/
def State.askPage (s : State) (asid va : Nat) : Option State :=
  let key := pageKey asid va
  if s.failedPages.contains key then none
  else some { s.requestPage asid va with asked := if s.asked.contains key then s.asked else s.asked ++ [key] }

/-- That party takes the failure. -/
def State.takeFailure (s : State) (asid va : Nat) : State := { s with failedPages := s.failedPages.erase (pageKey asid va) }

/-- The acting stream's sequencer waits for a page: the access has not performed. -/
def State.waitPage (s : State) (w : PageWait) : Result :=
  let s := s.requestPage w.asid w.va
  .next (s.setSt { s.st with paging := some w, wait := none })

/-! ### The watermark (R205, R248) -/

/-- The watermark of channel `c` of stream `k` passes a load of `n` bytes at address `a` of a space: MARK, in the load's space,
is past its last byte, and past the whole of its 64-byte units while an entry runs (R205, R344). -/
def State.watermarkPasses (s : State) (k c sp a n : Nat) : Bool :=
  let w := (tget 0 (s.stream k).wm c).toNat
  w / 2 ^ 59 % 8 = sp && a + n ≤ w % 2 ^ 52 && (w / 2 ^ 63 = 0 || (a + n + 63) / 64 * 64 ≤ w % 2 ^ 52)

/-- A load under the watermark rule of channel `c` of stream `k` may be served: it passes, or its region has come home (R205). -/
def State.watermarkOpen (s : State) (k c sp place a n : Nat) : Bool :=
  match s.regionAt place with
  | some (_, r) => !(r.state = .lent && r.holder = channelId k c) || s.watermarkPasses k c sp a n
  | none => true

/-! ### The waybill (R417 to R419) -/

/-- POLICY.REPLAY: 0 off, 1 record, 2 replay (R25). -/
def Manifest.replay (m : Manifest) : Nat := m.policy / 16 % 4

/-- Why an access to the waybill is not made: a check fails, of which one that keeps a WIDX word unchanged raises the counter of its
queue (R38), or it waits for a page (R398, R418). -/
inductive LogStop where
  | cause (c : Cause) (widx : Option Nat)
  | page (w : PageWait)
  deriving DecidableEq, Repr

/-- Where a word of the waybill lies, for the launch and through its translation (R418). -/
def State.waybillSpot (s : State) (l a : Nat) (store : Bool) : Except LogStop (Nat × State) :=
  match s.locate (launchWho l) 0 a 8 (!store) store with
  | (.ok place _ _, s) =>
    match (if store then s.widxAt place 8 else none) with
    | some q => .error (.cause (accessCause 13 a 0 true false) (some q))
    | none => .ok (place, s)
  | (.page asid va, _) => .error (.page { asid := asid, va := va, space := 0, store := store, fetch := false, f := 0 })
  | (.cause c, _) => .error (.cause c none)
  | (.remote, _) => .error (.cause (accessCause 13 a 0 store false) none)

/-- Writes 8-byte words at rising addresses, each checked; an entry may lie across two pages. -/
def State.waybillWrite (s : State) (l : Nat) : List (Nat × Nat) → Except LogStop State
  | [] => .ok s
  | (a, v) :: r =>
    match s.waybillSpot l a true with
    | .error c => .error c
    | .ok (place, s) => (s.storeHome none none place (bytesLE v 8)).waybillWrite l r

def State.waybillRead (s : State) (l a : Nat) : Except LogStop (Nat × State) :=
  match s.waybillSpot l a false with
  | .error c => .error c
  | .ok (place, s) => .ok (natLE (s.bytes place 8), s)

/-- REPLAY_ORDER with its words (R391). -/
def replayOrder (sub idx kind : Nat) : Cause := { code := 22, sub := sub, args := [idx, kind] }

/-- The kind that a record names where no entry stands at the index: the spec gives none (log entry 11). -/
def unloggedKind (i : Nat) : Nat := (Config.freeValue (2 ^ 81 + i)).toNat

/-- An entry's fields (R417). -/
structure LogEntry where
  kind : Nat
  sub : Nat
  actor : Nat
  addr : Nat
  v0 : Nat
  v1 : Nat
  deriving DecidableEq, Repr

/-- Logs one operation (R417, R418); with recording off nothing is logged. An entry past WBLEN raises subcode 2. -/
def State.record (s : State) (l : Nat) (e : LogEntry) : Except LogStop State :=
  let v := s.launchOf l
  if v.m.replay != 1 then .ok s
  else
    let i := v.waybill
    let a := v.m.waybill + 64 + 32 * i
    if v.m.wblen < 64 + 32 * (i + 1) then .error (.cause (replayOrder 2 i (unloggedKind i)) none)
    else
      match s.waybillWrite l [(a, e.kind + e.sub * 256 + e.actor * 2 ^ 32), (a + 8, e.addr), (a + 16, e.v0), (a + 24, e.v1),
          (v.m.waybill, i + 1)] with
      | .error c => .error c
      | .ok s => .ok (s.setLaunch l { s.launchOf l with waybill := i + 1 })

/-- What replay says of an operation (R419). -/
inductive Replay where
  /-- Not in replay: it performs live. -/
  | live
  /-- Another entry stands at the position: it waits. -/
  | waits (idx : Nat)
  /-- Its turn: the logged values, and the state with the position raised. -/
  | turn (v0 v1 : Nat) (s : State)
  | fails (c : LogStop)
  deriving DecidableEq, Repr

/-- The names of an operation: KIND, ACTOR and ADDR, and for a CLAIM the space of its record (R362). -/
def LogEntry.names (e : LogEntry) (w0 ad : Nat) : Bool := w0 % 256 = e.kind && ad = e.addr && (e.kind != 1 || w0 / 256 % 256 = e.sub)

/-- An operation of a recorded kind in replay (R419): its turn, a wait, or REPLAY_ORDER 1 or 3. -/
def State.replayTurn (s : State) (l : Nat) (e : LogEntry) : Replay :=
  let v := s.launchOf l
  if v.m.replay != 2 then .live
  else if v.replayCount ≤ v.replay then .fails (.cause (replayOrder 3 v.replay (unloggedKind v.replay)) none)
  else
    let a := v.m.waybill + 64 + 32 * v.replay
    match s.waybillRead l a with
    | .error c => .fails c
    | .ok (w0, s) => match s.waybillRead l (a + 8) with
      | .error c => .fails c
      | .ok (ad, s) =>
        if w0 / 2 ^ 32 != e.actor then .waits v.replay
        else if !e.names w0 ad then .fails (.cause (replayOrder 1 v.replay (w0 % 256)) none)
        else match s.waybillRead l (a + 16) with
          | .error c => .fails c
          | .ok (v0, s) => match s.waybillRead l (a + 24) with
            | .error c => .fails c
            | .ok (v1, s) => match s.waybillWrite l [(v.m.waybill + 8, v.replay + 1)] with
              | .error c => .fails c
              | .ok s => .turn v0 v1 (s.setLaunch l { s.launchOf l with replay := v.replay + 1 })

/-- The wait of an actor's operation for its replay turn is over (R113, R419): the position names an entry of its, or none is left,
or the entry cannot be read. -/
def State.turnCame (s : State) (l actor : Nat) : Bool :=
  let v := s.launchOf l
  v.m.replay != 2 || v.replayCount ≤ v.replay ||
    match s.waybillRead l (v.m.waybill + 64 + 32 * v.replay) with
    | .ok (w, _) => w / 2 ^ 32 = actor
    | .error _ => true

/-- A refused write to a WIDX word is counted (R38). -/
def State.countRefusal (s : State) (q : Option Nat) : State := match q with | some q => s.refuseWidx q | none => s

/-- The acting stream's operation is not made: it traps, or waits for the waybill's page. -/
def State.logStop (s : State) : LogStop → Result
  | .cause c q => (s.countRefusal q).trap c
  | .page w => s.waitPage w

/-- The acting stream's operation waits for its replay turn, entry `i`. -/
def State.waitTurn (s : State) (i : Nat) : Result := s.waitAt { since := 0, args := [i], actor := some (streamId s.cur) }

/-- An accepted add on WIDX notifies the distributor (R38, R45). -/
def State.notifyQueue (s : State) (q : Nat) : State :=
  match tfind s.queues q with
  | some w => { s with queues := tput s.queues q { w with notified := true } }
  | none => s

end Sys2Proof.Machine
end

