-- ==== Sys2Proof/Machine/Perform.lean ====
section
/-! DEFINITION. How a load, store or atomic of a sequencer performs once its checks have passed (R193, R219, R326 to R328, R337, R356): the
accesses and fences that it follows, its one event at its place, and the landing of its data. Also the accesses that a token
transfer finds on their way (R210, R213). -/

namespace Sys2Proof.Machine

/-! ### Results -/

/-- The data of a load or atomic lands in XT, and XT+1 for a pair (R219). -/
def Stream.land (t : Stream) (xt : BitVec 6) (n : Nat) (sx : Bool) (v : Nat) : Stream :=
  if n = 16 then (t.xw xt (BitVec.ofNat 64 v)).xw (xt + 1) (BitVec.ofNat 64 (v / 2 ^ 64))
  else t.xw xt (if sx then wordOfInt (sextNat v (8 * n)) else BitVec.ofNat 64 v)

/-- The value of an all-ones answer of `n` bytes: both registers hold all ones (R223). -/
def Stream.landOnes (t : Stream) (xt : BitVec 6) (n : Nat) : Stream :=
  let t := t.xw xt (BitVec.allOnes 64)
  if n = 16 then t.xw (xt + 1) (BitVec.allOnes 64) else t

/-! ### The bytes at a place -/

/-- The bytes at a place, through L1 for device memory (R193). -/
def State.loadAt (s : State) (k place n : Nat) (leaf : Option Leaf) (cp : BitVec 2) (homeOnly : Bool) : List Byte × State :=
  match leaf with
  | some lf => if place < Place.base .spad then s.loadHbm (s.physOf k) place n lf cp homeOnly else (s.bytes place n, s)
  | none => (s.bytes place n, s)

/-- The data that a load would see is poisoned (R403). -/
def State.loadPoisoned (s : State) (k place n : Nat) (homeOnly : Bool) : Bool :=
  if place < Place.base .spad && !homeOnly then s.l1Poisoned (s.physOf k) place n else s.poisoned place n

/-- Stores bytes at a place, through L1 or a combining buffer for device memory. -/
def State.storeAt (s : State) (k place : Nat) (leaf : Option Leaf) (bs : List Byte) (cp : BitVec 2) (scope : BitVec 3)
    (cls : BitVec 4) : State :=
  match leaf with
  | some lf =>
    if place < Place.base .spad then s.storeHbm (k / 4096) (s.physOf k) place bs lf cp scope cls else s.putBytes place bs
  | none => s.putBytes place bs

/-- Stores bytes at each place of a list: one event at every target of a multicast (R222). -/
def State.storeEach (s : State) (k : Nat) (leaf : Option Leaf) (bs : List Byte) (cp : BitVec 2) (scope : BitVec 3)
    (cls : BitVec 4) : List Nat → State
  | [] => s
  | p :: ps => (s.storeAt k p leaf bs cp scope cls).storeEach k leaf bs cp scope cls ps

/-- The new word and the flags of an atomic operation at width `n` bits (R356). -/
def atomicNew (n aop m op cmp : Nat) : Nat × BitVec 6 :=
  let w := 2 ^ n
  let sgn := fun v => sextNat v n
  if aop = 0 then ((m + op) % w, 0)
  else if aop = 1 then (m &&& op, 0)
  else if aop = 2 then (m ||| op, 0)
  else if aop = 3 then (m ^^^ op, 0)
  else if aop = 4 then (if sgn op < sgn m then op else m, 0)
  else if aop = 5 then (if sgn m < sgn op then op else m, 0)
  else if aop = 6 then (min m op, 0)
  else if aop = 7 then (max m op, 0)
  else if aop = 8 then (op, 0)
  else if aop = 9 then (if m = cmp then op else m, 0)
  else if aop = 10 then f32.add 0 (f32.val m) (f32.val op)
  else (if op ≤ m then 0 else (m + 1) % w, 0)

/-- Before an AMM atomic performs, its core writes back and invalidates the sector that holds its bytes (R337). -/
def State.flushWord (s : State) (k place : Nat) : State :=
  if place < Place.base .spad then
    let p := s.physOf k
    let s := s.combineAll (s.buffersAt p place)
    (s.writeBack (l1Key p place)).dropSector (l1Key p place)
  else s

/-- A write at a place of device memory is logged for the launch's rollback (R404). -/
def State.logAt (s : State) (l place : Nat) : State := if place < Place.base .spad then s.logSector l place else s

/-- Reads and writes the word at a place as one event (R328): the old word and the flags. A compare that fails writes
nothing. -/
def State.rmwAt (s : State) (l : Option Nat) (place n aop op cmp : Nat) : Nat × BitVec 6 × State :=
  let m := natLE (s.bytes place n)
  let (v, fl) := atomicNew (8 * n) aop m op cmp
  if aop = 9 && m != cmp then (m, fl, s)
  else
    let s := match l with | some l => s.logAt l place | none => s
    (m, fl, s.putBytes place (bytesLE v n))

/-! ### What an access follows -/

/-- A later access must follow this one: it is of the class, or touches a byte in common (R326). -/
def Access.precedes (a b : Access) : Bool :=
  a.cls = b.cls || a.places.any fun p => b.places.any fun q => p < q + b.n && q < p + a.n

/-- The access numbered `no` must not perform yet: an earlier one that it follows has not, or a fence before it that names it
is outstanding (R326, R331, R347). -/
def Stream.blocked (t : Stream) (no : Nat) (p : Access) : Bool :=
  t.accesses.any (fun e => e.1 < no && e.2.precedes p) ||
    t.fences.any fun f => f.mark ≤ no && f.path.getLsbD 0 && f.cls.getLsbD p.cls.toNat

/-- The watermark rule governs a load still: its region is lent to that channel (R205, R344). -/
def State.lentTo (s : State) (place : Nat) (wm : Option (Nat × Nat)) : Bool :=
  match wm, s.regionAt place with
  | some (h, c), some (_, r) => r.state = .lent && r.holder = channelId h c
  | _, _ => false

/-- Nothing outside its stream holds the access back: a watermark (R205), or a full rollback log (R405). -/
def State.mayPerform (s : State) (k : Nat) (p : Access) : Bool :=
  match p.todo with
  | .load (some (h, c)) => s.watermarkOpen h c p.space (p.places.headD 0) p.addr.toNat p.n
  | .load none => true
  | _ => !p.places.any (s.logFull (k / 4096))

/-! ### Performing -/

/-- The acquire of a load or atomic of stream `k`, and the release of a store or atomic (R197, R198, R220): of its class, what
follows an acquire may follow any dirty byte of the core (R333). -/
def State.acquireAt (s : State) (k : Nat) (cls : BitVec 4) (sem scope : BitVec 3) : State :=
  if sem.getLsbD 0 then (s.acquire (s.physOf k) scope).orderAfter (s.physOf k) (fun _ _ => true) (classBit cls) else s
def State.releaseAt (s : State) (k : Nat) (sem scope : BitVec 3) : State :=
  if sem.getLsbD 1 then s.release (s.physOf k) scope (BitVec.allOnes 128) else s

/-- The length of a chunk (R361). -/
def chunkLen (next w : Nat) : Nat :=
  let fin := w % 2 ^ 40
  let div := w / 2 ^ 40 % 2 ^ 8
  let r := if next < fin then fin - next else 0
  if r = 0 then 0 else min r (max (w / 2 ^ 48) ((r + div - 1) / div))

/-- CSPACE of a claim's space (R359). -/
def claimCode (sp : Nat) : Nat := if sp = 3 then 0 else if sp = 0 then 1 else 2

/-- The waybill entry of a CLAIM or a slot claim of stream `k` (R417), but for its values. -/
def Access.logged (p : Access) (k : Nat) : Option LogEntry :=
  match p.todo with
  | .claim _ _ => some { kind := 1, sub := claimCode p.space, actor := streamId k, addr := p.addr.toNat, v0 := 0, v1 := 0 }
  | .slot _ op => some { kind := 3, sub := 0, actor := streamId k, addr := p.addr.toNat, v0 := 0, v1 := op }
  | _ => none

/-- A CLAIM or slot claim of the stream has not performed. -/
def Stream.logsPending (t : Stream) : Bool := t.accesses.any fun e => (e.2.logged 0).isSome

/-- What the event of an access comes to. -/
inductive Performed where
  /-- The value that it read, its flags, and the state. -/
  | done (v : Nat) (fl : BitVec 6) (s : State)
  /-- It would consume poisoned data at a place (R403). -/
  | poison (place : Nat)
  /-- A CLAIM or slot claim whose replay turn has not come (R419). -/
  | waits (i : Nat)
  /-- A CLAIM or slot claim that is not made: a FORMAT, or what the waybill says. -/
  | stop (c : LogStop)
  deriving DecidableEq, Repr

/-- A logged operation acts, in its replay turn with the values of its entry, or live, logged with `v0` and `v1` (R362, R419). -/
def State.loggedAct (s : State) (l : Nat) (e : LogEntry) (v0 v1 : Nat) (act : Option (Nat × Nat) → State → Performed) : Performed :=
  match s.replayTurn l e with
  | .waits i => .waits i
  | .fails c => .stop c
  | .turn a b s => act (some (a, b)) s
  | .live => match s.record l { e with v0 := v0, v1 := v1 } with
    | .error c => .stop c
    | .ok s => act none s

/-- A chunk `start`, `len` of the record at a place: NEXT is written, unless a live claim finds nothing left; the value is the
start, with the length above it (R361). -/
def State.takeChunk (s : State) (k place start len : Nat) (write : Bool) : Performed :=
  .done (start + len * 2 ^ 64) 0
    (if write then (s.logAt (k / 4096) place).putBytes place (bytesLE (start + len) 8) else s)

/-- An access of at most 8 bytes, or a CLAIM, of stream `k` performs, as one event. -/
def State.performOne (s : State) (k : Nat) (p : Access) : Performed :=
  let place := p.places.headD 0
  let l := k / 4096
  match p.todo with
  | .load wm =>
    let home := s.lentTo place wm
    if s.loadPoisoned k place p.n home then .poison place
    else
      let (bs, s) := s.loadAt k place p.n p.leaf p.cp home
      .done (natLE bs) 0 ((s.acquireAt k p.cls p.sem p.scope).noteUse (s.physOf k) place p.cls true)
  | .store bs =>
    .done 0 0 (((s.releaseAt k p.sem p.scope).storeEach k p.leaf bs p.cp p.scope p.cls p.places).noteUse (s.physOf k) place p.cls false)
  | .atomic aop op cmp =>
    let s := (s.releaseAt k p.sem p.scope).flushWord k place
    if s.poisoned place p.n then .poison place
    else
      let (m, fl, s) := s.rmwAt (some l) place p.n aop op cmp
      .done m fl ((s.acquireAt k p.cls p.sem p.scope).noteUse (s.physOf k) place p.cls true)
  | .slot q op =>
    let s := (s.releaseAt k p.sem p.scope).flushWord k place
    if s.poisoned place p.n then .poison place
    else match p.logged k with
      | none => .poison place
      | some e => s.loggedAct l e (natLE (s.bytes place p.n)) op fun _ s =>
        let (m, _, s) := s.rmwAt (some l) place p.n 0 op 0
        .done m 0 (((s.acquireAt k p.cls p.sem p.scope).noteUse (s.physOf k) place p.cls true).notifyQueue q)
  | .claim _ w0 =>
    let s := (s.releaseAt k p.sem p.scope).flushWord k place
    let next := natLE (s.bytes place 8)
    let w := natLE (s.bytes (place + 8) 8)
    if s.poisoned place 16 then .poison place
    else if w / 2 ^ 48 = 0 || w / 2 ^ 40 % 2 ^ 8 = 0 then .stop (.cause { code := 4, sub := 64, args := [w0.toNat, 0, p.addr.toNat] } none)
    else match p.logged k with
      | none => .poison place
      | some e => s.loggedAct l e next (chunkLen next w) fun turn s =>
        let s := (s.acquireAt k p.cls p.sem p.scope).noteUse (s.physOf k) place p.cls true
        match turn with
        | some (start, len) => s.takeChunk k place start len true
        | none => s.takeChunk k place next (chunkLen next w) (chunkLen next w != 0)

/-- A pair is two events, one for each of its 8-byte halves (R217): `high` tells which. -/
def Access.isPair (p : Access) : Bool := p.n = 16 && (match p.todo with | .load _ => true | .store _ => true | _ => false)
def Access.half (p : Access) (high : Bool) : Access :=
  let o := if high then 8 else 0
  { p with n := 8, addr := p.addr + BitVec.ofNat 64 o, places := p.places.map (· + o), xt := if high then p.xt + 1 else p.xt,
           todo := match p.todo with | .store bs => .store ((bs.drop o).take 8) | x => x }
/-- The half that performs first releases what the pair releases; the other acquires what it acquires. -/
def Access.first (p : Access) (high : Bool) : Access := { p.half high with sem := p.sem &&& 2 }
def Access.rest (p : Access) (high : Bool) : Access := { p.half high with sem := p.sem &&& 1 }

/-- An access of stream `k` performs: the value that it read, its flags, and the state. -/
def State.perform (s : State) (k : Nat) (p : Access) : Performed :=
  if p.isPair then
    match s.performOne k (p.first false) with
    | .done a _ s => match s.performOne k (p.rest true) with
      | .done b _ s => .done (a + b * 2 ^ 64) 0 s
      | x => x
    | x => x
  else s.performOne k p

/-- Its data lands; a store has none, a CLAIM its start and its length. -/
def Stream.landed (t : Stream) (p : Access) (v : Nat) : Stream :=
  match p.todo with
  | .store _ => t
  | .claim xi _ => (t.xw p.xt (BitVec.ofNat 64 v)).xw xi (BitVec.ofNat 64 (v / 2 ^ 64))
  | _ => t.land p.xt p.n p.sx v

/-- The registers in which its data lands. -/
def Access.regs (p : Access) : List (BitVec 6) :=
  match p.todo with
  | .store _ => []
  | .claim xi _ => [p.xt, xi]
  | _ => if p.n = 16 then [p.xt, p.xt + 1] else [p.xt]

/-- An access of stream `k` ends as a remote error: all ones land, or its store is dropped and counted, and REMERR is set
(R223). -/
def State.completeRemote (s : State) (k : Nat) (p : Access) : State :=
  let t := s.stream k
  let t := match p.todo with | .store _ => t | _ => t.landOnes p.xt p.n
  let s := s.setStream k { t with ssr := t.ssr ||| 4 }
  match p.todo with
  | .store _ => { s with dev := { s.dev with droppedStores := s.dev.droppedStores + 1 } }
  | _ => s

/-- The pending access numbered `no` of stream `k` is no longer pending. -/
def State.settleAccess (s : State) (k no : Nat) : State :=
  s.setStream k { s.stream k with accesses := tdel (s.stream k).accesses no }

/-! ### How a pending access ends (R99, R218, R223, R356) -/

/-- Flags of a pending atomic reach SSR, and an enabled one raises ARITH (R99, R356). -/
def State.accessFlags (s : State) (k : Nat) (pc : Word) (fl : BitVec 6) : State :=
  if fl = 0 then s
  else
    let t := s.stream k
    let ssr := setFlags t.ssr fl
    let s := s.setStream k { t with ssr := ssr }
    if tef ssr &&& fl = 0 then s else s.takeTrap k 0 pc t.pc (arith fl ssr)

/-- It stores, as ARG1 of its record says. -/
def Access.stores (p : Access) : Bool := match p.todo with | .load _ => false | _ => true

/-- The pending access `no` of stream `k` ends as a remote error, and traps as REMOTE where TEREM is 1. -/
def State.endRemote (s : State) (k no : Nat) (p : Access) : State :=
  let s := (s.settleAccess k no).completeRemote k p
  let t := s.stream k
  if terem t.ssr then s.takeTrap k 0 p.pc t.pc (accessCause 17 p.addr.toNat p.space p.stores false) else s

/-- A CLAIM or slot claim that is pending is not made (log entry 77): it waits for the waybill's page, or its stream stops. -/
def State.endLogged (s : State) (k no : Nat) (p : Access) : LogStop → State
  | .cause c q => ((s.countRefusal q).settleAccess k no).takeTrap k 0 p.pc (s.stream k).pc c
  | .page w => match s.askPage w.asid w.va with
    | some s => s
    | none => ((s.takeFailure w.asid w.va).settleAccess k no).takeTrap k 0 p.pc (s.stream k).pc (accessCause 12 w.va 0 w.store false)

/-- It has performed: its data lands, and its flags reach SSR. -/
def State.endDone (s : State) (k no : Nat) (p : Access) (v : Nat) (fl : BitVec 6) : State :=
  let s := s.settleAccess k no
  (s.setStream k ((s.stream k).landed p v)).accessFlags k p.pc fl

/-- Performs what it can of the pending accesses of stream `k` that are listed, in order; one that would consume poison stays. -/
def State.landEach (s : State) (k : Nat) : List Nat → State
  | [] => s
  | no :: ns =>
    let s := match tfind (s.stream k).accesses no with
      | none => s
      | some p =>
        if p.failed then s.endRemote k no p
        else if (s.stream k).blocked no p || !s.mayPerform k p then s
        else match s.perform k p with
          | .done v fl s => s.endDone k no p v fl
          | .poison _ => s
          | .waits _ => s
          | .stop c => s.endLogged k no p c
    s.landEach k ns

/-! ### Accesses that a transfer meets (R210, R213) -/

/-- The access lies in a block and passed its checks under the rights that stand; a load that waits for a watermark goes on
waiting (R205). -/
def Access.inBlock (p : Access) (base ls : Nat) : Bool :=
  (match p.todo with | .load (some _) => false | _ => true) && p.places.any fun q => base ≤ q && q < base + 2 ^ ls

/-- Performs the pending accesses to a block, with those that they follow, stream by stream. -/
def State.landBlock (s : State) (base ls : Nat) : List Nat → State
  | [] => s
  | k :: ks =>
    let t := s.stream k
    let last := (t.accesses.filter fun e => e.2.inBlock base ls).foldl (fun a e => max a (e.1 + 1)) 0
    (s.landEach k ((t.accesses.filter fun e => e.1 < last).map Prod.fst)).landBlock base ls ks

/-- Step 1 of a transfer (R210): the accesses to its block that are on their way perform; none, when one of them cannot yet. -/
def State.landFor (s : State) (base ls : Nat) : Option State :=
  let ks := (s.streams.filter fun e => e.2.accesses.any fun a => a.2.inBlock base ls).map Prod.fst
  let s := s.landBlock base ls ks
  if ks.any fun k => (s.stream k).accesses.any fun a => a.2.inBlock base ls then none else some s

end Sys2Proof.Machine
end

