-- ==== Sys2Proof/Machine/Tokens.lean ====
section
/-! DEFINITION. Changes of the token directory: transfers and their cache work (R210), the owner operations (R225 to R232),
grants with their carving (R33, R201), and what happens to a launch's tokens when it ends (R34, R64, R410) or is lost (R211). -/

namespace Sys2Proof.Machine

/-! ### Directories (R206, R207) -/

/-- The granule of the space of a place: 2 KiB for scratchpad and serai, else 4 KiB (R201). -/
def granule (place : Nat) : Nat := if Place.base .spad ≤ place && place < Place.base .depot then 11 else 12

/-- The die that holds a place (R206); of a checkpointed launch, the die that held it (R61, R207). -/
def State.homeDie (s : State) (place : Nat) : Nat :=
  let core := fun (key rank : Nat) =>
    match (s.launchOf key).cores[rank]? with | some c => c.phys / 96 | none => (s.launchOf key).homes.getD rank 0
  if place < Place.base .spad then place / Config.dieBytes
  else if place < Place.base .serai then
    let c := (place - Place.base .spad) / 2 ^ 20
    core (c / 512) (c % 512 / 8 * (s.launchOf (c / 512)).m.ncore + c % 8)
  else if place < Place.base .depot then
    let c := (place - Place.base .serai) / 2 ^ 22
    core (c / 64) (c % 64 * (s.launchOf (c / 64)).m.ncore)
  else
    let c := (place - Place.base .depot) / 2 ^ 26
    (s.launchOf (c / 4)).dies.getD (c % 4) 0

/-- Entries in use in a die's directory. -/
def State.entriesOn (s : State) (die : Nat) : Nat :=
  ((s.regions.filter fun e => s.homeDie e.1 = die).map fun e => 1 + e.2.shares.length).sum

/-- `n` more entries are free in the directory of a place's home. -/
def State.room (s : State) (place n : Nat) : Bool :=
  n = 0 || s.entriesOn (s.homeDie place) + n ≤ Config.directoryEntries

/-! ### Parties (R202, R203, R226) -/

/-- "The caller covers h" for owner instructions: itself, or, acting for a launch, its streams and channels. -/
def covers (ids : List Nat) (h : Nat) : Bool :=
  ids.contains h || ids.any fun a => idKind a = 1 && (idKind h = 0 || idKind h = 2) && idLaunch a = idLaunch h

/-- A reserved kind, or a launch number not in use. R226 names no more; an identifier of a good kind whose identity bits break R202
(bits that kind 1 holds zero, a stream index that the launch lacks) is taken as it stands (DESIGN CHOICE, log entry 85). -/
def State.badId (s : State) (x : Nat) : Bool :=
  idKind x = 4 || 9 ≤ idKind x || (idKind x ≤ 2 && (tfind s.launches (idLaunch x)).isNone)

/-- An identifier of a launch, one of its streams, or one of its channels. -/
def idOf (l id : Nat) : Bool := idKind id ≤ 2 && idLaunch id = l

/-- The supervisor of the launch of an identifier; the Factor's own where there is none. -/
def State.superOf (s : State) (id : Nat) : Nat :=
  if idKind id ≤ 2 then
    match tfind s.launches (idLaunch id) with | some v => v.m.super | none => Config.factorId
  else Config.factorId

/-! ### Transfers (R210) -/

/-- The sectors of a core's L1 that lie in a block of device memory. -/
def State.sectorsIn (s : State) (base ls : Nat) (phys : Nat) : List Nat :=
  ((s.sectorsOf phys).filter fun e =>
    let pa := e.1 % 2 ^ 32 * 256
    base / 2 ^ ls = pa / 2 ^ ls).map Prod.fst

/-- The cache work of a transfer: only device memory passes through L1. The giver's combining buffers are sent (R193). At an
OSHARE the owner keeps its sectors. The scope of a dirty sector is STREAM or CORE, narrower than any common scope of two locations,
so all are written back. Between parties of one core nothing is needed (R210), but what the receiver reads at the home L2 is
ordered after the giver's stores (R344): the region's dirty sectors leave L1 (log entry 84). -/
def State.transfer (s : State) (base ls giver recv : Nat) (keep : Bool) : State :=
  if Place.base .spad ≤ base then s
  else
    let g := s.location giver
    let r := s.location recv
    let s := s.combineAll (g.flatMap s.buffersOf)
    let mine := g.flatMap (s.sectorsIn base ls)
    if g.length = 1 && g = r then s.purgeAll (mine.filter s.isDirty)
    else
      let s := if keep then s.writeBackAll mine else s.purgeAll mine
      s.purgeAll ((r.filter fun c => !(keep && g.contains c)).flatMap (s.sectorsIn base ls))

/-! ### Changes, and their log for rollback (R206, R404, R406) -/

/-- A region changes, and the TLB entries that record its rights are shot down (R190). -/
def State.putRegion (s : State) (place : Nat) (r : Option Region) : State :=
  ({ s with regions := match r with | some r => tput s.regions place r | none => tdel s.regions place }).shootDown place

def State.putRegions (s : State) : List (Nat × Option Region) → State
  | [] => s
  | (p, r) :: rs => (s.putRegion p r).putRegions rs

/-- One step of the directory; a change between parties that all belong to one launch with a rollback checkpoint is
logged. -/
def State.change (s : State) (parties : List Nat) (news : List (Nat × Option Region)) : State :=
  let l := idLaunch (parties.headD 0)
  let s' := match tfind s.launches l with
    | some v =>
      if v.snapshot.isSome && parties.all (idOf l) then
        s.setLaunch l { v with tokenLog := (news.map fun (n : Nat × Option Region) => (n.1, tfind s.regions n.1, n.2)) :: v.tokenLog }
      else s
    | none => s
  s'.putRegions news

/-! ### Owner operations (R209, R228 to R231) -/

/-- A region of exactly that base and size. -/
def State.exact (s : State) (place ls : Nat) : Option Region := (tfind s.regions place).filter fun r => r.ls = ls

/-- The condition "EXCL, no shares". -/
def Region.excl (r : Region) : Option Nat :=
  if r.state = .excl then none else if r.state = .shared then some 4 else some 2

/-- An operation on an existing region: a refusal's subcode, or the state after it and the other party of its waybill
entry. -/
abbrev OwnerOp := State → Nat → Region → Except Nat (State × Nat)

/-- OLEND and OGIVE by a caller acting for `ids`. -/
def lendOrGive (lend : Bool) (ids : List Nat) (x : Nat) : OwnerOp := fun s place r =>
  if s.badId x || x = r.holder then .error 7
  else match r.excl with
    | some c => .error c
    | none =>
      if !covers ids r.holder then .error 3
      else
        let s := s.transfer place r.ls r.holder x false
        let n : Region := if lend then { r with state := .lent, lender := r.holder, holder := x } else { r with holder := x }
        .ok (s.change [r.holder, x] [(place, some n)], x)

/-- A lent region comes home: EXCL to its lender, or ORPHANED when the lender is lost (R211). -/
def State.comeHome (s : State) (place : Nat) (r : Region) : State :=
  let s := s.transfer place r.ls r.holder r.lender false
  let n : Region := { r with state := if r.lostLender then .orphaned else .excl, holder := r.lender, lender := 0, lostLender := false }
  s.change [r.holder, r.lender] [(place, some n)]

/-- ORTRN. -/
def ortrn (ids : List Nat) : OwnerOp := fun s place r =>
  if r.state != .lent then .error 2
  else if !(ids.contains r.holder || (idKind r.holder = 0 && ids.contains (launchId (idLaunch r.holder)))) then .error 3
  else .ok (s.comeHome place r, r.lender)

/-- OSPLIT. -/
def osplit (ids : List Nat) : OwnerOp := fun s place r =>
  if r.ls ≤ granule place then .error 1
  else match r.excl with
    | some c => .error c
    | none =>
      if !covers ids r.holder then .error 3
      else if !s.room place 1 then .error 5
      else
        let h := { r with ls := r.ls - 1 }
        .ok (s.change [r.holder] [(place, some h), (place + 2 ^ (r.ls - 1), some h)], 0)

/-- A block can be one region: aligned, and within one allocation or the usable memory of one die (R201, R225). -/
def State.isBlock (s : State) (place ls : Nat) : Bool :=
  place % 2 ^ ls = 0 && s.homeDie place = s.homeDie (place + 2 ^ ls - 1) &&
    (if place < Place.base .spad then ls ≤ 37 && usable place && usable (place + 2 ^ ls - 1)
     else ls ≤ (if place < Place.base .serai then 20 else if place < Place.base .depot then 22 else 26))

/-- OJOIN, on the two halves. Of one LENT and one SHARED half, R229 refuses with 2 and R228 with 4: the model answers 4 (DESIGN
CHOICE, log entry 86). -/
def ojoin (ids : List Nat) (s : State) (place ls : Nat) : Except Nat (State × Nat) :=
  match s.exact place (ls - 1), s.exact (place + 2 ^ (ls - 1)) (ls - 1) with
  | some a, some b =>
    if ls ≤ granule place || !s.isBlock place ls then .error 1
    else if a.state = .shared || b.state = .shared then .error 4
    else if a.state != .excl || b.state != .excl || a.holder != b.holder then .error 2
    else if !covers ids a.holder then .error 3
    else .ok (s.change [a.holder] [(place, some { a with ls := ls }), (place + 2 ^ (ls - 1), none)], 0)
  | _, _ => .error 1

/-- OSHARE. -/
def oshare (ids : List Nat) (x : Nat) : OwnerOp := fun s place r =>
  if s.badId x then .error 7
  else if r.state != .excl && r.state != .shared then .error 2
  else if !covers ids r.holder then .error 3
  else if 65535 ≤ r.shares.length then .error 6
  else if !s.room place 1 then .error 5
  else
    let s := s.transfer place r.ls r.holder x true
    .ok (s.change [r.holder, x] [(place, some { r with state := .shared, shares := r.shares ++ [x] })], x)

/-- A share of `x` is dropped: its location invalidates the region, and from SHARED at no shares the region is EXCL. -/
def State.dropShare (s : State) (place : Nat) (r : Region) (x : Nat) : State :=
  let s := if Place.base .spad ≤ place then s else s.purgeAll ((s.location x).flatMap (s.sectorsIn place r.ls))
  let sh := r.shares.erase x
  let n := { r with shares := sh, state := if r.state = .shared && sh.isEmpty then .excl else r.state }
  s.change [r.holder, x] [(place, some n)]

/-- ODROP: the caller acts for X itself. -/
def odrop (ids : List Nat) (x : Nat) : OwnerOp := fun s place r =>
  if r.state != .shared && r.state != .quarantined && r.state != .orphaned then .error 2
  else if !ids.contains x then .error 3
  else if !r.shares.contains x then .error 6
  else .ok (s.dropShare place r x, x)

/-- ORECLAIM to a reclaimer, by a caller that acts for it: every L1 invalidates, without write-back (R231). -/
def reclaimTo (who : Nat) : OwnerOp := fun s place r =>
  if r.state != .quarantined && r.state != .orphaned then .error 2
  else
    let s := if Place.base .spad ≤ place then s
      else s.dropAll ((s.l1.filter fun e => e.1 % 2 ^ 32 * 256 / 2 ^ r.ls = place / 2 ^ r.ls).map Prod.fst)
    let n : Region := { r with state := if r.shares.isEmpty then .excl else .shared, holder := who, lender := 0,
                               dirtyLost := false, lostLender := false, super := 0 }
    .ok (s.change [r.holder, who] [(place, some n)], who)
def oreclaim (ids : List Nat) : OwnerOp := fun s place r =>
  if r.state != .quarantined && r.state != .orphaned then .error 2
  else if !ids.contains r.super then .error 3
  else reclaimTo r.super s place r

/-! ### Carving and grants (R33, R201) -/

/-- The regions that lie inside a block. -/
def State.inside (s : State) (place ls : Nat) : Table Region :=
  s.regions.filter fun e => place ≤ e.1 && e.1 < place + 2 ^ ls && e.2.ls ≤ ls

/-- Splits a region of size `2^(ls + n)` down to the block, every part held alike. -/
def splitDown (r : Region) (place ls : Nat) : Nat → List (Nat × Option Region)
  | 0 => [(place, some { r with ls := ls })]
  | n + 1 =>
    let half := 2 ^ (ls + n)
    let base := place / (2 * half) * (2 * half)
    let other := if place / half % 2 = 0 then base + half else base
    (other, some { r with ls := ls + n }) :: splitDown r place ls n

/-- Carves a block that a source holds EXCL into exactly one region; none when the source does not hold it, or when the
directory has no entry free. -/
def State.carve (s : State) (place ls src : Nat) : Option State :=
  let inner := s.inside place ls
  match s.regionAt place with
  | some (_, r) =>
    if ls ≤ r.ls then
      if r.state = .excl && r.holder = src && s.room place (r.ls - ls) then
        some (s.putRegions (splitDown r place ls (r.ls - ls)))
      else none
    else
      if s.isBlock place ls && inner.all (fun e => e.2.state = .excl && e.2.holder = src) &&
          (src = Config.factorId || (inner.map fun e => 2 ^ e.2.ls).sum = 2 ^ ls) then
        some ((s.putRegions (inner.map fun e => (e.1, none))).putRegion place (some { r with ls := ls }))
      else none
  | none =>
    if src = Config.factorId && place < Place.base .spad && s.isBlock place ls &&
        inner.all (fun e => e.2.state = .excl && e.2.holder = src) && (!inner.isEmpty || s.room place 1) then
      some ((s.putRegions (inner.map fun e => (e.1, none))).putRegion place (some (defaultRegion ls)))
    else none

/-- A grant table entry's fields (R32). -/
def grantSpace (w : Nat) : Nat := w / 2 ^ 6 % 8
def grantLs (w : Nat) : Nat := w % 64
def grantLend (w : Nat) : Bool := w / 2 ^ 9 % 2 = 1
def grantee (w : Nat) : Nat := w / 2 ^ 16 % 2 ^ 16
def grantSource (w : Nat) : Nat := w / 2 ^ 32

/-- The place of a grant's base, in an allocation of the grantee's core (stream index 0's for the launch, log entry 15), or
translated. -/
def State.grantPlace (s : State) (l : Nat) (base w : Nat) : Option (Nat × State) :=
  let v := s.launchOf l
  let ls := grantLs w
  let k := l * 4096 + (if grantee w = 0xFFFF then 0 else grantee w)
  if base % 2 ^ ls != 0 then none
  else if grantSpace w = 0 then if base + 2 ^ ls ≤ v.m.spad then some (s.spadPlace k base, s) else none
  else if grantSpace w = 1 then if base + 2 ^ ls ≤ v.m.serai then some (s.seraiPlace k base, s) else none
  else if grantSpace w = 2 then
    let o := base % 2 ^ 26
    if base < 2 ^ 28 && base / 2 ^ 26 < v.dies.length && o + 2 ^ ls ≤ v.m.depot then
      some (depotPlace l (base / 2 ^ 26) o, s) else none
  else if base < 2 ^ 48 then
    match s.translate farTlb v.asid base with
    | some (leaf, s) => if leaf.host || s.noToken leaf || leaf.pa % 2 ^ ls != 0 then none else some (leaf.pa, s)
    | none => none
  else none

/-- Step 1 of the transfers of a grant table (R210): the accesses on their way to its blocks perform; none, when one cannot yet. -/
def State.landGrants (s : State) (l : Nat) : List (Nat × Nat) → Option State
  | [] => some s
  | g :: gs => match s.grantPlace l g.1 g.2 with
    | none => s.landGrants l gs
    | some (place, s) => match s.landFor place (grantLs g.2) with
      | none => none
      | some s => s.landGrants l gs

/-- One grant: the checks of R32 and R33, the carve, the transfer. -/
def State.grant (s : State) (l : Nat) (g : Nat × Nat) : Option State :=
  let v := s.launchOf l
  let w := g.2
  let mem := grantSpace w = 3
  let gran := if grantSpace w < 2 then 11 else 12
  if w / 2 ^ 10 % 64 != 0 || 4 ≤ grantSpace w || grantLs w < gran || 40 < grantLs w then none
  else if !(grantee w = 0xFFFF || grantee w < v.m.streams) then none
  else if (grantSource w = 0xFFFFFFFF) = mem then none
  else
    let src := if mem then grantSource w else launchId l
    let tgt := if grantee w = 0xFFFF then launchId l else streamId (l * 4096 + grantee w)
    match s.grantPlace l g.1 w with
    | none => none
    | some (place, s) => match s.carve place (grantLs w) src with
      | none => none
      | some s =>
        let s := s.transfer place (grantLs w) src tgt false
        match tfind s.regions place with
        | none => none
        | some r => some (s.putRegion place (some
            (if grantLend w then { r with state := .lent, lender := src, holder := tgt } else { r with holder := tgt })))

/-- The grants of a table in index order: the index of the first that fails, and then no token changes. -/
def State.grantsFrom (s : State) (l : Nat) : Nat → List (Nat × Nat) → Except Nat State
  | _, [] => .ok s
  | i, g :: gs => match s.grant l g with
    | none => .error i
    | some s => s.grantsFrom l (i + 1) gs

/-! ### The tokens of an allocation (R54, R225) -/

/-- The fewest aligned blocks of `[0, size)`, from `pos` on, each with its size's logarithm. -/
def blocks (pos size : Nat) : Nat → List (Nat × Nat)
  | 0 => []
  | n + 1 =>
    if size ≤ pos then []
    else
      match ((List.range 41).reverse.filter fun ls => pos % 2 ^ ls = 0 && pos + 2 ^ ls ≤ size).head? with
      | some ls => (pos, ls) :: blocks (pos + 2 ^ ls) size n
      | none => []

/-- An allocation appears as regions EXCL to the launch. -/
def State.allocate (s : State) (l place size : Nat) : State :=
  s.putRegions ((blocks 0 size 64).map fun b => (place + b.1, some { defaultRegion b.2 with holder := launchId l }))

/-- The regions of a block of places are gone. -/
def State.forget (s : State) (place size : Nat) : State :=
  { s with regions := s.regions.filter fun e => !(place ≤ e.1 && e.1 < place + size) }

/-! ### The tokens of a launch that ends (R34, R64, R410) -/

/-- Applies a change to every region that a test selects, as each stands then. -/
def State.eachRegion (s : State) (p : Region → Bool) (f : State → Nat → Region → State) : List Nat → State
  | [] => s
  | k :: ks =>
    let s := match tfind s.regions k with | some r => if p r then f s k r else s | none => s
    s.eachRegion p f ks

def State.overRegions (s : State) (p : Region → Bool) (f : State → Nat → Region → State) : State :=
  s.eachRegion p f (s.regions.map Prod.fst)

/-- Every region that the launch, its streams or its channels have borrowed returns to its lender. -/
def State.homeAll (s : State) (l : Nat) : State :=
  s.overRegions (fun r => r.state = .lent && idOf l r.holder) State.comeHome

/-- Drops every share of the launch in a region. -/
def State.dropSharesAt (s : State) (l place : Nat) : List Nat → State
  | [] => s
  | x :: xs =>
    let s := if idOf l x then match tfind s.regions place with | some r => s.dropShare place r x | none => s else s
    s.dropSharesAt l place xs
/-- Every read share of the launch in another party's region is dropped. -/
def State.dropSharesOf (s : State) (l : Nat) : State :=
  s.overRegions (fun r => !idOf l r.holder) fun s k r => s.dropSharesAt l k r.shares

/-- The lender of what the launch lent out becomes RETURNTO. -/
def State.relend (s : State) (l tgt : Nat) : State :=
  s.overRegions (fun r => r.state = .lent && idOf l r.lender) fun s k r => s.putRegion k (some { r with lender := tgt })

/-- What the launch holds EXCL, or owns SHARED, passes to RETURNTO. -/
def State.passOn (s : State) (l tgt : Nat) : State :=
  s.overRegions (fun r => (r.state = .excl || r.state = .shared) && idOf l r.holder) fun s k r =>
    (s.transfer k r.ls r.holder tgt false).putRegion k (some { r with holder := tgt })

/-! ### Lost parties (R211) -/

/-- The regions of lost holders. With `core`, of streams and channels of a lost core: what they hold or borrow is ORPHANED, and
what they lent out will be; else, of a peer or the host: what is lent to them. Their shares are dropped. -/
def State.orphan (s : State) (core : Bool) (lost : Nat → Bool) (dirty : State → Nat → Region → Bool) : State :=
  let s := s.overRegions (fun r => (if core then r.state != .quarantined && r.state != .orphaned else r.state = .lent) && lost r.holder)
    fun s k r =>
      s.putRegion k (some { r with state := .orphaned, super := s.superOf r.holder, lender := 0,
                                   dirtyLost := r.dirtyLost || dirty s k r })
  let s := s.overRegions (fun r => core && r.state = .lent && lost r.lender) fun s k r =>
    s.putRegion k (some { r with lostLender := true, super := s.superOf r.lender })
  s.overRegions (fun r => r.shares.any lost) fun s k r =>
    let sh := r.shares.filter fun x => !lost x
    s.putRegion k (some { r with shares := sh, state := if r.state = .shared && sh.isEmpty then .excl else r.state })

/-! ### Quarantine (R212, R323) -/

/-- The 4 KiB region that holds a place is quarantined; a larger one is first split down to it, each half keeping owner and
shares, and where the directory has no room for them the whole containing region is. The count of regions quarantined. -/
def State.quarantine (s : State) (place : Nat) : State × Nat :=
  match s.regionAt place with
  | some (b, r) =>
    if r.state = .quarantined then (s, 0)
    else
      let q := fun (r : Region) => { r with state := Hold.quarantined, super := s.superOf r.holder }
      let n := r.ls - 12
      let blk := place / 4096 * 4096
      if n != 0 && s.room place (n * (1 + r.shares.length)) then
        let s := s.putRegions (splitDown r blk 12 n)
        (s.putRegion blk (some (q { r with ls := 12 })), 1)
      else (s.putRegion b (some (q r)), 1)
  | none =>
    let blk := place / 4096 * 4096
    if usable blk && s.room blk 1 then
      (s.putRegion blk (some { defaultRegion 12 with state := .quarantined, super := Config.factorId }), 1)
    else (s, 0)

end Sys2Proof.Machine
end

