-- ==== Sys2Proof/Machine/Launch.lean ====
section
/-! DEFINITION. What happens to a launch as a whole: its completion word (R42), its fault queue (R392, R393), its trace ring
(R412), the end of a collective handle (R379), the rollback (R404, R406), the loss of a core (R211) and the machine check
(R402, R403). -/

namespace Sys2Proof.Machine

/-! ### Writes of the distributor -/

/-- The place of an address of device memory for a party that no token names (log entry 16). -/
def State.distPlace (s : State) (asid va : Nat) : Option (Nat × State) :=
  if 2 ^ 48 ≤ va then none
  else match s.translate farTlb asid va with
    | some (leaf, s) => if leaf.host then none else some (leaf.pa + va % 4096, s)
    | none => none

/-- The host link carries traffic (R384, R386). -/
def State.hostReady (s : State) : Bool := s.hostUp && !s.hostContained

def State.dropStore (s : State) : State := { s with dev := { s.dev with droppedStores := s.dev.droppedStores + 1 } }

/-- A plain write of the device's own; one that would change a WIDX word is refused and counted (R38). -/
def State.putPlain (s : State) (p : Nat) (bs : List Byte) : State :=
  match s.widxAt p bs.length with | some q => s.refuseWidx q | none => s.putBytes p bs

/-- Writes bytes at an address, in device memory or at a host bus address (log entry 16). -/
def State.writeTo (s : State) (asid addr : Nat) (host : Bool) (bs : List Byte) : State :=
  if host then (if s.hostReady then s.putBytes (hostPlace addr) bs else s.dropStore)
  else match s.distPlace asid addr with
    | some (p, s) => s.putPlain p bs
    | none => s

/-- Writes bytes at a completion address; 0 names none. -/
def State.writeOut (s : State) (asid addr : Nat) (host : Bool) (bs : List Byte) : State :=
  if addr = 0 then s else s.writeTo asid addr host bs

/-- Adds 1 to a completion counter. -/
def State.addOne (s : State) (asid addr : Nat) (host : Bool) : State :=
  if addr = 0 then s
  else if host then
    (if s.hostReady then s.putBytes (hostPlace addr) (bytesLE (natLE (s.bytes (hostPlace addr) 8) + 1) 8) else s.dropStore)
  else match s.distPlace asid addr with
    | some (p, s) => s.putPlain p (bytesLE (natLE (s.bytes p 8) + 1) 8)
    | none => s

/-- The completion word (R42). -/
def completionWord (tag status detail : Nat) : Nat := tag % 2 ^ 32 * 2 ^ 32 + detail % 2 ^ 16 * 2 ^ 16 + 256 + status

/-- Something a queue's packet started has completed: it no longer holds back the queue's SIGNALs (R43). Kinds: 0 launch,
1 copy, 2 collective. -/
def State.settlePacket (s : State) (q kind id : Nat) : State :=
  match tfind s.queues q with
  | none => s
  | some w =>
    let keep := fun (e : Nat × Nat) => !(e.1 = kind && e.2 = id)
    let w := { w with outstanding := w.outstanding.filter keep, waiting := w.waiting.map fun x => (x.1, x.2.filter keep) }
    { s with queues := if Config.workQueues ≤ q && w.outstanding.isEmpty && w.waiting.isEmpty then tdel s.queues q else tput s.queues q w }

/-- The completion word and counter of a launch. -/
def State.finishLaunch (s : State) (l status detail : Nat) : State :=
  let v := s.launchOf l
  let s := s.writeOut v.asid v.complAddr v.complHost (bytesLE (completionWord v.tag status detail) 8)
  (s.addOne v.asid v.counterAddr v.counterHost).settlePacket v.queue 0 l

/-! ### The fault queue (R392) -/

/-- A queue's registration has marked the page (R37). -/
def State.queuePage (s : State) (page : Nat) : Bool := 0 < tget 0 s.spaces.notok page && tget 0 s.spaces.notok page ≤ 4096

/-- A page is marked NOTOK, outside the token system; what the L1s hold of it goes home first. -/
def State.markPage (s : State) (page tag : Nat) : State :=
  let s := s.purgeAll ((s.l1.filter fun e => e.1 % 2 ^ 32 / 16 = page).map Prod.fst)
  { s with spaces := { s.spaces with notok := tput s.spaces.notok page tag } }

/-- The first `n` pages of a launch's fault queue are pinned, and marked but where they are a queue's (R37, R392). -/
def State.pinPages (s : State) (l : Nat) : Nat → State
  | 0 => s
  | n + 1 =>
    let s := s.pinPages l n
    let v := s.launchOf l
    match s.distPlace v.asid (v.m.faultq + n * 4096) with
    | none => s
    | some (p, s) =>
      let s := s.setLaunch l { v with pinned := tput v.pinned n (p / 4096) }
      if s.queuePage (p / 4096) then s else s.markPage (p / 4096) (4097 + l)

/-- Pages of a fault queue. -/
def Manifest.faultPages (m : Manifest) : Nat := (2 ^ m.fqlog * 128 + 4095) / 4096

/-- A launch pins a page. -/
def State.pinner (s : State) (page : Nat) : Option Nat :=
  (s.launches.find? fun e => e.2.pinned.any fun x => x.2 = page).map Prod.fst

/-- Marks of pages end: each is back in the token system unless a launch pins it (R392). -/
def State.unmarkPages (s : State) : List Nat → State
  | [] => s
  | page :: r =>
    let marks := match s.pinner page with
      | some l => tput s.spaces.notok page (4097 + l)
      | none => tdel s.spaces.notok page
    { s with spaces := { s.spaces with notok := marks } }.unmarkPages r

/-- The first held record is written once its slot is free, with the records lost before it; the Factor signals the
driver. One whose slot lies on no pinned page is lost. -/
def State.writeRecord (s : State) (l : Nat) : State :=
  let v := s.launchOf l
  match v.held with
  | [] => s
  | r :: rest =>
    let seq := (r.extractLsb' 64 64).toNat
    let off := v.m.faultq % 4096 + (seq - 1) % 2 ^ v.m.fqlog * 128
    match tfind v.pinned (off / 4096) with
    | none => s.setLaunch l { v with held := rest, faultLost := min (v.faultLost + 1) 0xFFFFFFFF }
    | some page =>
      let p := page * 4096 + off % 4096
      if 2 ^ 31 ≤ natLE (s.bytes p 4) then s
      else
        let bs := bytesLE (r.toNat + v.faultLost * 2 ^ 480) 128
        let s := (s.putPlain (p + 4) (bs.drop 4)).putPlain p (bs.take 4)
        let s := { s with dev := s.dev.signal 1 l }
        s.setLaunch l { v with held := rest, faultLost := 0 }

/-- Every record whose turn and slot have come. -/
def State.flushRecords (s : State) (l : Nat) : Nat → State
  | 0 => s
  | n + 1 => (s.writeRecord l).flushRecords l n

/-! ### The trace ring (R412) -/

/-- LOST of a record as it is written: with those before it that found a ring full (R413). -/
def withLost (n : Nat) : List (BitVec 256) → List (BitVec 256)
  | [] => []
  | r :: rs =>
    let old := (r.extractLsb' 128 32).toNat
    (r + BitVec.ofNat 256 ((min (old + n) 0xFFFFFFFF - old) * 2 ^ 128)) :: rs

/-- Writes records at rising places. -/
def State.putRecords (s : State) (p : Nat) : List (BitVec 256) → State
  | [] => s
  | r :: rs => (s.putPlain p (bytesLE r.toNat 32)).putRecords (p + 32) rs

/-- Drains one record of a cluster's buffer, with those that go with it: to the ring of its launch, whole, or dropped and counted
when the ring has no room for it. The ring is never read by the device, so it is full when 2^n records have been written
(log entry 13). -/
def State.drainOne (s : State) (c : Nat) : State :=
  let b := tget TraceBuf.default s.traceBufs c
  match b.recs with
  | [] => s
  | (l, rs) :: rest =>
    let lost := { b with recs := rest, ringLost := min (b.ringLost + rs.length) 0xFFFFFFFF }
    match tfind s.launches l with
    | none => { s with traceBufs := tput s.traceBufs c lost }
    | some v =>
      if v.traceIdx + rs.length ≤ 2 ^ v.traceLog then
        let s := s.putRecords (v.traceBase + v.traceIdx * 32) (withLost b.ringLost rs)
        let s := s.setLaunch l { v with traceIdx := v.traceIdx + rs.length }
        { s with traceBufs := tput s.traceBufs c { b with recs := rest } }
      else { s with traceBufs := tput s.traceBufs c lost }

def State.drainTrace (s : State) (c : Nat) : Nat → State
  | 0 => s
  | n + 1 => (s.drainOne c).drainTrace c n

/-- The physical clusters of a launch. -/
def Launch.clusters (v : Launch) : List Nat := (v.cores.map fun c => c.phys / 8).eraseDups

def State.drainAll (s : State) : List Nat → State
  | [] => s
  | c :: cs => (s.drainTrace c 2048).drainAll cs

/-! ### Collective handles (R379) -/

/-- Every region lent to a port returns to its lender. -/
def State.portReturns (s : State) (h : Nat) : State :=
  s.overRegions (fun r => r.state = .lent && r.holder = portId h) State.comeHome

/-- The entries of a stream that stopped starts belong to complete. -/
def State.endStarts (s : State) : List CollStart → State
  | [] => s
  | c :: cs =>
    let s := match c.stream with
      | some k =>
        let t := s.stream k
        s.setStream k { t with running := t.running.filter fun r => !(r.unit = 3 && r.entry.seq = c.seq) }
      | none => s
    s.endStarts cs

/-- A handle is stopped and unbound: its starts end, its held chunks and counts are discarded, its lent regions return. -/
def State.stopHandle (s : State) (h : Nat) : State :=
  let s := s.endStarts (s.colls.filter fun c => c.handle = h)
  let s := { s with colls := s.colls.filter fun c => c.handle != h }
  let s := s.portReturns h
  { s with handles := tdel s.handles h }

def State.stopHandles (s : State) : List Nat → State
  | [] => s
  | h :: hs => (s.stopHandle h).stopHandles hs

def State.handlesOf (s : State) (l : Nat) : List Nat := (s.handles.filter fun e => e.2.launch = some l).map Prod.fst

/-! ### The end of a launch -/

/-- A place of a launch's scratchpad, serai, Depot or tiles. -/
def ofLaunch (l place : Nat) : Bool :=
  let inside := fun (p : Place) (n : Nat) => Place.base p + l * n ≤ place && place < Place.base p + (l + 1) * n
  inside .spad (512 * 2 ^ 20) || inside .serai (64 * 2 ^ 22) || inside .depot (4 * 2 ^ 26) || inside .tile (512 * 256 * 2048)

/-- The launch's streams, tiles, codebooks and private stores are empty. -/
def State.clearLaunch (s : State) (l : Nat) : State :=
  { s with streams := s.streams.filter fun e => e.1 / 4096 != l,
           shadow := s.shadow.filter fun e => e.1 / 4096 != l,
           tiles := s.tiles.filter fun e => e.1 / (256 * 512) != l,
           codebooks := s.codebooks.filter fun e => e.1 / (64 * 512) != l,
           mem := s.mem.filter fun e => !ofLaunch l e.1,
           poison := s.poison.filter fun e => !ofLaunch l e.1 }

/-- A stream that has ended: nothing of it is queued, running or on its way. -/
def Stream.ended (t : Stream) : Stream :=
  let t := t.dropQueues
  { t with accesses := [], fences := [], running := [], wait := none, paging := none, passed := [], yielded := [], yieldLeft := 0 }

/-- Its resources are freed, and its number is free; what its registers, tiles and stores hold stands until a placement of that
number clears it (R54). -/
def State.freeLaunch (s : State) (l : Nat) : State :=
  let s := s.drainAll ((s.traceBufs.filter fun e => e.2.recs.any fun x => x.1 = l).map Prod.fst)
  let pages := (s.spaces.notok.filter fun e => e.2 = 4097 + l).map Prod.fst
  { s with regions := s.regions.filter fun e => !ofLaunch l e.1,
           launches := tdel s.launches l,
           streams := s.streams.map fun (e : Nat × Stream) => if e.1 / 4096 = l then (e.1, e.2.ended) else e,
           shadow := s.shadow.filter fun e => e.1 / 4096 != l,
           newcomers := s.newcomers.filter (· != l),
           draining := s.draining.filter fun e => e / 2 ^ 14 != l && e % 2 ^ 14 != l,
           displacing := s.displacing.filter fun e => e / 2 ^ 14 != l && e % 2 ^ 14 != l }.unmarkPages pages

/-- A decision that was carried out on a launch no longer stands (R56). -/
def State.undisplaced (s : State) (l : Nat) : State :=
  { s with displacing := s.displacing.filter fun e => e % 2 ^ 14 != l }

def State.streamsOf (s : State) (l : Nat) : List Nat := (s.streams.filter fun e => e.1 / 4096 = l).map Prod.fst

/-! ### Rollback (R404, R406) -/

/-- What a checkpoint of a launch holds now. -/
def State.snapshotOf (s : State) (l : Nat) : Snapshot :=
  let v := s.launchOf l
  { streams := s.streams.filter fun e => e.1 / 4096 = l,
    tiles := s.tiles.filter fun e => e.1 / (256 * 512) = l,
    mem := s.mem.filter fun e => ofLaunch l e.1,
    poison := s.poison.filter fun e => ofLaunch l e.1,
    codebooks := s.codebooks.filter fun e => e.1 / (64 * 512) = l,
    tags := v.tags,
    colls := s.colls.filter fun c => match c.stream with | some k => k / 4096 = l | none => false,
    est := v.est, waybill := v.waybill, replay := v.replay }

/-- Lists the entries of a table again, in place of those there. -/
def tadd {α : Type} (t : Table α) : Table α → Table α
  | [] => t
  | (k, v) :: r => tput (tadd t r) k v

/-- A restored stream starts every measure of a wait again (R62), and asks again for a page that it waited for (R398). -/
def Stream.restart (t : Stream) : Stream :=
  let q := fun (q : Queue) => { q with wait := none, paging := none }
  let r := fun (r : Running) => { r with paging := none, porter := r.porter.map fun p => { p with turn := none } }
  { t with wait := none, paging := none, matrixQ := q t.matrixQ, vectorQ := q t.vectorQ, porterQ := q t.porterQ,
           assayerQ := q t.assayerQ, running := t.running.map r }

/-- A restored tile: no write is pending, and no measure of the old cluster's ACLK is left (R113, R121). -/
def Tile.restart (t : Tile) : Tile := { t with pending := none, stamp := 0 }

/-- Writes every saved value of a snapshot back. -/
def State.putSnapshot (s : State) (l : Nat) (n : Snapshot) : State :=
  let s := s.clearLaunch l
  let v := s.launchOf l
  let mine := fun (c : CollStart) => match c.stream with | some k => decide (k / 4096 = l) | none => false
  let s := { s with streams := tadd s.streams (n.streams.map fun (e : Nat × Stream) => (e.1, e.2.restart)), tiles := tadd s.tiles (n.tiles.map fun (e : Nat × Tile) => (e.1, e.2.restart)),
                    mem := s.mem.patch 0 n.mem, poison := n.poison.foldl (fun p (e : Nat × Bool) => tset false p e.1 e.2) s.poison, codebooks := tadd s.codebooks n.codebooks,
                    colls := s.colls.filter (fun c => !mine c) ++ n.colls.map fun (c : CollStart) => { c with paging := none } }
  s.setLaunch l { v with tags := n.tags, est := n.est, estNs := s.dev.ns, resumeNs := s.dev.ns, waybill := n.waybill, replay := n.replay }

/-- Logged sectors are written back, newest first, with the poison that they held. -/
def State.putSectors (s : State) : List (Nat × List Byte × List Nat) → State
  | [] => s
  | (a, bs, bad) :: r =>
    let s := s.putBytes a bs
    (if bad = [] then s else s.poisonMarked a (fun i => bad.contains i) 256).putSectors r

/-- A region stands as a logged change left it, or a core loss has orphaned it since (R211). -/
def asLeft (now left : Option Region) : Bool :=
  match now, left with
  | some a, some b => a = b || (a.state = .orphaned && a.holder = b.holder && a.ls = b.ls)
  | a, b => a = b

/-- Logged token changes are undone, newest first; one whose regions have changed since, with a party outside the launch,
stands (log entry 17). -/
def State.undoTokens (s : State) : List (List (Nat × Option Region × Option Region)) → State
  | [] => s
  | c :: cs =>
    let s := if c.all (fun e => asLeft (tfind s.regions e.1) e.2.2) then s.putRegions (c.map fun e => (e.1, e.2.1)) else s
    s.undoTokens cs

/-- The physical fields and the ranks of SCOORD (R29). -/
def Launch.scoord (v : Launch) (i : Nat) : Word :=
  let c := v.corePlace i
  BitVec.ofNat 64 (i * 2 ^ 32 + v.m.clusterRank i * 2 ^ 26 + v.m.coreRank i * 2 ^ 23 + v.m.slotRank i * 2 ^ 20 +
    v.clusterDie.getD (v.m.clusterRank i) 0 * 2 ^ 15 + v.slot i * 2 ^ 12 + c.phys % 8 * 2 ^ 8 + c.phys / 8 % 12 * 2 ^ 4 + c.phys / 96)

/-- The streams of a launch take their new places (R29, R62). -/
def State.moveStreams (s : State) (l : Nat) : Nat → State
  | 0 => s
  | n + 1 =>
    let s := s.moveStreams l n
    let k := l * 4096 + n
    s.setStream k { (s.stream k).restart with scoord := (s.launchOf l).scoord n }

/-- The returns of a launch's port handles that wait for a replay turn start their measure again (R62, R113). -/
def State.restartTurns (s : State) (l : Nat) : State :=
  { s with handles := s.handles.map fun e => if e.2.launch = some l then (e.1, { e.2 with turn := none }) else e }

/-- ROLLBACK (R406) of a launch with a rollback checkpoint, on the same cores; with `lost`, or once one of them is lost, it gives
them up and waits for a restore on others. -/
def State.rollback (s : State) (l : Nat) (n : Snapshot) (lost : Bool) : State :=
  let v := s.launchOf l
  let lost := lost || v.cores.any fun c => tget false s.dev.coreLost c.phys
  let held := fun (pa : Nat) => match s.regionAt pa with | some (_, r) => idOf l r.holder | none => false
  let cores := v.cores.map CorePlace.phys
  let s1 := s.dropAll ((s.l1.filter fun e => cores.contains (e.1 / 2 ^ 32) && held (e.1 % 2 ^ 32 * 256)).map Prod.fst)
  let s1 := { s1 with wc := s1.wc.filter fun e => !(cores.contains (e.1 / 16) && held (e.2.unit * 64)) }
  let s2 := (s1.putSectors v.sectorLog).undoTokens v.tokenLog
  let s3 := s2.putSnapshot l n
  let s4 := match s3.waybillWrite l (if v.m.replay = 1 then [(v.m.waybill, n.waybill)]
      else if v.m.replay = 2 then [(v.m.waybill + 8, n.replay)] else []) with
    | .ok s => s
    | .error _ => s3
  let s4 := (if lost then s4 else s4.moveStreams l v.m.streams).restartTurns l
  let w := s4.launchOf l
  s4.setLaunch l { w with sectorLog := [], tokenLog := [],
                          phase := if lost then .checkpointed else .placed, cores := if lost then [] else w.cores,
                          ckptNs := if lost then s.dev.ns else w.ckptNs }

/-! ### Lost cores and machine checks -/

/-- A region's sectors in an L1 are dirty, or its holder, a copy channel, was writing it (R211). -/
def State.dirtyIn (s : State) (phys place : Nat) (r : Region) : Bool :=
  (s.l1.any fun e => e.1 / 2 ^ 32 = phys && e.2.dirty != 0 && e.1 % 2 ^ 32 * 256 / 2 ^ r.ls = place / 2 ^ r.ls) ||
    (idKind r.holder = 2 && (s.stream (idStream r.holder)).running.any fun x =>
      x.unit = 3 && x.entry.channel = r.holder % 4 && (match x.porter with | some p => p.wrote.any fun w => w.1 = place | none => false))

/-- CORE_LOST (R211): the regions of the streams and channels of the core are ORPHANED, its L1 is gone, and it is never
placed again until the rails are cycled (R402). -/
def State.loseCore (s : State) (phys : Nat) : State :=
  let lost := fun (id : Nat) => (idKind id = 0 || idKind id = 2) && s.location id = [phys]
  let s := s.orphan true lost fun s k r => s.dirtyIn phys k r
  { s with l1 := s.l1.filter fun e => e.1 / 2 ^ 32 != phys, wc := s.wc.filter fun e => e.1 / 16 != phys,
           dev := { s.dev with coreLost := tput s.dev.coreLost phys true } }

/-- A MACHINE CHECK of a stream (R402, R403): CHECK_DIVERGE or UNCORRECTABLE, with the words ARG0 to ARG2. A second one of its
kind on the core within 1 s (log entry 75), or control state lost, loses the core; the launch is to be rolled back when it
can be (ROLLBACK does it), and else it is to be killed (KILL does it), as it is by one during a rollback (R406) or while a kill
is due. Its sequencers and engines run no more. -/
def State.machineCheck (s : State) (k unit code : Nat) (pc : Word) (args : List Nat) (control : Bool) : State :=
  let l := k / 4096
  let v := s.launchOf l
  let phys := s.physOf k
  let key := phys * 2 + (if code = 24 then 1 else 0)
  let lost := control || (match tfind s.dev.diverged key with | some t => s.dev.ns < t + 10 ^ 9 | none => false)
  let s := { s with dev := { s.dev with diverged := tput s.dev.diverged key s.dev.ns,
                                        uncorrectable := s.dev.uncorrectable + (if code = 24 then 1 else 0) } }
  let back := v.m.policy / 4 % 2 = 1
  let t := s.stream k
  let posted := fun (s : State) (fatal : Bool) (outcome : Nat) =>
    s.report k unit fatal false pc (t.cutAt t.pc) { code := code, args := args ++ [outcome] }
  let again := match v.phase with | .rolling _ => true | .killing => true | _ => false
  match (if back && !again then v.snapshot else none) with
  | some _ =>
    let s := posted s false (if lost then 2 else 0)
    let s := (if lost then s.loseCore phys else s).undisplaced l
    s.setLaunch l { s.launchOf l with phase := .rolling lost }
  | none =>
    let s := posted s true 1
    let s := if lost then s.loseCore phys else s
    s.setLaunch l { s.launchOf l with phase := .killing, fatal := (s.launchOf l).fatal.or (some code) }

/-- A launch on whose cores a machine check can act: it has them. -/
def State.checked (s : State) (l : Nat) : Bool :=
  match tfind s.launches l with
  | none => false
  | some v => match v.phase with
    | .placed | .stopping | .killing | .rolling _ | .retiring => true
    | .latched | .checkpointed => false

/-- Store kinds of an UNCORRECTABLE record (R391), but for device memory and what is not the device's. -/
def storeKind (place : Nat) : Nat :=
  if place < Place.base .serai then 5 else if place < Place.base .depot then 4 else if place < Place.base .host then 3 else 6

/-- Poisoned data of a place is consumed by a stream's instruction or entry (R403). The numbering of an SRAM's store and row
is not given: ARG0 is free there (log entry 11). Of device memory, an error that only the core's L1 holds was met there; whether
another was met in L2 or in HBM is free, as is the kind of data that came poisoned from the host or a peer (log entry 76). -/
def State.consume (s : State) (k : Nat) (pc : Word) (place : Nat) : State :=
  let (v, s) := s.draw
  if place < Place.base .spad then
    if !s.poison.any (fun e => e.1 / 256 = place / 256) && (tfind s.l1 (l1Key (s.physOf k) place)).isSome then
      s.machineCheck k 7 24 pc [v.toNat, 2, 0] false
    else if v.toNat % 2 = 0 then s.machineCheck k 7 24 pc [place, 0, 0] false
    else s.machineCheck k 7 24 pc [v.toNat, 1, 0] false
  else if Place.base .host ≤ place && place < Place.base .tile then s.machineCheck k 7 24 pc [v.toNat, v.toNat % 8, 0] false
  else s.machineCheck k 7 24 pc [v.toNat, storeKind place, 0] false

end Sys2Proof.Machine
end

