-- ==== Sys2Proof/Machine/Engine.lean ====
section
/-! DEFINITION. The path of a long instruction (R114 to R117): appended to its engine's queue by the sequencer, started at
the head of the queue by the engine, and finished by ENGINE_ENTRY_COMPLETE (R107). -/

namespace Sys2Proof.Machine

/-! ### Queues -/

def Stream.queue (t : Stream) (unit : Nat) : Queue :=
  if unit = 1 then t.matrixQ else if unit = 2 then t.vectorQ else if unit = 3 then t.porterQ else t.assayerQ
def Stream.setQueue (t : Stream) (unit : Nat) (q : Queue) : Stream :=
  if unit = 1 then { t with matrixQ := q } else if unit = 2 then { t with vectorQ := q }
  else if unit = 3 then { t with porterQ := q } else { t with assayerQ := q }

/-- `eff_rm` (R82): RM in the coding of SHAPE. -/
def effRm (rm : BitVec 2) (shape : Word) : BitVec 2 :=
  if rm = 0 then shapeMode shape else if rm = 1 then 0 else if rm = 2 then 1 else 3

/-- Which of DT, TA and TB stand for a pair of tiles (R240, R275, R285). -/
def pairOf (i : Instr) (f : FL) : Bool × Bool × Bool :=
  let wide := f.opxType = 0 || f.opxType = 2
  match i with
  | .mdrain _ => (wide, false, false)
  | .mldacc _ => (false, wide, false)
  | .tload _ => (f.bit 57, false, false)
  | .tstore _ => (false, f.bit 57, false)
  | .cxfer _ => (f.bit 57, f.bit 57, false)
  | .sinit _ => (f.imm.toNat % 16 = 0, false, false)
  | .qadd _ => (true, true, false)
  | .qmerge _ => (true, true, true)
  | .qquant _ => (false, true, false)
  | .qrank _ => (false, true, false)
  | _ => (false, false, false)

/-- The tile operands that an entry names. -/
def tilesOf (f : FL) (u : Uses) : List (BitVec 16) :=
  (if u.dt then [f.dt] else []) ++ (if u.ta then [f.ta] else []) ++ (if u.tb then [f.tb] else []) ++
    (if u.tc then [f.tc] else [])

/-- Key of a tile on the core of a core rank of the stream's own cluster (R244). -/
def State.rankTileKey (s : State) (k rank t : Nat) : Nat :=
  let m := (s.launchOf (k / 4096)).m
  (k / 4096 * 512 + m.clusterRank (k % 4096) * 8 + rank) * 256 + t

/-- A CXFER to a tile of another core. -/
def toTile (i : Instr) (f : FL) : Bool := match i with | .cxfer _ => f.bit 59 | _ => false

/-- Keys of the tiles that an entry names, both of a pair. -/
def State.namesOf (s : State) (i : Instr) (f : FL) : List Nat :=
  let u := i.uses f
  let p := pairOf i f
  let both := fun (key : Nat) (pair : Bool) => key :: (if pair then [key + 1] else [])
  let own := fun (t : BitVec 16) (pair : Bool) => both (s.tileKey s.cur (topTile t)) pair
  (if u.dt then
    (if toTile i f then both (s.rankTileKey s.cur ((s.xr f.xs1).toNat % 8) (topTile f.dt)) p.1 else own f.dt p.1) else []) ++
    (if u.ta then own f.ta p.2.1 else []) ++ (if u.tb then own f.tb p.2.2 else []) ++ (if u.tc then own f.tc false else [])

/-- The entry that the sequencer appends now (R114). -/
def State.capture (s : State) (i : Instr) (f : FL) : Entry :=
  let t := s.st
  { w0 := i.word0, w1 := i.word1, pc := t.pc, edt := t.expected f.dt, eta := t.expected f.ta, etb := t.expected f.tb,
    etc := t.expected f.tc, xs1 := t.xr f.xs1, xs2 := t.xr f.xs2, shape := t.shape, ssr := t.ssr,
    rm := effRm f.rm t.shape, unbound := false, seq := (t.queue i.unit).appended, mark := t.accessNo,
    names := s.namesOf i f, arena := if f.chk = 1 then tget 0 t.arn f.arena else 0 }

/-- Appends an entry; a full queue stalls the stream, and the instruction has not executed (R114). Only entries that have not
started count among its 16 places (log entry 71). `bind` gives the format
queue its share (R268). What a Porter entry captures may depend on loads, and what it accesses follows what they follow (R327,
R332, log entry 69). -/
def State.append (s : State) (i : Instr) (f : FL) (bind : Stream → Entry → Stream × Entry) : Result :=
  let q := s.st.queue i.unit
  if Config.queueDepth ≤ q.entries.length then s.stall
  else
    let (t, e) := bind s.st (s.capture i f)
    let q := { q with entries := q.entries ++ [e], appended := q.appended + 1 }
    let s := if i.unit = 3 then s.enginesAfter (s.physOf s.cur) Sector.followed else s
    .next ((s.setSt (t.setQueue i.unit q)).advance 16)

/-! ### Starting an entry -/

/-- What a started entry has computed: the bytes of each destination's new version, its flags, and its effect on the
state besides (accumulators, counters). -/
structure Effect where
  versions : List (List (Nat × Byte)) := []
  flags : BitVec 6 := 0
  codebook : Option (Nat × BitVec 256) := none
  total : Nat := 0
  porter : Option PorterRun := none
  post : State → State := id

/-- What an entry does: its operands in the order of R109, the tile bytes it reads, and its computation. -/
structure Work where
  srcs : List Operand
  dsts : List Operand
  reads : List (Nat × Nat) := []
  /-- A check made when every condition of the start holds, before it starts (R300). -/
  check : State → Option Cause := fun _ => none
  run : State → Effect
  /-- What happens at the start even when the entry propagates a skip (R111). -/
  always : State → State := id

/-- An entry that raises a cause before it starts: the stream stops, and the entry stays first in its queue (R117). -/
def State.entryTrap (s : State) (unit : Nat) (e : Entry) (c : Cause) : Result :=
  .next (s.takeTrap s.cur unit e.pc s.st.pc c)

/-- The head of a queue waits (R112, R113). -/
def State.waitEntry (s : State) (unit : Nat) (e : Entry) (o : Operand) (reads : Bool) (srcs : List Operand) : Result :=
  let q := s.st.queue unit
  let since := match q.wait with | some w => w.since | none => s.aclk s.cur
  let w : Wait := { since := since, tiles := e.names, tile := some (o.wait reads srcs), args := [e.w0.toNat] }
  .next (s.setSt (s.st.setQueue unit { q with wait := some w }))

/-- Takes the head off a queue: it has started. -/
def State.popHead (s : State) (unit : Nat) : State :=
  let q := s.st.queue unit
  s.setSt (s.st.setQueue unit { q with entries := q.entries.tail, wait := none, paging := none, passed := [] })

/-- A counted source of the version list carries a skip (R111). -/
def State.skipped (s : State) (srcs : List Operand) : Bool := srcs.any fun o => o.mode != 0 && (s.tile o.key).skip

/-- The started entry: its computation from the versions admitted, kept until it finishes. -/
def State.commit (s1 : State) (unit : Nat) (e : Entry) (skip : Bool) (dq : BitVec 4) (w : Work) : Result :=
  let s2 := w.always (s1.popHead unit)
  let fx := if skip then {} else w.run s2
  let vs := w.dsts.mapIdx fun n o =>
    ({ tile := o.key, bytes := fx.versions.getD n [], quota := dq, skip := skip } : Version)
  let r : Running := { unit := unit, entry := e, marks := (w.srcs.filter Operand.mark).map Operand.key, versions := vs,
                       flags := fx.flags, progress := 0, total := fx.total, codebook := fx.codebook, paging := none,
                       porter := fx.porter }
  let s3 := fx.post s2
  .next (s3.setSt { s3.st with running := s3.st.running ++ [r] })

/-- Starts an entry in one indivisible step (R106): the tests, the admissions and reservations, then the computation from the
versions admitted. With SK a skip is propagated instead (R111). STALE_VERSION is tested before the
checks of R300, which the spec does not order (log entry 24). -/
def State.startEntry (s : State) (unit : Nat) (e : Entry) (sk : Bool) (dq : BitVec 4) (w : Work) : Result :=
  match s.startTiles (s.cur * 8 + unit) (strict e.ssr) w.srcs w.dsts with
  | .waits s o reads => s.waitEntry unit e o reads w.srcs
  | .stale sub o => s.entryTrap unit e { code := 6, sub := sub, args := s.tileArgs o e.w0 }
  | .starts s1 =>
    let skip := sk && s.skipped w.srcs
    match w.check s with
    | some c => s.entryTrap unit e c
    | none =>
      match w.reads.find? fun r => s.poisoned r.1 r.2 with
      | some r => if skip then s1.commit unit e true dq w else .next (s.consume s.cur e.pc r.1)
      | none => s1.commit unit e skip dq w

/-- A tile that an instruction names lies outside the launch's window (R76). -/
def Manifest.misses (m : Manifest) (i : Instr) (f : FL) : Bool := (tilesOf f (i.uses f)).any fun t => m.twin ≤ topTile t

/-- A long instruction (R79, R114): in the sequencer the window check (ILLEGAL 6), the guard, the append; in its engine, the
checks of `plan` before the start (R117) and the start. -/
def longWith (i : Instr) (f : FL) (bind : Stream → Entry → Stream × Entry) (s : State)
    (start : Nat → Entry → State → Result) : Result :=
  match s.actor with
  | .sequencer =>
    if s.launch.m.misses i f then s.trap (illegal 6 i.word0 i.word1)
    else if s.st.guardTrue f.g then s.append i f bind
    else .next (s.advance 16)
  | .engine unit =>
    match (s.st.queue unit).entries with
    | [] => .next s
    | e :: _ => start unit e s

def longInstr (i : Instr) (f : FL) (s : State) (plan : Entry → State → Except Cause Work) : Result :=
  longWith i f (fun t e => (t, e)) s fun unit e s =>
    match plan e s with
    | .error c => s.entryTrap unit e c
    | .ok w => s.startEntry unit e (f.sk = 1) f.dq w

end Sys2Proof.Machine
end

