-- ==== Sys2Proof/Machine/Vector.lean ====
section
/-! DEFINITION. The vector instructions but the special functions (R163 to R176, R179): element arithmetic, bits, comparison,
conversion and quantisation, rearrangement. -/

namespace Sys2Proof.Machine

/-! ### Common form (R163 to R165) -/

/-- One source of a vector entry: its operand field, its captured count, its view and the index of the view's first
element. -/
structure VSrc where
  top : BitVec 16
  exp : BitVec 16
  view : View
  first : Nat := 0

/-- A vector entry's work: `dst` the destination's view with its first element, `compute` from the sources' elements. -/
def vecWork (f : FL) (e : Entry) (s : State) (srcs : List VSrc) (dst : View) (first : Nat)
    (compute : List (List Nat) → List Nat × BitVec 6) : Work :=
  let d := s.entryOp f.dt e.edt false
  { srcs := srcs.map fun v => s.entryOp v.top v.exp true,
    dsts := [d],
    reads := srcs.map fun v =>
      let (b, n) := elemSpan v.view.type v.first v.view.count
      (tilePlace (s.tileKey s.cur (topTile v.top)) + b, n),
    run := fun s =>
      let ins := srcs.map fun v =>
        elemsFrom s.mem (tilePlace (s.tileKey s.cur (topTile v.top))) v.view.type v.first v.view.count
      let (out, flags) := compute ins
      { versions := [storeElems s.mem (tilePlace d.key) dst.type first out], flags := flags } }

/-- Results with their flags joined. -/
def joinFlags (rs : List (Nat × BitVec 6)) : List Nat × BitVec 6 :=
  (rs.map Prod.fst, rs.foldl (fun a r => a ||| r.2) 0)

/-- The element type, rows and columns of an entry under its captured SHAPE. -/
def viewOf (f : FL) (e : Entry) : View :=
  { rows := shapeRows e.shape, cols := shapeCols e.shape, type := effType f e.shape }

/-- An element-wise instruction: every operand has the entry's view, but those types that `typed` replaces. -/
def vecMap (i : Instr) (f : FL) (s : State) (types : List Nat) (tops : List (BitVec 16 × (Entry → BitVec 16) × Option Nat))
    (accepts : Nat → Bool) (op : Entry → Nat → List Nat → Nat × BitVec 6) : Result :=
  longInstr i f s fun e s =>
    let v := viewOf f e
    let srcs := tops.map fun t =>
      ({ top := t.1, exp := t.2.1 e, view := { v with type := t.2.2.getD v.type } } : VSrc)
    match shapeCheck e.shape v.type (types.contains v.type && accepts v.type) true (v :: srcs.map VSrc.view) with
    | some sub => .error (shapeCause sub e)
    | none => .ok (vecWork f e s srcs v 0 fun ins =>
        joinFlags ((List.range v.count).map fun j => op e v.type (ins.map fun xs => xs.getD j 0)))

/-- Sources TA; TA and TB; TA, TB and TC. -/
def srcA (f : FL) : List (BitVec 16 × (Entry → BitVec 16) × Option Nat) := [(f.ta, Entry.eta, none)]
def srcAB (f : FL) : List (BitVec 16 × (Entry → BitVec 16) × Option Nat) :=
  [(f.ta, Entry.eta, none), (f.tb, Entry.etb, none)]
def srcABC (f : FL) : List (BitVec 16 × (Entry → BitVec 16) × Option Nat) :=
  [(f.ta, Entry.eta, none), (f.tb, Entry.etb, none), (f.tc, Entry.etc, none)]

def nth (xs : List Nat) (j : Nat) : Nat := xs.getD j 0

/-! ### Arithmetic (R166 to R169) -/

/-- a ∘ b for elements of types `c` and `cb`. -/
def arith2 (ff : Fmt → Mode → Val → Val → Nat × BitVec 6) (fi : Int → Int → Int) (f : FL) (e : Entry) (c cb a b : Nat) :
    Nat × BitVec 6 :=
  if typeFloat c then ff (typeFmt c) e.rm ((typeFmt c).val a) ((typeFmt cb).val b)
  else (narrow c (f.sat = 1) (fi (intOf c a) (intOf cb b)), 0)

/-- a · b ± c. -/
def arith3 (sub : Bool) (f : FL) (e : Entry) (t a b c : Nat) : Nat × BitVec 6 :=
  if typeFloat t then
    let z := (typeFmt t).val c
    (typeFmt t).fma e.rm ((typeFmt t).val a) ((typeFmt t).val b) (if sub then z.negate else z)
  else
    let p := intOf t a * intOf t b
    (narrow t (f.sat = 1) (if sub then p - intOf t c else p + intOf t c), 0)

/-- VADD, VSUB, VMUL, VFMA, VFMS (R168). -/
def execVadd (f : FL) (s : State) : Result :=
  vecMap (.vadd f) f s typesNum (srcAB f) (fun _ => true) fun e c x => arith2 Fmt.add (· + ·) f e c c (nth x 0) (nth x 1)
def execVsub (f : FL) (s : State) : Result :=
  vecMap (.vsub f) f s typesNum (srcAB f) (fun _ => true) fun e c x => arith2 Fmt.sub (· - ·) f e c c (nth x 0) (nth x 1)
def execVmul (f : FL) (s : State) : Result :=
  vecMap (.vmul f) f s typesNum (srcAB f) (fun _ => true) fun e c x => arith2 Fmt.mul (· * ·) f e c c (nth x 0) (nth x 1)
def execVfma (f : FL) (s : State) : Result :=
  vecMap (.vfma f) f s typesNum (srcABC f) (fun _ => true) fun e c x => arith3 false f e c (nth x 0) (nth x 1) (nth x 2)
def execVfms (f : FL) (s : State) : Result :=
  vecMap (.vfms f) f s typesNum (srcABC f) (fun _ => true) fun e c x => arith3 true f e c (nth x 0) (nth x 1) (nth x 2)

/-- Minimum or maximum of elements: as FMIN and FMAX, or of the integers. -/
def elemMinMax (wantMax : Bool) (c a b : Nat) : Nat :=
  if typeFloat c then (typeFmt c).minmax wantMax a b
  else if (intOf c a < intOf c b) != wantMax then a else b

/-- VMIN and VMAX (R168). -/
def execVmin (f : FL) (s : State) : Result :=
  vecMap (.vmin f) f s typesNum (srcAB f) (fun _ => true) fun _ c x => (elemMinMax false c (nth x 0) (nth x 1), 0)
def execVmax (f : FL) (s : State) : Result :=
  vecMap (.vmax f) f s typesNum (srcAB f) (fun _ => true) fun _ c x => (elemMinMax true c (nth x 0) (nth x 1), 0)

/-- The sign bit of a float element changed; a NaN gives the canonical NaN (R168). -/
def signOp (flip : Bool) (c a : Nat) : Nat :=
  let t := typeFmt c
  if (t.val a).isNan then t.nanBits
  else if flip then (if t.signBit ≤ a then a - t.signBit else a + t.signBit) else a % t.signBit

/-- VABS and VNEG (R168). -/
def execVabs (f : FL) (s : State) : Result :=
  vecMap (.vabs f) f s typesNum (srcA f) (fun _ => true) fun _ c x =>
    (if typeFloat c then signOp false c (nth x 0) else narrow c (f.sat = 1) ((intOf c (nth x 0)).natAbs : Nat), 0)
def execVneg (f : FL) (s : State) : Result :=
  vecMap (.vneg f) f s typesNum (srcA f) (fun _ => true) fun _ c x =>
    (if typeFloat c then signOp true c (nth x 0) else narrow c (f.sat = 1) (-intOf c (nth x 0)), 0)

/-- VSCALE (R168): by the captured XS1, a binary32 value or a signed integer. -/
def execVscale (f : FL) (s : State) : Result :=
  vecMap (.vscale f) f s typesNum (srcA f) (fun _ => true) fun e c x =>
    if typeFloat c then (typeFmt c).mul e.rm ((typeFmt c).val (nth x 0)) (f32.val e.xs1.toNat)
    else (narrow c (f.sat = 1) (intOf c (nth x 0) * e.xs1.toInt), 0)

/-- VADDX (R169): TB in a narrower type. -/
def execVaddx (f : FL) (s : State) : Result :=
  vecMap (.vaddx f) f s typesNum [(f.ta, Entry.eta, none), (f.tb, Entry.etb, some f.opxType)]
    (fun c => vaddxPair c f.opxType) fun e c x => arith2 Fmt.add (· + ·) f e c f.opxType (nth x 0) (nth x 1)

/-! ### Bits (R170) -/

/-- VAND, VOR, VXOR, VNOT (R170). -/
def execVand (f : FL) (s : State) : Result :=
  vecMap (.vand f) f s typesNum (srcAB f) (fun _ => true) fun _ _ x => (nth x 0 &&& nth x 1, 0)
def execVor (f : FL) (s : State) : Result :=
  vecMap (.vor f) f s typesNum (srcAB f) (fun _ => true) fun _ _ x => (nth x 0 ||| nth x 1, 0)
def execVxor (f : FL) (s : State) : Result :=
  vecMap (.vxor f) f s typesNum (srcAB f) (fun _ => true) fun _ _ x => (nth x 0 ^^^ nth x 1, 0)
def execVnot (f : FL) (s : State) : Result :=
  vecMap (.vnot f) f s typesNum (srcA f) (fun _ => true) fun _ c x => (2 ^ typeBits c - 1 - nth x 0, 0)

/-- VSHL, VSHR, VSRA (R170): the count is XS1 mod n. -/
def execVshl (f : FL) (s : State) : Result :=
  vecMap (.vshl f) f s typesInt (srcA f) (fun _ => true) fun e c x =>
    (nth x 0 * 2 ^ (e.xs1.toNat % typeBits c) % 2 ^ typeBits c, 0)
def execVshr (f : FL) (s : State) : Result :=
  vecMap (.vshr f) f s typesInt (srcA f) (fun _ => true) fun e c x => (nth x 0 / 2 ^ (e.xs1.toNat % typeBits c), 0)
def execVsra (f : FL) (s : State) : Result :=
  vecMap (.vsra f) f s typesInt (srcA f) (fun _ => true) fun e c x =>
    (narrow c false (sextNat (nth x 0) (typeBits c) / (2 : Int) ^ (e.xs1.toNat % typeBits c)), 0)

/-! ### Comparison and selection (R171) -/

/-- All ones where the comparison holds. -/
def maskOf (c : Nat) (b : Bool) : Nat := if b then 2 ^ typeBits c - 1 else 0

/-- A float comparison, or the integer one; `inv` says that a NaN operand sets INV. -/
def elemCmp (ff : Val → Val → Bool) (fi : Int → Int → Bool) (inv : Bool) (c a b : Nat) : Nat × BitVec 6 :=
  if typeFloat c then
    let x := (typeFmt c).val a
    let y := (typeFmt c).val b
    (maskOf c (ff x y), if inv && (x.isNan || y.isNan) then flagInv else 0)
  else (maskOf c (fi (intOf c a) (intOf c b)), 0)

/-- VCMPEQ, VCMPLT, VCMPLE (R171). -/
def execVcmpeq (f : FL) (s : State) : Result :=
  vecMap (.vcmpeq f) f s typesNum (srcAB f) (fun _ => true) fun _ c x =>
    elemCmp Val.eq (fun a b => a = b) false c (nth x 0) (nth x 1)
def execVcmplt (f : FL) (s : State) : Result :=
  vecMap (.vcmplt f) f s typesNum (srcAB f) (fun _ => true) fun _ c x =>
    elemCmp Val.lt (fun a b => a < b) true c (nth x 0) (nth x 1)
def execVcmple (f : FL) (s : State) : Result :=
  vecMap (.vcmple f) f s typesNum (srcAB f) (fun _ => true) fun _ c x =>
    elemCmp Val.le (fun a b => a ≤ b) true c (nth x 0) (nth x 1)

/-- VSEL (R171). -/
def execVsel (f : FL) (s : State) : Result :=
  vecMap (.vsel f) f s typesNum (srcABC f) (fun _ => true) fun _ _ x => (if nth x 2 != 0 then nth x 0 else nth x 1, 0)

/-- min(max(a, lo), hi); a NaN element gives the canonical NaN (R171). -/
def elemClamp (c a lo hi : Nat) : Nat :=
  if typeFloat c && ((typeFmt c).val a).isNan then (typeFmt c).nanBits
  else elemMinMax false c (elemMinMax true c a lo) hi

/-- VCLAMP (R171), with tile or scalar bounds. -/
def execVclamp (f : FL) (s : State) : Result :=
  vecMap (.vclamp f) f s typesNum (if f.bit 57 then (srcA f) else (srcABC f)) (fun _ => true) fun e c x =>
    if f.bit 57 then
      (elemClamp c (nth x 0) (e.xs1.toNat % 2 ^ typeBits c) (e.xs2.toNat % 2 ^ typeBits c), 0)
    else (elemClamp c (nth x 0) (nth x 1) (nth x 2), 0)

/-! ### Conversion and quantisation (R172 to R176) -/

/-- An exact quotient: a NaN, an infinity, or a signed fraction. -/
inductive Quot where
  | nan
  | inf (neg : Bool)
  | rat (neg : Bool) (num den : Nat)
  deriving DecidableEq, Repr

def Val.toQuot : Val → Quot
  | .nan => .nan
  | .inf b => .inf b
  | .fin b n e => let (p, q) := scale n 1 e; .rat b p q

/-- x ÷ s with the special cases of FDIV (R174). -/
def quotDiv (x s : Val) : Quot × BitVec 6 :=
  match x, s with
  | .nan, _ | _, .nan => (.nan, 0)
  | .inf _, .inf _ => (.nan, flagInv)
  | .inf a, s => (.inf (a != s.neg), 0)
  | x, .inf b => (.rat (x.neg != b) 0 1, 0)
  | .fin a n e, .fin b m g =>
    if m = 0 then (if n = 0 then (.nan, flagInv) else (.inf (a != b), flagDz))
    else let (p, q) := scale n m (e - g); (.rat (a != b) p q, 0)

/-- v × s (R176). -/
def quotMul (v s : Val) : Quot × BitVec 6 :=
  match v, s with
  | .nan, _ | _, .nan => (.nan, 0)
  | .inf a, s => if s.isZero then (.nan, flagInv) else (.inf (a != s.neg), 0)
  | v, .inf b => if v.isZero then (.nan, flagInv) else (.inf (v.neg != b), 0)
  | v, s => ((mulFin v s).toQuot, 0)

/-- The entry of a codebook. -/
def cbEntry (cb : BitVec 256) (i : Nat) : Val := bf16.val (cb.extractLsb' (16 * i) 16).toNat

/-- |q − v| as a fraction, for finite q and v; none stands for an infinite distance. -/
def distance (neg : Bool) (num den : Nat) : Val → Option (Nat × Nat)
  | .fin b n e =>
    let (p, r) := scale n 1 e
    let x : Int := (if neg then -(num : Int) else num) * r
    let y : Int := (if b then -(p : Int) else p) * den
    some ((x - y).natAbs, den * r)
  | _ => none

/-- First distance strictly less than the second. -/
def closer : Option (Nat × Nat) → Option (Nat × Nat) → Bool
  | none, _ => false
  | some _, none => true
  | some (a, b), some (c, d) => a * d < c * b

/-- The lowest index that no later one beats. -/
def bestIndex (better : Nat → Nat → Bool) : List Nat → Option Nat
  | [] => none
  | i :: is => match bestIndex better is with
    | none => some i
    | some j => if better j i then some j else some i

/-- `cb4_code` (R84). -/
def cb4Code (q : Quot) (cb : BitVec 256) (nancode : Nat) : Nat :=
  let idx := (List.range 16).filter (fun i => !(cbEntry cb i).isNan)
  let r := match q with
    | .nan => none
    | .inf neg => bestIndex (fun j i => if neg then (cbEntry cb j).lt (cbEntry cb i) else (cbEntry cb i).lt (cbEntry cb j)) idx
    | .rat neg n d => bestIndex (fun j i => closer (distance neg n d (cbEntry cb j)) (distance neg n d (cbEntry cb i))) idx
  r.getD nancode

/-- Whether a quotient equals a value. -/
def Quot.equals : Quot → Val → Bool
  | .inf a, .inf b => a = b
  | .rat neg n d, v => distance neg n d v |>.any (fun e => e.1 = 0)
  | _, _ => false

/-- `conv` (R172), with the codebook and NaN code of IMM12. -/
def conv (mode : Mode) (cb : BitVec 256) (nancode d : Nat) (q : Quot) : Nat × BitVec 6 :=
  if d < 2 then
    match q with
    | .nan => ((typeFmt d).nanBits, 0)
    | .inf neg => ((typeFmt d).signed neg (typeFmt d).infBits, 0)
    | .rat neg n den => (typeFmt d).roundFrac mode neg n den
  else if d = 8 then
    let k := cb4Code q cb nancode
    (k, if q != .nan && !q.equals (cbEntry cb k) then flagInx else 0)
  else
    let n := typeBits d
    let lo : Int := if typeSigned d then -(2 : Int) ^ (n - 1) else 0
    let hi : Int := if typeSigned d then (2 : Int) ^ (n - 1) - 1 else (2 : Int) ^ n - 1
    match q with
    | .nan => (0, flagInv)
    | .inf neg => (narrow d false (if neg then lo else hi), flagInv)
    | .rat neg num den =>
      let m := if roundsUp mode neg (num / den) (num % den) den then num / den + 1 else num / den
      let v : Int := if neg then -(m : Int) else m
      if v < lo then (narrow d false lo, flagInv)
      else if hi < v then (narrow d false hi, flagInv)
      else (narrow d false v, if num % den != 0 then flagInx else 0)

/-- The exact value of an element of a type (R174): a CB4 code through the codebook. -/
def elemVal (cb : BitVec 256) (c b : Nat) : Val :=
  if typeFloat c then (typeFmt c).val b else if c = 8 then cbEntry cb b else Val.ofInt (intOf c b)

/-- The codebook of a conversion's IMM12 on the stream's core. -/
def State.convBook (s : State) (n : Nat) : BitVec 256 := tget 0 s.codebooks (s.coreKeyOf s.cur * 64 + n)

/-- Common checks and form of the conversions: `d` and `c` the destination's and source's types, `narrowDst` which side the
row offset places, `scales` whether TB holds block scales (R173, R175). -/
def convInstr (i : Instr) (f : FL) (s : State) (types : List Nat) (accepts : Nat → Bool) (narrowDst scales : Bool)
    (op : Entry → BitVec 256 → Nat → Nat → Nat → Nat × BitVec 6) : Result :=
  longInstr i f s fun e s =>
    let d := effType f e.shape
    let c := f.opxType
    let rows := shapeRows e.shape
    let cols := shapeCols e.shape
    let o := e.xs2.toNat
    let nb := (cols + 31) / 32
    let wide : View := { rows := rows, cols := cols, type := if narrowDst then c else d }
    let thin : View := { rows := o + rows, cols := cols, type := if narrowDst then d else c }
    let tb : View := { rows := rows, cols := nb, type := 1 }
    match shapeCheck e.shape d (types.contains d && accepts d) (o + rows ≤ 64)
        (wide :: thin :: (if scales then [tb] else [])) with
    | some sub => .error (shapeCause sub e)
    | none =>
      let book := (f.imm.extractLsb' 0 6).toNat
      if (d = 8 || c = 8) && s.launch.m.ncb ≤ book then .error (formatCause 3 0 e)
      else
        let v : View := { rows := rows, cols := cols, type := c }
        let a : VSrc := { top := f.ta, exp := e.eta, view := v, first := if narrowDst then 0 else o * cols }
        let b : VSrc := { top := f.tb, exp := e.etb, view := tb }
        let cb := s.convBook book
        .ok (vecWork f e s (if scales then [a, b] else [a]) { v with type := d } (if narrowDst then o * cols else 0)
          fun ins =>
            joinFlags ((List.range v.count).map fun j =>
              op e cb d ((ins.getD 0 []).getD j 0) ((ins.getD 1 []).getD (j / cols * nb + j % cols / 32) 0)))

/-- The NaN code of IMM12. -/
def nancode (f : FL) : Nat := (f.imm.extractLsb' 6 4).toNat

/-- VCVT (R174): the integer path when both types are integers and no scale is given. -/
def execVcvt (f : FL) (s : State) : Result :=
  convInstr (.vcvt f) f s typesAll (fun d => convOk f d f.opxType) true false fun e cb d x _ =>
    let c := f.opxType
    if typesInt.contains c && typesInt.contains d && !f.bit 61 then (narrow d (f.sat = 1) (intOf c x), 0)
    else
      let v := elemVal cb c x
      let (q, fl) := if f.bit 61 then quotDiv v (f32.val e.xs1.toNat) else (v.toQuot, 0)
      let (r, fl') := conv e.rm cb (nancode f) d q
      (r, fl ||| fl')
/-- VQUANT (R175). -/
def execVquant (f : FL) (s : State) : Result :=
  convInstr (.vquant f) f s [4, 5, 6, 7, 8] (fun d => convOk f d f.opxType) true true fun e cb d x sc =>
    let (q, fl) := quotDiv ((typeFmt f.opxType).val x) (bf16.val sc)
    let (r, fl') := conv e.rm cb (nancode f) d q
    (r, fl ||| fl')
/-- VDEQ (R176). -/
def execVdeq (f : FL) (s : State) : Result :=
  convInstr (.vdeq f) f s typesFloat (fun d => convOk f d f.opxType) false true fun e cb d x sc =>
    let (q, fl) := quotMul (elemVal cb f.opxType x) (bf16.val sc)
    let (r, fl') := conv e.rm cb 0 d q
    (r, fl ||| fl')

/-! ### Rearranging and filling (R179) -/

/-- An instruction that moves whole elements: element `j` of the destination from the sources' elements. -/
def vecMove (i : Instr) (f : FL) (s : State) (types : List Nat) (tops : List (BitVec 16 × (Entry → BitVec 16) × Option Nat))
    (derived : Entry → Bool) (pick : View → List (List Nat) → Nat → Nat) : Result :=
  longInstr i f s fun e s =>
    let v := viewOf f e
    let srcs := tops.map fun t =>
      ({ top := t.1, exp := t.2.1 e, view := { v with type := t.2.2.getD v.type } } : VSrc)
    match shapeCheck e.shape v.type (types.contains v.type) (derived e) (v :: srcs.map VSrc.view) with
    | some sub => .error (shapeCause sub e)
    | none => .ok (vecWork f e s srcs v 0 fun ins => ((List.range v.count).map (pick v ins), 0))

/-- VMOV, VTRANS, VSHUF, VBCROW, VBCCOL (R179). -/
def execVmov (f : FL) (s : State) : Result :=
  vecMove (.vmov f) f s typesAll (srcA f) (fun _ => true) fun _ ins j => (ins.getD 0 []).getD j 0
def execVtrans (f : FL) (s : State) : Result :=
  vecMove (.vtrans f) f s typesNum (srcA f) (fun e => shapeCols e.shape ≤ 64) fun v ins j =>
    (ins.getD 0 []).getD (j % v.rows * v.cols + j / v.rows) 0
def execVshuf (f : FL) (s : State) : Result :=
  vecMove (.vshuf f) f s typesNum [(f.ta, Entry.eta, none), (f.tb, Entry.etb, some 5)] (fun _ => true) fun v ins j =>
    let x := (ins.getD 1 []).getD j 0
    if x < v.cols then (ins.getD 0 []).getD (j / v.cols * v.cols + x) 0 else 0
def execVbcrow (f : FL) (s : State) : Result :=
  vecMove (.vbcrow f) f s typesNum (srcA f) (fun _ => true) fun v ins j => (ins.getD 0 []).getD (j % v.cols) 0
def execVbccol (f : FL) (s : State) : Result :=
  vecMove (.vbccol f) f s typesNum (srcA f) (fun _ => true) fun v ins j => (ins.getD 0 []).getD (j / v.cols) 0

/-- VFILL (R179): every element the low bits of the captured XS1. -/
def execVfill (f : FL) (s : State) : Result :=
  vecMap (.vfill f) f s typesAll [] (fun _ => true) fun e c _ => (e.xs1.toNat % 2 ^ typeBits c, 0)

/-- VIOTA (R179): base plus an index by kind. -/
def execViota (f : FL) (s : State) : Result :=
  longInstr (.viota f) f s fun e s =>
    let v := viewOf f e
    match shapeCheck e.shape v.type (typesNum.contains v.type) true [v] with
    | some sub => .error (shapeCause sub e)
    | none => .ok (vecWork f e s [] v 0 fun _ =>
        joinFlags ((List.range v.count).map fun j =>
          let r : Int := (j / v.cols : Nat)
          let c : Int := (j % v.cols : Nat)
          let idx : Int := if f.iotaKind = 0 then (j : Int) else if f.iotaKind = 1 then r else if f.iotaKind = 2 then c else r - c
          let x := e.xs1.toInt + idx
          if typeFloat v.type then (typeFmt v.type).round e.rm (Val.ofInt x)
          else (narrow v.type (f.sat = 1) x, 0)))

end Sys2Proof.Machine
end

