-- ==== Sys2Proof/Machine/Sfu.lean ====
section
/-! DEFINITION. The special functions (R177, R178). A function's exact value is enclosed between two rationals that a higher
precision brings closer; the result is read from an enclosure whose two ends give the same answer. Reciprocal and roots are
exact. A faithful function takes the side of the bracket that `Config.faithfulUp` gives (log entry 8). -/

namespace Sys2Proof.Machine

/-- An enclosure: two integers over 2^p. -/
abbrev Enclosure := Int × Int

/-- Division rounded up, for a positive divisor. -/
def cdiv (a b : Int) : Int := -(-a / b)

/-- Sum of the series t, t·r/(k·2^p), … rounded down (`up` false) or up, with `n` terms from index `k`. -/
def expSeries (p : Nat) (up : Bool) (r : Int) : Nat → Nat → Int → Int
  | 0, _, t => if up then 2 * t + 1 else 0
  | n + 1, k, t =>
    let d : Int := (k * 2 ^ p : Nat)
    t + expSeries p up r n (k + 1) (if up then cdiv (t * r) d else t * r / d)

/-- e^r for an enclosure of r within [0, 1]. -/
def expUnit (p : Nat) (r : Enclosure) : Enclosure :=
  let one : Int := (2 ^ p : Nat)
  (expSeries p false r.1 (p / 4 + 30) 1 one, expSeries p true r.2 (p / 4 + 30) 1 one)

/-- Σ z^(2j+1)/(2j+1) for an enclosure of z within [0, 1/2]: atanh z; `sign` −1 gives atan z, summed term by term. -/
def oddSeries (p : Nat) (up alt : Bool) (z2 : Int) : Nat → Nat → Int → Int
  | 0, _, t => if up then 2 * t + 2 else if alt then -(2 * t + 2) else 0
  | n + 1, j, t =>
    let one : Int := (2 ^ p : Nat)
    let d : Int := (2 * j + 1 : Nat)
    let neg := alt && j % 2 = 1
    let a := if up != neg then cdiv t d else t / d
    (if neg then -a else a) + oddSeries p up alt z2 n (j + 1) (if up != alt then cdiv (t * z2) one else t * z2 / one)

/-- atanh of an enclosure within [0, 1/2]. -/
def atanhIv (p : Nat) (z : Enclosure) : Enclosure :=
  let one : Int := (2 ^ p : Nat)
  (oddSeries p false false (z.1 * z.1 / one) p 0 z.1, oddSeries p true false (cdiv (z.2 * z.2) one) p 0 z.2)

/-- atan(1/q), with an error below p units either way. -/
def atanInv (p q : Nat) : Enclosure :=
  let one : Int := (2 ^ p : Nat)
  let rec go : Nat → Nat → Int → Int
    | 0, _, _ => 0
    | n + 1, j, t => (if j % 2 = 1 then -(t / (2 * j + 1 : Nat)) else t / (2 * j + 1 : Nat)) + go n (j + 1) (t / (q * q : Nat))
  let v := go p 0 (one / q)
  (v - 2 * p - 2, v + 2 * p + 2)

/-- ln 2 and π. -/
def ln2Iv (p : Nat) : Enclosure :=
  let one : Int := (2 ^ p : Nat)
  let a := atanhIv p (one / 3, cdiv one 3)
  (2 * a.1, 2 * a.2)
def piIv (p : Nat) : Enclosure :=
  let a := atanInv p 5
  let b := atanInv p 239
  (16 * a.1 - 4 * b.2, 16 * a.2 - 4 * b.1)

/-- An exact value ±n·2^e over 2^p, rounded down and up. -/
def fixIv (p : Nat) (neg : Bool) (n : Nat) (e : Int) : Enclosure :=
  let (a, b) := scale n 1 (e + p)
  let lo : Int := (a / b : Nat)
  let hi : Int := ((a + b - 1) / b : Nat)
  if neg then (-hi, -lo) else (lo, hi)

/-- Quotient of an enclosure by a positive one. -/
def divIv (p : Nat) (a b : Enclosure) : Enclosure :=
  let one : Int := (2 ^ p : Nat)
  (if 0 ≤ a.1 then a.1 * one / b.2 else a.1 * one / b.1, if 0 ≤ a.2 then cdiv (a.2 * one) b.1 else cdiv (a.2 * one) b.2)
/-- Product of two nonnegative enclosures. -/
def mulIv (p : Nat) (a b : Enclosure) : Enclosure :=
  let one : Int := (2 ^ p : Nat)
  (a.1 * b.1 / one, cdiv (a.2 * b.2) one)

/-- e^x for an enclosure of x: x = k·ln 2 + r, then e^r·2^k. -/
def expIv (p : Nat) (x : Enclosure) : Enclosure :=
  let l := ln2Iv p
  let k := x.1 / l.2
  let r : Enclosure := (max 0 (x.1 - (if 0 ≤ k then k * l.2 else k * l.1)), x.2 - (if 0 ≤ k then k * l.1 else k * l.2))
  let y := expUnit p r
  if 0 ≤ k then (y.1 * 2 ^ k.toNat, y.2 * 2 ^ k.toNat) else (y.1 / 2 ^ (-k).toNat, cdiv y.2 (2 ^ (-k).toNat))

/-- ln of n·2^e, n ≠ 0: the mantissa in [1, 2) by atanh, and the exponent by ln 2. -/
def lnIv (p : Nat) (n : Nat) (e : Int) : Enclosure :=
  let one : Int := (2 ^ p : Nat)
  let k := n.log2
  let m := fixIv p false n (-(k : Int))
  let z := divIv p (m.1 - one, m.2 - one) (m.1 + one, m.2 + one)
  let a := atanhIv p (max 0 z.1, max 0 z.2)
  let l := ln2Iv p
  let q := e + k
  (2 * a.1 + (if 0 ≤ q then q * l.1 else q * l.2), 2 * a.2 + (if 0 ≤ q then q * l.2 else q * l.1))

/-- cos (`odd` false) or sin of an enclosure within [0, 2), by its Taylor series. -/
def trigUnit (p : Nat) (odd : Bool) (x : Enclosure) : Enclosure :=
  let one : Int := (2 ^ p : Nat)
  let mid := (x.1 + x.2) / 2
  let x2 := mid * mid / one
  let rec go : Nat → Nat → Int → Int
    | 0, _, _ => 0
    | n + 1, k, t => t - go n (k + 2) (t * x2 / (one * ((k + 1) * (k + 2) : Nat)))
  let v := go (p / 4 + 30) (if odd then 1 else 0) (if odd then mid else one)
  let err := (x.2 - x.1) + 4 * (p : Int) + 8
  (v - err, v + err)

/-- sin or cos of ±n·2^e: exact reduction by π/2 to the needed precision (R178). -/
def trigIv (p : Nat) (cosine neg : Bool) (n : Nat) (e : Int) : Enclosure :=
  let pi := piIv p
  let h : Enclosure := (pi.1 / 2, cdiv pi.2 2)
  let x := fixIv p false n e
  let q := x.1 / h.2
  let y : Enclosure := (x.1 - q * h.2, x.2 - q * h.1)
  let i := (q.toNat + (if cosine then 1 else 0)) % 4
  let v := trigUnit p (i % 2 = 0) y
  let v := if 2 ≤ i then (-v.2, -v.1) else v
  if neg && !cosine then (-v.2, -v.1) else v

/-- Σ 2^n·x^(2n+1)/(2n+1)!!, all terms positive. -/
def erfSeries (p : Nat) (up : Bool) (x2 : Int) : Nat → Nat → Int → Int
  | 0, _, t => if up then 2 * t + 1 else 0
  | n + 1, k, t =>
    let d : Int := ((2 * k + 3) * 2 ^ p : Nat)
    t + erfSeries p up x2 n (k + 1) (if up then cdiv (2 * t * x2) d else 2 * t * x2 / d)

/-- erf of a positive enclosure below 16: 2/√π · e^(−x²) · Σ. -/
def erfIv (p : Nat) (x : Enclosure) : Enclosure :=
  let one : Int := (2 ^ p : Nat)
  let s2 : Enclosure := (x.1 * x.1 / one, cdiv (x.2 * x.2) one)
  let sum : Enclosure := (erfSeries p false s2.1 (p + 600) 0 x.1, erfSeries p true s2.2 (p + 600) 0 x.2)
  let ex := expIv p (-s2.2, -s2.1)
  let pi := piIv p
  let root : Enclosure := ((isqrt (pi.1 * one).toNat : Nat), (isqrt (pi.2 * one).toNat + 1 : Nat))
  let v := divIv p (mulIv p ex sum) root
  (2 * v.1, min (2 * v.2) one)

/-! ### Reading a result from an enclosure -/

/-- Whether |v|/2^p lies below 2^−126. -/
def belowNormal (p : Nat) (v : Int) : Bool := v.natAbs * 2 ^ 126 < 2 ^ p

/-- The flags of a special function's inexact result: overflow as RNE decides it, UNF when the exact value is below 2^−126. -/
def sfuFlags (t : Fmt) (p : Nat) (v : Int) (rne : Nat) : BitVec 6 :=
  flagInx ||| (if rne % t.signBit = t.infBits then flagOvf else 0) ||| (if belowNormal p v then flagUnf else 0)

/-- Rounds v/2^p under a mode. -/
def roundFix (t : Fmt) (mode : Mode) (p : Nat) (v : Int) : Nat := (t.roundFrac mode (v < 0) v.natAbs (2 ^ p)).1

/-- Correct rounding: both ends must round alike and lie on one side of 2^−126; else a higher precision is taken. -/
def readRounded (t : Fmt) (enc : Nat → Enclosure) : Nat → Nat → Nat × BitVec 6
  | 0, p => let v := (enc p).1; let r := roundFix t 0 p v; (r, sfuFlags t p v r)
  | n + 1, p =>
    let (lo, hi) := enc p
    let a := roundFix t 0 p lo
    if a = roundFix t 0 p hi && belowNormal p lo = belowNormal p hi && lo != 0 then (a, sfuFlags t p lo a)
    else readRounded t enc n (2 * p)

/-- A faithful result: the bracket's side that the part takes, overflow as RNE decides it (R177). -/
def readFaithful (t : Fmt) (up : Bool) (enc : Nat → Enclosure) : Nat → Nat → Nat × BitVec 6
  | 0, p => let v := (enc p).1; let r := roundFix t 0 p v; (r, sfuFlags t p v r)
  | n + 1, p =>
    let (lo, hi) := enc p
    let neg := lo < 0
    let down := roundFix t 1 p lo
    let away := roundFix t (if neg then 3 else 2) p lo
    let rne := roundFix t 0 p lo
    if down = roundFix t 1 p hi && away = roundFix t (if neg then 3 else 2) p hi && rne = roundFix t 0 p hi &&
        belowNormal p lo = belowNormal p hi && lo != 0 && (lo < 0) = (hi < 0) then
      let big := t.infBits ≤ away % t.signBit
      (if big then rne else if up then away else down, sfuFlags t p lo rne)
    else readFaithful t up enc n (2 * p)

/-- The enclosure of a value that differs from one only far below any precision: just below it. -/
def justBelow (one : Nat → Int) (p : Nat) : Enclosure := (one p - 1, one p - 1)

/-! ### The twelve functions on bits (R177, R178) -/

/-- A special function by its FN on the bits of an element of format `t`. -/
def sfu (fn : Nat) (t : Fmt) (bits : Nat) : Nat × BitVec 6 :=
  let one := fun p : Nat => (2 ^ p : Int)
  let v1 := (t.bias : Nat) * 2 ^ (t.p - 1)
  let up := Config.faithfulUp fn (t.width = 16) (BitVec.ofNat 32 bits).toNat
  match t.val bits with
  | .nan => (t.nanBits, 0)
  | .inf neg =>
    if fn = 0 then (t.signed neg 0, 0)
    else if fn = 1 then (if neg then (t.nanBits, flagInv) else (0, 0))
    else if fn = 2 || fn = 5 || fn = 6 then (if neg then (t.nanBits, flagInv) else (t.infBits, 0))
    else if fn = 3 || fn = 4 then (if neg then 0 else t.infBits, 0)
    else if fn = 7 || fn = 8 then (t.nanBits, flagRange ||| flagInv)
    else if fn = 10 then (if neg then 0 else v1, 0)
    else (t.signed neg v1, 0)
  | .fin neg n e =>
    if n = 0 then
      (if fn = 0 || fn = 1 then (t.signed neg t.infBits, flagDz)
       else if fn = 2 || fn = 7 || fn = 9 || fn = 11 then (t.signed neg 0, 0)
       else if fn = 3 || fn = 4 || fn = 8 then (v1, 0)
       else if fn = 5 || fn = 6 then (t.signed true t.infBits, flagDz)
       else (v1 - 2 ^ (t.p - 1), 0))
    else if neg && (fn = 1 || fn = 2 || fn = 5 || fn = 6) then (t.nanBits, flagInv)
    else
      let x := Val.fin neg n e
      let large := fun k : Nat => (Val.fin false k 0).le x.abs
      if fn = 0 then
        let (a, b) := scale 1 n (-e)
        let r := t.roundFrac 0 neg a b
        (r.1, r.2)
      else if fn = 1 then
        let (a, b) := scale 1 n (-e)
        let w := a * 2 ^ 600 / b
        let s := isqrt w
        let s := if s * s = w && a * 2 ^ 600 % b = 0 then 2 * s else 2 * s + 1
        t.roundFrac 0 false s (2 ^ 301)
      else if fn = 2 then t.sqrt 0 x
      else if fn = 3 then
        let f := fixIv 0 neg n e
        if f.1 = f.2 && !large 400 then (let (a, b) := scale 1 1 f.1; t.roundFrac 0 false a b)
        else if large 400 then readRounded t (fun p => if neg then (one p / 2 ^ 400 + 1, one p / 2 ^ 400 + 1) else (one (p + 400), one (p + 400))) 4 1024
        else readRounded t (fun p =>
          let l := ln2Iv p
          let y := fixIv p neg n e
          expIv p (if neg then (y.1 * l.2 / one p, cdiv (y.2 * l.1) (one p)) else (y.1 * l.1 / one p, cdiv (y.2 * l.2) (one p)))) 5 256
      else if fn = 4 then
        if large 400 then readFaithful t up (fun p => if neg then (one p / 2 ^ 400 + 1, one p / 2 ^ 400 + 1) else (one (p + 400), one (p + 400))) 4 1024
        else readFaithful t up (fun p => expIv p (fixIv p neg n e)) 5 256
      else if fn = 5 then
        if n = 2 ^ n.log2 then t.round 0 (Val.ofInt (e + n.log2))
        else readRounded t (fun p => divIv p (lnIv p n e) (ln2Iv p)) 5 256
      else if fn = 6 then
        if x.eq (.fin false 1 0) then (0, 0) else readFaithful t up (fun p => lnIv p n e) 5 256
      else if fn = 7 || fn = 8 then
        if large (2 ^ 20) then (t.nanBits, flagRange) else readRounded t (fun p => trigIv p (fn = 8) neg n e) 5 256
      else if fn = 9 then
        let enc := fun p =>
          if large 100 then justBelow one p
          else
            let y := expIv p (fixIv p false n (e + 1))
            divIv p (y.1 - one p, y.2 - one p) (y.1 + one p, y.2 + one p)
        readFaithful t up (fun p => let v := enc p; if neg then (-v.2, -v.1) else v) 5 256
      else if fn = 10 then
        let enc := fun p =>
          if large 400 then (if neg then (one p / 2 ^ 400 + 1, one p / 2 ^ 400 + 1) else justBelow one p)
          else
            let y := expIv p (fixIv p (!neg) n e)
            divIv p (one p, one p) (one p + y.1, one p + y.2)
        readFaithful t up enc 5 512
      else
        let enc := fun p => if large 16 then justBelow one p else erfIv p (fixIv p false n e)
        readFaithful t up (fun p => let v := enc p; if neg then (-v.2, -v.1) else v) 5 512

/-- A VSFU instruction: its function on every element (R177). -/
def sfuInstr (i : Instr) (fn : Nat) (f : FL) (s : State) : Result :=
  vecMap i f s typesFloat (srcA f) (fun _ => true) fun _ c x => sfu fn (typeFmt c) (nth x 0)

/-- VRCP, VRSQRT, VSQRT, VEXP2, VEXP, VLOG2, VLOG, VSIN, VCOS, VTANH, VSIGM, VERF (R177). -/
def execVrcp (f : FL) (s : State) : Result := sfuInstr (.vrcp f) 0 f s
def execVrsqrt (f : FL) (s : State) : Result := sfuInstr (.vrsqrt f) 1 f s
def execVsqrt (f : FL) (s : State) : Result := sfuInstr (.vsqrt f) 2 f s
def execVexp2 (f : FL) (s : State) : Result := sfuInstr (.vexp2 f) 3 f s
def execVexp (f : FL) (s : State) : Result := sfuInstr (.vexp f) 4 f s
def execVlog2 (f : FL) (s : State) : Result := sfuInstr (.vlog2 f) 5 f s
def execVlog (f : FL) (s : State) : Result := sfuInstr (.vlog f) 6 f s
def execVsin (f : FL) (s : State) : Result := sfuInstr (.vsin f) 7 f s
def execVcos (f : FL) (s : State) : Result := sfuInstr (.vcos f) 8 f s
def execVtanh (f : FL) (s : State) : Result := sfuInstr (.vtanh f) 9 f s
def execVsigm (f : FL) (s : State) : Result := sfuInstr (.vsigm f) 10 f s
def execVerf (f : FL) (s : State) : Result := sfuInstr (.verf f) 11 f s

end Sys2Proof.Machine
end

