-- ==== Sys2Proof/Machine/Assayer.lean ====
section
/-! DEFINITION. The Assayer (R284 to R310): summaries as tile data, their folds, merges and queries. -/

namespace Sys2Proof.Machine

/-- Saturating N addition. -/
def satN (bits v : Nat) : Nat := min v (2 ^ bits - 1)
/-- Saturating signed addition. -/
def satS (bits : Nat) (v : Int) : Int := max (-(2 : Int) ^ (bits - 1)) (min v ((2 : Int) ^ (bits - 1) - 1))
/-- A signed value as `n` bytes. -/
def signedBytes (v : Int) (n : Nat) : List Byte := bytesLE (v % (2 : Int) ^ (8 * n)).toNat n

def zeroBytes (n : Nat) : List Byte := List.replicate n 0

/-- +infinity and −infinity as F32 bits. -/
def pinf : Nat := 0x7F800000
def ninf : Nat := 0xFF800000

/-! ### The quantile sketch (R286 to R288) -/

/-- A sketch. `seed` numbers the entropy bits drawn. -/
structure Sketch where
  coin : Nat
  topw : Nat
  altb : Nat
  xs : BitVec 64
  n : Nat
  nans : Nat
  mn : Nat
  mx : Nat
  levels : List (List Nat)
  seed : Nat
  deriving DecidableEq, Repr

def sketchOf (v seed : Nat) : Sketch :=
  { coin := fieldOf v 1 1 % 4, topw := fieldOf v 4 1, altb := fieldOf v 5 1 % 2, xs := BitVec.ofNat 64 (fieldOf v 8 8),
    n := fieldOf v 0x10 8, nans := fieldOf v 0x18 4, mn := fieldOf v 0x1C 4, mx := fieldOf v 0x20 4,
    levels := (List.range 8).map fun h =>
      (List.range (min 124 (fieldOf v (0x28 + 2 * h) 2))).map fun j => fieldOf v (128 + 496 * h + 4 * j) 4,
    seed := seed }

/-- The 4,096 bytes of a sketch. -/
def Sketch.bytes (k : Sketch) : List Byte :=
  bytesLE (k.coin * 256) 4 ++ bytesLE k.topw 1 ++ bytesLE k.altb 1 ++ zeroBytes 2 ++ bytesLE k.xs.toNat 8 ++
    bytesLE k.n 8 ++ bytesLE k.nans 4 ++ bytesLE k.mn 4 ++ bytesLE k.mx 4 ++ zeroBytes 4 ++
    (k.levels.flatMap fun l => bytesLE l.length 2) ++ zeroBytes 72 ++
    (k.levels.flatMap fun l => (l.flatMap fun x => bytesLE x 4) ++ zeroBytes (496 - 4 * l.length))

/-- One coin (R287). -/
def Sketch.draw (k : Sketch) : Nat × Sketch :=
  if k.coin = 0 then (k.altb, { k with altb := 1 - k.altb })
  else if k.coin = 1 then
    let x := k.xs ^^^ (k.xs <<< 13)
    let x := x ^^^ (x >>> 7)
    let x := x ^^^ (x <<< 17)
    (x.toNat % 2, { k with xs := x })
  else ((Config.entropyBit k.seed).toNat, { k with seed := k.seed + 1 })

/-- The order of `sort`: −0 before +0. Where a loaded image holds a NaN, the spec gives it no place: it is free (log entry
11). -/
def sortKey (b : Nat) : Int :=
  if (f32.val b).isNan then (Config.freeValue (2 ^ 82 + b)).toInt
  else if f32.signBit ≤ b then -((b - f32.signBit : Nat) : Int) - 1 else b

/-- Stable insertion of an item into a sorted list, after its equals. -/
def sortIn {α : Type} (key : α → Int) (x : α) : List α → List α
  | [] => [x]
  | y :: ys => if key x < key y then x :: y :: ys else y :: sortIn key x ys
/-- Stable sort, ascending. -/
def sortBy {α : Type} (key : α → Int) (l : List α) : List α := l.foldl (fun a x => sortIn key x a) []

/-- The items at positions of a parity. -/
def everyOther {α : Type} (c : Nat) (l : List α) : List α :=
  match l with
  | [] => []
  | x :: r => if c = 0 then x :: everyOther 1 r else everyOther 0 r

/-- `halve` (R288). -/
def Sketch.halve (k : Sketch) (l : List Nat) : List Nat × Sketch :=
  let (c, k) := k.draw
  (everyOther c (sortBy sortKey l), k)

def Sketch.level (k : Sketch) (h : Nat) : List Nat := k.levels.getD h []
def Sketch.setLevel (k : Sketch) (h : Nat) (l : List Nat) : Sketch := { k with levels := k.levels.set h l }

/-- `halve` a number of times. -/
def Sketch.halves (k : Sketch) (l : List Nat) : Nat → List Nat × Sketch
  | 0 => (l, k)
  | n + 1 => let (l, k) := k.halve l; k.halves l n

/-- The thinning of `top`: both lists lose half until they fit. -/
def Sketch.thin (k : Sketch) (items : List Nat) : Nat → List Nat × Sketch
  | 0 => (items, k)
  | n + 1 =>
    if (k.level 7).length + items.length ≤ 124 then (items, k)
    else
      let (l, k) := k.halve (k.level 7)
      let k := { k.setLevel 7 l with topw := min (k.topw + 1) 70 }
      let (items, k) := k.halve items
      k.thin items n

/-- `top` (R288). -/
def Sketch.top (k : Sketch) (items : List Nat) (w : Nat) : Sketch :=
  let (items, k) := k.halves items (k.topw - w)
  let (items, k) := k.thin items 16
  k.setLevel 7 (k.level 7 ++ items)

/-- `insert` of items at level `7 − d`, with `compact` (R288). -/
def Sketch.insert : Nat → Sketch → List Nat → Sketch
  | 0, k, items => k.top items 7
  | d + 1, k, items =>
    let h := 6 - d
    items.foldl (fun k x =>
      let k := if (k.level h).length = 124 then
          let (keep, k) := k.halve (k.level h)
          Sketch.insert d (k.setLevel h []) keep
        else k
      k.setLevel h (k.level h ++ [x])) k

/-- QADD of one element (R302). -/
def Sketch.add (k : Sketch) (x : Nat) : Sketch :=
  if (f32.val x).isNan then { k with nans := satN 32 (k.nans + 1) }
  else
    let k := Sketch.insert 7 k [x]
    { k with n := satN 64 (k.n + 1), mn := f32.minmax false k.mn x, mx := f32.minmax true k.mx x }

/-- QMERGE (R302). -/
def Sketch.merge (a b : Sketch) : Sketch :=
  let k := { a with n := satN 64 (a.n + b.n), nans := satN 32 (a.nans + b.nans), mn := f32.minmax false a.mn b.mn,
                    mx := f32.minmax true a.mx b.mx }
  let k := (List.range 7).foldl (fun k h => Sketch.insert (7 - h) k (b.level h)) k
  let (l, k) := k.halves (k.level 7) (b.topw - k.topw)
  let k := { k.setLevel 7 l with topw := max k.topw b.topw }
  k.top (b.level 7) b.topw

/-- Every item with its weight, sorted (R303). -/
def Sketch.items (k : Sketch) : List (Nat × Nat) :=
  sortBy (fun e => sortKey e.1)
    ((List.range 8).flatMap fun h => (k.level h).map fun x => (x, 2 ^ (if h = 7 then k.topw else h)))

def weight (l : List (Nat × Nat)) : Nat := (l.map Prod.snd).sum

/-- The first item whose cumulative weight reaches num/den of the whole. -/
def quantile (num den c : Nat) : List (Nat × Nat) → Option Nat
  | [] => none
  | (x, w) :: r => if num ≤ (c + w) * den then some x else quantile num den (c + w) r

/-- QQUANT (R303). -/
def Sketch.quant (k : Sketch) (phi : Nat) : Nat × BitVec 6 :=
  match f32.val phi with
  | .fin neg n e =>
    let (a, b) := scale n 1 e
    if (neg && n != 0) || b < a then (f32.nanBits, flagInv)
    else
      let items := k.items
      if items.isEmpty then (f32.nanBits, 0)
      else if n = 0 then (k.mn, 0)
      else if a = b then (k.mx, 0)
      else ((quantile (a * weight items) b 0 items).getD k.mx, 0)
  | _ => (f32.nanBits, flagInv)

/-- QRANK (R303). -/
def Sketch.rank (k : Sketch) (x : Nat) : Nat × BitVec 6 :=
  let v := f32.val x
  if v.isNan then (f32.nanBits, flagInv)
  else
    let items := k.items
    if items.isEmpty then (f32.nanBits, 0)
    else f32.roundFrac 0 false (weight (items.filter fun e => (f32.val e.1).le v)) (weight items)

/-- The FORMAT subcode of a sketch (R300). -/
def sketchCheck (v : Nat) : Option Nat :=
  let ctl := fieldOf v 0 4
  let coin := ctl / 256 % 4
  if ctl % 256 != 0 || ctl / 1024 != 0 || fieldOf v 5 1 / 2 != 0 || fieldOf v 6 2 != 0 || fieldOf v 0x24 4 != 0 ||
      fieldOf v 0x38 72 != 0 then some 48
  else if (List.range 8).any (fun h => 124 < fieldOf v (0x28 + 2 * h) 2) || fieldOf v 4 1 < 7 || 70 < fieldOf v 4 1 ||
      (fieldOf v 8 8 = 0) = (coin = 1) then some 49
  else if coin = 3 then some 50
  else none

/-! ### The heavy-hitter list (R289, R290) -/

/-- Key, count, error. -/
abbrev Hitter := Nat × Nat × Nat

def hittersOf (v : Nat) : List Hitter × Nat :=
  ((List.range (min 124 (fieldOf v 4 2))).map fun j =>
    (fieldOf v (64 + 16 * j) 4, fieldOf v (68 + 16 * j) 8, fieldOf v (76 + 16 * j) 4), fieldOf v 8 8)

def hitterBytes (l : List Hitter) (n : Nat) : List Byte :=
  bytesLE 1 4 ++ bytesLE l.length 2 ++ zeroBytes 2 ++ bytesLE n 8 ++ zeroBytes 48 ++
    (l.flatMap fun e => bytesLE e.1 4 ++ bytesLE e.2.1 8 ++ bytesLE e.2.2 4) ++ zeroBytes (1984 - 16 * l.length)

/-- `hh_add` (R290). In a loaded list that repeats a key, which no check refuses, every entry of the key is raised (log entry 92). -/
def hhAdd (l : List Hitter) (k c e : Nat) : List Hitter :=
  if l.any (fun x => x.1 = k) then
    l.map fun x => if x.1 = k then (k, satN 64 (x.2.1 + c), satN 32 (x.2.2 + e)) else x
  else if l.length < 124 then l ++ [(k, c, e)]
  else
    let m := (l.map fun x => x.2.1).foldl min (2 ^ 64)
    match l.findIdx? fun x => x.2.1 = m with
    | some j => l.set j (k, satN 64 (m + c), satN 32 (m + e))
    | none => l

def hitterCheck (v : Nat) : Option Nat :=
  if fieldOf v 0 4 != 1 || fieldOf v 6 2 != 0 || fieldOf v 16 48 != 0 then some 48
  else if 124 < fieldOf v 4 2 then some 49 else none

/-! ### The distinct-count register set (R291, R292) -/

def registersOf (v : Nat) : List Nat × Nat :=
  ((List.range 2048).map fun i => fieldOf v 64 1536 / 2 ^ (6 * i) % 64, fieldOf v 8 8)

/-- Registers as one number. -/
def packRegisters : List Nat → Nat
  | [] => 0
  | r :: rs => r % 64 + 64 * packRegisters rs

def registerBytes (rs : List Nat) (n : Nat) : List Byte :=
  bytesLE 2 4 ++ zeroBytes 4 ++ bytesLE n 8 ++ zeroBytes 48 ++ bytesLE (packRegisters rs) 1536 ++ zeroBytes 448

/-- `hash64` (R291). -/
def hash64 (k : Nat) : Word :=
  let x : Word := BitVec.ofNat 64 k + 0x9E3779B97F4A7C15#64
  let x := (x ^^^ (x >>> 30)) * 0xBF58476D1CE4E5B9#64
  let x := (x ^^^ (x >>> 27)) * 0x94D049BB133111EB#64
  x ^^^ (x >>> 31)

/-- `d_add` (R291). -/
def dAdd (rs : List Nat) (k : Nat) : List Nat :=
  let x := (hash64 k).toNat
  let low := x % 2 ^ 53
  let r := if low = 0 then 54 else 53 - low.log2
  rs.modify (x / 2 ^ 53) (max r)

/-- KIND and the zero bytes of the header; R300 names nothing else of a register set. -/
def registerCheck (v : Nat) : Option Nat :=
  if fieldOf v 0 4 != 2 || fieldOf v 4 4 != 0 || fieldOf v 16 48 != 0 then some 48 else none

/-- The estimate of R292, every binary64 operation rounded in order. -/
def estimate (rs : List Nat) : Nat :=
  let num := fun n : Nat => (f64.round 0 (Val.ofInt n)).1
  let mul := fun a b => (f64.mul 0 (f64.val a) (f64.val b)).1
  let div := fun a b => (f64.div 0 (f64.val a) (f64.val b)).1
  let z := rs.foldl (fun (a : Nat) (r : Nat) => (f64.add 0 (f64.val a) (.fin false 1 (-(r : Int)))).1) 0
  let v := (rs.filter (· = 0)).length
  let alpha := (f64.roundFrac 0 false (7213 * 2048 * 1000) (10000 * 2049079)).1
  let e := div (mul (mul alpha (num 2048)) (num 2048)) z
  let e := if (f64.val e).le (.fin false 5120 0) && v != 0 then
      match f64.val (div (num 2048) (num v)) with
      | .fin _ n x => if v = 2048 then 0 else mul (num 2048) (readRounded f64 (fun p => lnIv p n x) 6 256).1
      | _ => e
    else e
  (f32.round 0 (f64.val e)).1

/-! ### Moment summaries (R293, R294) -/

/-- A sum of values, infinities and NaNs as FADD adds them. -/
def addVals (a b : Val) : Val :=
  match a, b with
  | .nan, _ | _, .nan => .nan
  | .inf x, .inf y => if x = y then .inf x else .nan
  | .inf x, _ | _, .inf x => .inf x
  | a, b => exactSum 0 [a, b]

/-- The value hi + lo of a pair. -/
def pairVal (hi lo : Nat) : Val := addVals (f32.val hi) (f32.val lo)

/-- `cadd` (R293): the new hi and lo, and the flags. Of a loaded pair whose lo is infinite or NaN while hi is finite no exact sum exists:
hi becomes that infinity or NaN, lo +0, without a flag (log entry 91). -/
def cadd (hi lo : Nat) (v : Val) : Nat × Nat × BitVec 6 :=
  let h := f32.val hi
  if h.isNan || v.isNan then (f32.nanBits, 0, 0)
  else if h.isInf || v.isInf then let r := f32.add 0 h v; (r.1, 0, r.2)
  else
    let t := match f32.val lo with
      | .fin b n e => exactSum 0 [h, .fin b n e, v]
      | l => l
    let (x, fl) := f32.round 0 t
    let y := f32.val x
    if y.isInf then (x, 0, fl)
    else if y.isNan then (x, 0, 0)
    else
      let (z, fl) := f32.round 0 (exactSum 0 [t, y.negate])
      (x, z, fl)

/-- An F32 moment summary. -/
structure Moment where
  n : Int
  hi : Nat
  lo : Nat
  qhi : Nat
  qlo : Nat
  amax : Nat
  nans : Int
  deriving DecidableEq, Repr

/-- Slot `i` of a tile's bytes. -/
def momentOf (v i : Nat) : Moment :=
  let o := 32 * i
  { n := sextNat (fieldOf v o 8) 64, hi := fieldOf v (o + 8) 4, lo := fieldOf v (o + 12) 4, qhi := fieldOf v (o + 16) 4,
    qlo := fieldOf v (o + 20) 4, amax := fieldOf v (o + 24) 4, nans := sextNat (fieldOf v (o + 28) 4) 32 }
def Moment.bytes (m : Moment) : List Byte :=
  signedBytes m.n 8 ++ bytesLE m.hi 4 ++ bytesLE m.lo 4 ++ bytesLE m.qhi 4 ++ bytesLE m.qlo 4 ++ bytesLE m.amax 4 ++
    signedBytes m.nans 4

/-- The exact square of a value. -/
def squareVal : Val → Val
  | .inf _ => .inf false
  | v => mulFin v v

/-- One element (R306). -/
def Moment.add (m : Moment) (x : Nat) : Moment × BitVec 6 :=
  let v := f32.val x
  if v.isNan then ({ m with nans := satS 32 (m.nans + 1) }, 0)
  else
    let (hi, lo, f1) := cadd m.hi m.lo v
    let (qhi, qlo, f2) := cadd m.qhi m.qlo (squareVal v)
    ({ n := satS 64 (m.n + 1), hi := hi, lo := lo, qhi := qhi, qlo := qlo, nans := m.nans,
       amax := f32.minmax true m.amax (x % f32.signBit) }, f1 ||| f2)

/-- MSMERGE of F32 summaries (R296). -/
def Moment.merge (a b : Moment) : Moment × BitVec 6 :=
  let (hi, lo, f1) := cadd a.hi a.lo (pairVal b.hi b.lo)
  let (qhi, qlo, f2) := cadd a.qhi a.qlo (pairVal b.qhi b.qlo)
  ({ n := satS 64 (a.n + b.n), hi := hi, lo := lo, qhi := qhi, qlo := qlo, nans := satS 32 (a.nans + b.nans),
     amax := f32.minmax true a.amax b.amax }, f1 ||| f2)

/-- A value as a fraction. -/
def Val.ratio : Val → Int × Nat
  | .fin neg n e => let (p, q) := scale n 1 e; (if neg then -(p : Int) else p, q)
  | _ => (0, 1)

/-- The mean and the variance of R308, with their flags. -/
def Moment.stats (m : Moment) : (Nat × Nat) × BitVec 6 :=
  let s := pairVal m.hi m.lo
  let q := pairVal m.qhi m.qlo
  let n := Val.ofInt m.n
  if m.n = 0 then ((f32.nanBits, f32.nanBits), 0)
  else
    let (mean, f1) := f32.div 0 s n
    if s.isNan || q.isNan then ((mean, f32.nanBits), f1)
    else if s.isInf && q.isInf && q.neg = (m.n < 0) then ((mean, f32.nanBits), f1 ||| flagInv)
    else if s.isInf then ((mean, 0), f1)
    else if q.isInf then ((mean, if q.neg = (m.n < 0) then f32.infBits else 0), f1)
    else
      let (a, b) := q.ratio
      let (c, d) := s.ratio
      let num := a * m.n * (d * d : Nat) - c * c * (b : Nat)
      if num ≤ 0 then ((mean, 0), f1)
      else
        let (var, f2) := f32.roundFrac 0 false num.toNat (b * (d * d) * (m.n * m.n).toNat)
        ((mean, var), f1 ||| f2)

/-- An I32 moment summary (R294). -/
structure IntMoment where
  n : Int
  sum : Nat
  mn : Int
  mx : Int
  deriving DecidableEq, Repr

def intMomentOf (v i : Nat) : IntMoment :=
  let o := 32 * i
  { n := sextNat (fieldOf v o 8) 64, sum := fieldOf v (o + 8) 8, mn := sextNat (fieldOf v (o + 16) 4) 32,
    mx := sextNat (fieldOf v (o + 20) 4) 32 }
def IntMoment.bytes (m : IntMoment) (rest : List Byte) : List Byte :=
  signedBytes m.n 8 ++ bytesLE m.sum 8 ++ signedBytes m.mn 4 ++ signedBytes m.mx 4 ++ rest
def IntMoment.add (m : IntMoment) (x : Int) : IntMoment :=
  { n := satS 64 (m.n + 1), sum := ((m.sum + x) % (2 : Int) ^ 64).toNat, mn := min m.mn x, mx := max m.mx x }
def IntMoment.merge (a b : IntMoment) : IntMoment :=
  { n := satS 64 (a.n + b.n), sum := (a.sum + b.sum) % 2 ^ 64, mn := min a.mn b.mn, mx := max a.mx b.mx }

/-! ### Log-sum-exp rows (R295, R307) -/

/-- `exp32` of the difference of two elements: VEXP of the rounded difference. -/
def exp32 (x m : Nat) : Nat × BitVec 6 :=
  let (y, f1) := f32.sub 0 (f32.val x) (f32.val m)
  let (r, f2) := sfu 4 f32 y
  (r, f1 ||| f2)

/-- rne32(S · exp32(M − M2)). -/
def lseScale (m s m2 : Nat) : Nat × BitVec 6 :=
  let (e, f1) := exp32 m m2
  let (t, f2) := f32.mul 0 (f32.val s) (f32.val e)
  (t, f1 ||| f2)

/-- `lse_fold` (R295). -/
def lseFold (m s : Nat) (xs : List Nat) : (Nat × Nat) × BitVec 6 :=
  if (m :: xs).any fun x => (f32.val x).isNan then ((f32.nanBits, f32.nanBits), 0)
  else
    let m2 := xs.foldl (f32.minmax true) m
    if m2 = ninf then ((ninf, 0), 0)
    else if m2 = pinf then ((pinf, 0x3F800000), 0)
    else
      let start := if m = ninf then (0, 0) else lseScale m s m2
      let r := xs.foldl (fun (a : Nat × BitVec 6) x =>
        let (e, f1) := exp32 x m2
        let (t, f2) := f32.add 0 (f32.val a.1) (f32.val e)
        (t, a.2 ||| f1 ||| f2)) start
      ((m2, r.1), r.2)

/-- LSEMERGE of one row (R307). -/
def lseMerge (ma sa mb sb : Nat) : (Nat × Nat) × BitVec 6 :=
  if [ma, sa, mb, sb].any fun x => (f32.val x).isNan then ((f32.nanBits, f32.nanBits), 0)
  else
    let m2 := f32.minmax true ma mb
    if m2 = ninf then ((ninf, 0), 0)
    else if m2 = pinf then ((pinf, 0x3F800000), 0)
    else
      let (a, f1) := lseScale ma sa m2
      let (b, f2) := lseScale mb sb m2
      let (t, f3) := f32.add 0 (f32.val a) (f32.val b)
      ((m2, t), f1 ||| f2 ||| f3)

/-! ### The entries (R298 to R300) -/

/-- The lowest of several subcodes. -/
def lowest (l : List (Option Nat)) : Option Nat := (l.filterMap id).foldl (fun a x => some (match a with | none => x | some y => min x y)) none

/-- What an Assayer entry reads: TA's bytes and TB's as numbers, and the data elements. -/
structure Given where
  e : Entry
  a : Nat
  b : Nat
  xs : List Nat
  rows : Nat
  cols : Nat
  type : Nat
  draws : Nat

/-- An Assayer entry. `types` says that TB is a data operand and what it accepts; `check` gives FORMAT subcodes and whether
the entry would write an ENTROPY sketch; `run` the bytes of DT, the flags and the draws made. The words of that REPLAY_ORDER are not
given: the index is the count recorded, in replay the position, the kind free even where an entry stands there (log entry 11). -/
def assay (i : Instr) (f : FL) (s : State) (types : Option (List Nat)) (check : Given → List (Option Nat) × Bool)
    (run : Given → List Byte × BitVec 6 × Nat) : Result :=
  longInstr i f s fun e s =>
    let u := i.uses f
    let p := pairOf i f
    let v : View := { rows := shapeRows e.shape, cols := shapeCols e.shape, type := shapeType e.shape }
    match (match types with | some ts => shapeCheck e.shape v.type (ts.contains v.type) true [v] | none => none) with
    | some sub => .error (shapeCause sub e)
    | none =>
      let size := fun (pair : Bool) => if pair then 4096 else 2048
      let pa := tileRead s f.ta
      let pb := tileRead s f.tb
      let d := s.entryOp f.dt e.edt false
      let given := fun (s : State) =>
        ({ e := e, a := if u.ta then s.mem.readLE pa (size p.2.1) else 0,
           b := if u.tb && types.isNone then s.mem.readLE pb (size p.2.2) else 0,
           xs := if types.isSome then elemsFrom s.mem pb v.type 0 v.count else [],
           rows := v.rows, cols := v.cols, type := v.type, draws := s.draws } : Given)
      .ok { srcs := (if u.ta then pairOps (s.entryOp f.ta e.eta true) p.2.1 else []) ++
                    (if u.tb then pairOps (s.entryOp f.tb e.etb true) p.2.2 else []),
            dsts := pairOps d p.1,
            reads := (if u.ta then [(pa, size p.2.1)] else []) ++
                     (if u.tb then [(pb, if types.isSome then viewBytes v.type v.count else size p.2.2)] else []),
            check := fun s =>
              let (subs, entropy) := check (given s)
              match lowest subs with
              | some sub => some (formatCause sub 0 e)
              | none =>
                let l := s.launch
                if entropy && l.m.replay != 0 then
                  some (replayOrder 0 (if l.m.replay = 1 then l.waybill else l.replay) (unloggedKind (l.waybill + l.replay)))
                else none,
            run := fun s =>
              let (out, fl, draws) := run (given s)
              let part := fun (n : Nat) => ((out.drop (2048 * n)).take 2048).mapIdx fun i b => (i, b)
              { versions := [part 0, part 1], flags := fl, post := fun s => { s with draws := draws } } }

/-- An F32 or BF16 element widened to F32 bits. -/
def widen (c x : Nat) : Nat := if c = 1 then x * 2 ^ 16 else x

/-- One value in every F32 word of a tile. -/
def broadcast (x : Nat) : List Byte := (List.replicate 512 (bytesLE x 4)).flatten

/-- The parts of a block from slot `lo` on, by a function of the slot; the flags joined. -/
def slotsBytes (n : Nat) (slot : Nat → List Byte × BitVec 6) : List Byte × BitVec 6 :=
  let rs := (List.range n).map slot
  (rs.flatMap Prod.fst, rs.foldl (fun a r => a ||| r.2) 0)

/-- SINIT (R301). -/
def execSinit (f : FL) (s : State) : Result :=
  let kind := f.imm.toNat % 16
  let coin := f.imm.toNat / 16 % 4
  assay (.sinit f) f s none (fun _ => ([], kind = 0 && coin = 2)) fun g =>
    let out :=
      if kind = 0 then
        Sketch.bytes { coin := coin, topw := 7, altb := 0,
                       xs := if coin = 1 then (if g.e.xs1 = 0 then 0x2545F4914F6CDD1D#64 else g.e.xs1) else 0,
                       n := 0, nans := 0, mn := pinf, mx := ninf, levels := List.replicate 8 [], seed := 0 }
      else if kind = 1 then hitterBytes [] 0
      else if kind = 2 then registerBytes (List.replicate 2048 0) 0
      else if kind = 3 then zeroBytes 2048
      else if kind = 4 then
        (slotsBytes 64 fun _ =>
          (IntMoment.bytes { n := 0, sum := 0, mn := 2 ^ 31 - 1, mx := -(2 : Int) ^ 31 } (zeroBytes 8), 0)).1
      else (slotsBytes 256 fun _ => (bytesLE ninf 4 ++ zeroBytes 4, 0)).1
    (out, 0, g.draws)

/-- An entry that writes a sketch is checked for ENTROPY in TA. -/
def entropyOf (v : Nat) : Bool := fieldOf v 1 1 % 4 = 2

/-- QADD, QMERGE (R302). -/
def execQadd (f : FL) (s : State) : Result :=
  assay (.qadd f) f s (some typesFloat) (fun g => ([sketchCheck g.a], entropyOf g.a)) fun g =>
    let k := g.xs.foldl (fun k x => k.add (widen g.type x)) (sketchOf g.a g.draws)
    (k.bytes, 0, k.seed)
def execQmerge (f : FL) (s : State) : Result :=
  assay (.qmerge f) f s none (fun g => ([sketchCheck g.a, sketchCheck g.b], entropyOf g.a)) fun g =>
    let k := (sketchOf g.a g.draws).merge (sketchOf g.b 0)
    (k.bytes, 0, k.seed)

/-- QQUANT, QRANK (R303). -/
def execQquant (f : FL) (s : State) : Result :=
  assay (.qquant f) f s none (fun g => ([sketchCheck g.a], false)) fun g =>
    let (x, fl) := (sketchOf g.a 0).quant (g.e.xs1.toNat % 2 ^ 32)
    (broadcast x, fl, g.draws)
def execQrank (f : FL) (s : State) : Result :=
  assay (.qrank f) f s none (fun g => ([sketchCheck g.a], false)) fun g =>
    let (x, fl) := (sketchOf g.a 0).rank (g.e.xs1.toNat % 2 ^ 32)
    (broadcast x, fl, g.draws)

/-- HADD, HMERGE, HTOP (R304). -/
def execHadd (f : FL) (s : State) : Result :=
  assay (.hadd f) f s (some typesNum) (fun g => ([hitterCheck g.a], false)) fun g =>
    let (l, n) := hittersOf g.a
    (hitterBytes (g.xs.foldl (fun l x => hhAdd l x 1 0) l) (satN 64 (n + g.xs.length)), 0, g.draws)
def execHmerge (f : FL) (s : State) : Result :=
  assay (.hmerge f) f s none (fun g => ([hitterCheck g.a, hitterCheck g.b], false)) fun g =>
    let (l, n) := hittersOf g.a
    let (r, m) := hittersOf g.b
    (hitterBytes (r.foldl (fun l e => hhAdd l e.1 e.2.1 e.2.2) l) (satN 64 (n + m)), 0, g.draws)
def execHtop (f : FL) (s : State) : Result :=
  assay (.htop f) f s none (fun g => ([hitterCheck g.a], false)) fun g =>
    let (l, n) := hittersOf g.a
    let keep := l.filter fun e => g.e.xs1.toNat + e.2.2 ≤ e.2.1
    (hitterBytes (sortBy (fun e => -(e.2.1 : Int)) keep) n, 0, g.draws)

/-- DADD, DMERGE, DCEST (R305). -/
def execDadd (f : FL) (s : State) : Result :=
  assay (.dadd f) f s (some typesNum) (fun g => ([registerCheck g.a], false)) fun g =>
    let (rs, n) := registersOf g.a
    (registerBytes (g.xs.foldl dAdd rs) (satN 64 (n + g.xs.length)), 0, g.draws)
def execDmerge (f : FL) (s : State) : Result :=
  assay (.dmerge f) f s none (fun g => ([registerCheck g.a, registerCheck g.b], false)) fun g =>
    let (rs, n) := registersOf g.a
    let (qs, m) := registersOf g.b
    (registerBytes (List.zipWith max rs qs) (satN 64 (n + m)), 0, g.draws)
def execDcest (f : FL) (s : State) : Result :=
  assay (.dcest f) f s none (fun g => ([registerCheck g.a], false)) fun g =>
    (broadcast (estimate (registersOf g.a).1), 0, g.draws)

/-- A slot's own 32 bytes. -/
def slotBytes (v i : Nat) : List Byte := bytesLE (fieldOf v (32 * i) 32) 32

/-- Folds elements into slot `i` of TA (R306). Bytes 0x18 to 0x1F of an I32 slot, which the layout gives as zero and no check tests, are
copied from TA (log entry 90). -/
def foldSlot (v i c : Nat) (xs : List Nat) : List Byte × BitVec 6 :=
  if typeFloat c then
    let (m, fl) := xs.foldl (fun (a : Moment × BitVec 6) x => let (m, f) := a.1.add (widen c x); (m, a.2 ||| f)) (momentOf v i, 0)
    (m.bytes, fl)
  else
    ((xs.foldl (fun (m : IntMoment) x => m.add (intOf c x)) (intMomentOf v i)).bytes (bytesLE (fieldOf v (32 * i + 24) 8) 8), 0)

/-- Element types of MSUM and MSROW (R299). -/
def typesMoment : List Nat := [0, 1, 2, 4, 5, 6, 7]

/-- A row offset above its limit (R300). -/
def offsetCheck (g : Given) (limit : Nat) : Option Nat :=
  if limit < g.e.xs2.toNat + g.rows || 2 ^ 9 ≤ g.e.xs2.toNat then some 51 else none

/-- The elements of row `r`. -/
def rowOf (g : Given) (r : Nat) : List Nat := (g.xs.drop (r * g.cols)).take g.cols

/-- MSUM, MSROW, MSMERGE (R306). -/
def execMsum (f : FL) (s : State) : Result :=
  assay (.msum f) f s (some typesMoment) (fun _ => ([], false)) fun g =>
    let (out, fl) := slotsBytes 64 fun i => if i = f.imm.toNat % 64 then foldSlot g.a i g.type g.xs else (slotBytes g.a i, 0)
    (out, fl, g.draws)
def execMsrow (f : FL) (s : State) : Result :=
  assay (.msrow f) f s (some typesMoment) (fun g => ([offsetCheck g 64], false)) fun g =>
    let o := g.e.xs2.toNat
    let (out, fl) := slotsBytes 64 fun i =>
      if o ≤ i && i < o + g.rows then foldSlot g.a i g.type (rowOf g (i - o)) else (slotBytes g.a i, 0)
    (out, fl, g.draws)
/-- MSMERGE; bytes 0x18 to 0x1F of a slot as `foldSlot` has them (log entry 90). -/
def execMsmerge (f : FL) (s : State) : Result :=
  assay (.msmerge f) f s none (fun _ => ([], false)) fun g =>
    let (out, fl) := slotsBytes 64 fun i =>
      if f.bit 57 then (((intMomentOf g.a i).merge (intMomentOf g.b i)).bytes (bytesLE (fieldOf g.a (32 * i + 24) 8) 8), 0)
      else let (m, fl) := (momentOf g.a i).merge (momentOf g.b i); (m.bytes, fl)
    (out, fl, g.draws)

/-- LSEROW, LSEMERGE (R307). -/
def execLserow (f : FL) (s : State) : Result :=
  assay (.lserow f) f s (some typesFloat) (fun g => ([offsetCheck g 256], false)) fun g =>
    let o := g.e.xs2.toNat
    let (out, fl) := slotsBytes 256 fun i =>
      let m := fieldOf g.a (8 * i) 4
      let t := fieldOf g.a (8 * i + 4) 4
      if o ≤ i && i < o + g.rows then
        let (r, fl) := lseFold m t ((rowOf g (i - o)).map (widen g.type))
        (bytesLE r.1 4 ++ bytesLE r.2 4, fl)
      else (bytesLE m 4 ++ bytesLE t 4, 0)
    (out, fl, g.draws)
def execLsemerge (f : FL) (s : State) : Result :=
  assay (.lsemerge f) f s none (fun _ => ([], false)) fun g =>
    let (out, fl) := slotsBytes 256 fun i =>
      let (r, fl) := lseMerge (fieldOf g.a (8 * i) 4) (fieldOf g.a (8 * i + 4) 4) (fieldOf g.b (8 * i) 4) (fieldOf g.b (8 * i + 4) 4)
      (bytesLE r.1 4 ++ bytesLE r.2 4, fl)
    (out, fl, g.draws)

/-- SREAD (R308): 32 bytes, the rest of DT keeps its data. -/
def execSread (f : FL) (s : State) : Result :=
  assay (.sread f) f s none (fun _ => ([], false)) fun g =>
    let i := f.imm.toNat % 64
    if f.bit 57 then
      let m := intMomentOf g.a i
      (signedBytes m.n 8 ++ bytesLE (narrow 2 (f.sat = 1) (sextNat m.sum 64)) 4 ++ signedBytes m.mn 4 ++
        signedBytes m.mx 4 ++ zeroBytes 12, 0, g.draws)
    else
      let m := momentOf g.a i
      let (n, f1) := f32.round 0 (Val.ofInt m.n)
      let ((mean, var), f2) := m.stats
      (bytesLE n 4 ++ bytesLE mean 4 ++ bytesLE var 4 ++ bytesLE m.amax 4 ++ signedBytes m.nans 4 ++ bytesLE m.hi 4 ++
        zeroBytes 8, f1 ||| f2, g.draws)

end Sys2Proof.Machine
end

