-- ==== Sys2Proof/Machine/Matrix.lean ====
section
/-! DEFINITION. The matrix engine (R257 to R281): the format word, the checks at the queue head, block arithmetic, the
integer channel, and the accumulators' moves. -/

namespace Sys2Proof.Machine

/-! ### Accumulators (R264): word `1024·a + 32·m + n` -/

/-- The 1,024 words of an accumulator. -/
def Stream.accWords (t : Stream) (a : Nat) : List Nat :=
  (List.range 1024).map fun i => (tget 0 t.acc (1024 * a + i)).toNat

/-- Puts 1,024 words into an accumulator. -/
def Stream.setAcc (t : Stream) (a : Nat) (ws : List Nat) : Stream :=
  let new := (ws.take 1024).mapIdx fun i w => (1024 * a + i, BitVec.ofNat 32 w)
  { t with acc := t.acc.filter (fun e => e.1 < 1024 * a) ++ new.filter (fun e => e.2 != 0) ++
                  t.acc.filter (fun e => 1024 * a + 1024 ≤ e.1) }

def Stream.zeroAcc (t : Stream) (a : Nat) : Stream :=
  { t with acc := t.acc.filter fun e => e.1 / 1024 != a }

def State.withAcc (s : State) (a : Nat) (ws : List Nat) : State := s.setSt (s.st.setAcc a ws)

/-- ACC number: SUB[1:0]. -/
def accNo (f : FL) : Nat := f.sub.toNat % 4

/-! ### Block arithmetic (R271, R272) -/

/-- Exact product of two values that are no NaN and not a zero times an infinity. -/
def mulVal (a b : Val) : Val :=
  if a.isInf || b.isInf then .inf (a.neg != b.neg) else mulFin a b

/-- `block_value` (R272). -/
def blockValue (a b : List Val) (sa sb : Val) : Val × BitVec 6 :=
  let ps := a.zip b
  if a.any Val.isNan || b.any Val.isNan || sa.isNan || sb.isNan then (.nan, 0)
  else if sa.isInf || sb.isInf then (.nan, flagInv)
  else if ps.any (fun p => (p.1.isZero && p.2.isInf) || (p.1.isInf && p.2.isZero)) then (.nan, flagInv)
  else
    let xs := ps.map fun p => mulVal p.1 p.2
    let infs := xs.filter Val.isInf
    if infs.any Val.neg && infs.any (fun v => !v.neg) then (.nan, flagInv)
    else match infs with
      | v :: _ =>
        if sa.isZero || sb.isZero then (.nan, flagInv) else (.inf ((v.neg != sa.neg) != sb.neg), 0)
      | [] => (mulFin (mulFin (exactSum 0 xs) sa) sb, 0)

/-- One block's update of an accumulator word: both roundings under RNE (R271). -/
def blockStep (w : Nat) (a b : List Val) (sa sb : Val) : Nat × BitVec 6 :=
  let (v, f1) := blockValue a b sa sb
  let (r, f2) := f32.round 0 v
  let (x, f3) := f32.add 0 (f32.val w) (f32.val r)
  (x, f1 ||| f2 ||| f3)

/-- The blocks of one result, kb ascending. -/
def blocksOf (w : Nat) (fl : BitVec 6) : List (List Val × List Val × Val × Val) → Nat × BitVec 6
  | [] => (w, fl)
  | (a, b, sa, sb) :: r => let (x, f) := blockStep w a b sa sb; blocksOf x (fl ||| f) r

/-- Every result from A's and B's blocks and scales: `as.[m].[kb]`, `bs.[n].[kb]`. -/
def blockProduct (acc : List Nat) (as bs : List (List (List Val × Val))) : List Nat × BitVec 6 :=
  joinFlags (acc.mapIdx fun i w =>
    let a := as.getD (i / 32) []
    let b := bs.getD (i % 32) []
    blocksOf w 0 ((a.zip b).map fun p => (p.1.1, p.2.1, p.1.2, p.2.2)))

/-- The value 1.0. -/
def one : Val := .fin false 1 0

/-- A BF16 operand's rows, one block each (R263). -/
def bfRows (m : Memory) (a : Nat) : List (List (List Val × Val)) :=
  (List.range 32).map fun r => [((elemsFrom m a 1 (32 * r) 32).map bf16.val, one)]

/-- A CB4 operand's rows of four blocks, with the scales at `sc` if there are any (R263). -/
def cbRows (m : Memory) (a : Nat) (book : BitVec 256) (sc : Option Nat) : List (List (List Val × Val)) :=
  (List.range 32).map fun r => (List.range 4).map fun kb =>
    ((elemsFrom m a 8 (128 * r + 32 * kb) 32).map (cbEntry book),
     match sc with | none => one | some p => bf16.val (elemAt m p 1 (4 * r + kb)))

/-- The integer channel (R274). -/
def intStep (sat : Bool) (w : Nat) (ab : List (Int × Int)) : Nat :=
  let s := ab.foldl (fun s p => sextNat (narrow 2 sat (s + p.1 * p.2)) 32) (sextNat w 32)
  (s % 2 ^ 32).toNat

def i8Row (m : Memory) (a r : Nat) : List Int := (elemsFrom m a 6 (64 * r) 64).map (intOf 6)

/-! ### The format word and the queue-head checks (R266 to R270) -/

def fwA (w : Word) : Nat := (w.extractLsb' 0 4).toNat
def fwB (w : Word) : Nat := (w.extractLsb' 4 4).toNat
def fwAcb (w : Word) : Nat := (w.extractLsb' 8 6).toNat
def fwBcb (w : Word) : Nat := (w.extractLsb' 14 6).toNat
def fwScales (w : Word) : Bool := w.getLsbD 20
def fwAccmode (w : Word) : Nat := (w.extractLsb' 21 2).toNat
def fwIsat (w : Word) : Bool := w.getLsbD 23

/-- The lowest FORMAT subcode of a word: `fmts` says which format pairs the instruction takes, `scales` whether it may and
does read scales, `sat` the ISAT it needs, `drained` whether it lacks a drained accumulator. -/
def formatCheck (w : Word) (ncb : Nat) (fmts : Nat → Nat → Bool) (scales sat drained : Bool) : Option Nat :=
  let badBook := fun (c n : Nat) => if c = 1 then ncb ≤ n else n != 0
  if 3 ≤ fwA w || 3 ≤ fwB w || w.extractLsb' 28 4 != 0 then some 1
  else if !fmts (fwA w) (fwB w) then some 2
  else if badBook (fwA w) (fwAcb w) || badBook (fwB w) (fwBcb w) then some 3
  else if fwScales w != scales || (scales && fwA w != 1) then some 4
  else if 2 ≤ fwAccmode w then some 5
  else if fwIsat w != sat then some 7
  else if drained then some 8
  else none

/-- Tiles in pairwise different bank groups (R270). -/
def banksDiffer : List (BitVec 16) → Bool
  | [] => true
  | t :: ts => ts.all (fun u => topTile u / 32 != topTile t / 32) && banksDiffer ts

/-- Pops the bound word: FQ loses its head, the FQ position counts it (R114, R268), and the start is traced (R413). NANCODE is
carried into the trace (R266) in ITER, which names no loop there (log entry 81). -/
def State.popFormat (s : State) (e : Entry) (w : Word) : State :=
  (s.setSt { s.st with fq := s.st.fq.tail, fqpos := s.st.fqpos + 1 }).trace s.cur 5 0 0 (w.toNat / 2 ^ 24 % 16) (w.toNat / 2 ^ 32) e.pc.toNat []

/-- Appending binds the oldest unbound word, or marks the entry unbound (R268). -/
def bindWord (t : Stream) (e : Entry) : Stream × Entry :=
  if t.u = 0 then (t, { e with unbound := true }) else ({ t with u := t.u - 1 }, e)

/-- A popping instruction: its checks in the order of R270, then its start. `srcs` are its tiles with their captured counts
and the bytes it reads of each; `banks` those that the bank test compares; `run` computes the accumulator from its words. -/
def matrixPop (i : Instr) (f : FL) (s : State) (banks : List (BitVec 16))
    (check : State → Word → Option Nat) (srcs : List (BitVec 16 × (Entry → BitVec 16) × Nat))
    (run : Word → State → List Nat → List Nat × BitVec 6) : Result :=
  longWith i f bindWord s fun unit e s =>
    if !banksDiffer banks then s.entryTrap unit e { code := 2, args := [e.w0.toNat, e.w1.toNat] }
    else if e.unbound then s.entryTrap unit e { code := 3, args := [e.w0.toNat, e.w1.toNat] }
    else
      let w := s.st.fq.headD 0
      match check s w with
      | some sub => s.entryTrap unit e (formatCause sub w.toNat e)
      | none =>
        s.startEntry unit e (f.sk = 1) 0
          { srcs := srcs.map fun t => s.entryOp t.1 (t.2.1 e) true,
            dsts := [],
            reads := srcs.map fun t => (tileRead s t.1, t.2.2),
            always := fun s => s.popFormat e w,
            run := fun s =>
              let acc := if fwAccmode w = 1 then List.replicate 1024 0 else s.st.accWords (accNo f)
              let (out, flags) := run w s acc
              { flags := flags, post := fun s => s.withAcc (accNo f) out } }

/-! ### The instructions (R275 to R281) -/

/-- The codebook of the acting stream's core. -/
def State.bookOf (s : State) (n : Nat) : BitVec 256 := tget 0 s.codebooks (s.coreKeyOf s.cur * 64 + n)

/-- MMA (R271, R276). -/
def execMma (f : FL) (s : State) : Result :=
  let sc := f.bit 57
  matrixPop (.mma f) f s (if sc then [f.ta, f.tb, f.tc] else [f.ta, f.tb])
    (fun s w => formatCheck w s.launch.m.ncb (fun a b => (a = 0 && b = 0) || (a = 1 && b = 1)) sc false false)
    ([(f.ta, Entry.eta, 2048), (f.tb, Entry.etb, 2048)] ++ (if sc then [(f.tc, Entry.etc, 512)] else []))
    fun w s acc =>
      let a := tileRead s f.ta
      let b := tileRead s f.tb
      let c := tileRead s f.tc
      if fwA w = 0 then blockProduct acc (bfRows s.mem a) (bfRows s.mem b)
      else
        blockProduct acc (cbRows s.mem a (s.bookOf (fwAcb w)) (if sc then some c else none))
          (cbRows s.mem b (s.bookOf (fwBcb w)) (if sc then some (c + 256) else none))

/-- A of MMACH (R277): the last drained accumulator rounded to BF16, row by row. -/
def chainRows (acc : List Nat) : List (List (List Val × Val)) × BitVec 6 :=
  let (ws, fl) := joinFlags (acc.map fun w => bf16.round 0 (f32.val w))
  ((List.range 32).map fun r => [(((ws.drop (32 * r)).take 32).map bf16.val, one)], fl)

/-- MMACH (R277). -/
def execMmach (f : FL) (s : State) : Result :=
  matrixPop (.mmach f) f s []
    (fun s w => formatCheck w s.launch.m.ncb (fun a b => a = 0 && b = 0) false false s.st.lastDrained.isNone)
    [(f.tb, Entry.etb, 2048)]
    fun _ s acc =>
      let (a, fl) := chainRows (s.st.accWords ((s.st.lastDrained.getD 0).toNat))
      let (out, fl') := blockProduct acc a (bfRows s.mem (tileRead s f.tb))
      (out, fl ||| fl')

/-- MMAI (R274). -/
def execMmai (f : FL) (s : State) : Result :=
  matrixPop (.mmai f) f s [f.ta, f.tb]
    (fun s w => formatCheck w s.launch.m.ncb (fun a b => a = 2 && b = 2) false (f.sat = 1) false)
    [(f.ta, Entry.eta, 2048), (f.tb, Entry.etb, 2048)]
    fun _ s acc =>
      let as := (List.range 32).map (i8Row s.mem (tileRead s f.ta))
      let bs := (List.range 32).map (i8Row s.mem (tileRead s f.tb))
      (acc.mapIdx fun i w => intStep (f.sat = 1) w ((as.getD (i / 32) []).zip (bs.getD (i % 32) [])), 0)

/-- Words `first` to `first + n − 1` as the bytes of a tile. -/
def wordBytes (ws : List Nat) (first n : Nat) : List (Nat × Byte) := packBytes 4 0 ((ws.drop first).take n)

/-- MDRAIN (R278): a pair for F32 and I32. -/
def execMdrain (f : FL) (s : State) : Result :=
  longInstr (.mdrain f) f s fun e s =>
    let d := s.entryOp f.dt e.edt false
    let wide := (pairOf (.mdrain f) f).1
    .ok { srcs := [], dsts := if wide then [d, d.twin] else [d],
          run := fun s =>
            let ws := s.st.accWords (accNo f)
            let (vs, fl) :=
              if wide then ([wordBytes ws 0 512, wordBytes ws 512 512], 0)
              else if f.opxType = 1 then
                let (xs, fl) := joinFlags (ws.map fun w => bf16.round e.rm (f32.val w))
                ([packBytes 2 0 xs], fl)
              else ([packBytes 1 0 (ws.map fun w => narrow 6 (f.sat = 1) (sextNat w 32))], 0)
            { versions := vs, flags := fl,
              post := fun s =>
                let t := { s.st with lastDrained := some (BitVec.ofNat 2 (accNo f)) }
                s.setSt (if f.bit 61 then t.zeroAcc (accNo f) else t) } }

/-- MZERO (R279). -/
def execMzero (f : FL) (s : State) : Result :=
  longInstr (.mzero f) f s fun _ _ =>
    .ok { srcs := [], dsts := [], run := fun _ => { post := fun s => s.setSt (s.st.zeroAcc (accNo f)) } }

/-- MLDACC (R280). -/
def execMldacc (f : FL) (s : State) : Result :=
  longInstr (.mldacc f) f s fun e s =>
    let a := s.entryOp f.ta e.eta true
    let wide := (pairOf (.mldacc f) f).2.1
    let p := tilePlace a.key
    .ok { srcs := if wide then [a, a.twin] else [a], dsts := [],
          reads := [(p, if wide then 4096 else if f.opxType = 1 then 2048 else 1024)],
          run := fun s =>
            let ws :=
              if wide then elemsFrom s.mem p 0 0 1024
              else if f.opxType = 1 then
                (elemsFrom s.mem p 1 0 1024).map fun b => if (bf16.val b).isNan then f32.nanBits else b * 2 ^ 16
              else (elemsFrom s.mem p 6 0 1024).map fun b => (sextNat b 8 % 2 ^ 32).toNat
            { post := fun s => s.withAcc (accNo f) ws } }

/-- CBLOAD (R281): at once on the stream's own core, on the others when it completes. -/
def execCbload (f : FL) (s : State) : Result :=
  longInstr (.cbload f) f s fun e s =>
    let n := (f.imm.extractLsb' 0 6).toNat
    let o := e.xs1.toNat
    if s.launch.m.ncb ≤ n then .error (formatCause 3 0 e)
    else if o % 32 != 0 || 2016 < o then .error (formatCause 9 0 e)
    else
      let a := s.entryOp f.ta e.eta true
      .ok { srcs := [a], dsts := if f.bit 57 then [s.entryOp f.dt e.edt false] else [],
            reads := [(tilePlace a.key + o, 32)],
            run := fun s =>
              let book := BitVec.ofNat 256 (s.mem.readLE (tilePlace a.key + o) 32)
              { codebook := some (n, book), versions := [[]],
                post := fun s => { s with codebooks := tset 0 s.codebooks (s.coreKeyOf s.cur * 64 + n) book } } }

end Sys2Proof.Machine
end

