-- ==== Sys2Proof/Machine/TileOps.lean ====
section
/-! DEFINITION. The count instructions and the element moves of the TILE opcode (R150 to R155), the cursors (R156), the
format queue (R268, R269), SHAPE (R162) and the block hash (R317). -/

namespace Sys2Proof.Machine

/-! ### Versions (R151, R152) -/

/-- TWAIT (R151): the skip flag of the version admitted goes to PD. -/
def execTwait (f : FK) (s : State) : Result :=
  tileInstr (.twait f) f.top true false false s fun o s => done (s.pw f.pd.toNat (s.tile o.key).skip)
/-- TDONE (R151): retires without reading. -/
def execTdone (f : FK) (s : State) : Result :=
  tileInstr (.tdone f) f.top true false false s fun _ s => done s
/-- TSKIP (R152): a skipped version, the data unchanged. -/
def execTskip (f : FK) (s : State) : Result :=
  tileInstr (.tskip f) f.top false true false s fun o s =>
    done (s.finishWrite o.key [] f.q true (some (s.writerOf s.cur)))
/-- TSIG (R152): a real version, the data unchanged. -/
def execTsig (f : FK) (s : State) : Result :=
  tileInstr (.tsig f) f.top false true false s fun o s =>
    done (s.finishWrite o.key [] f.q false (some (s.writerOf s.cur)))

/-! ### Quotas, resets and the state word (R153, R154) -/

/-- The STALE_VERSION of a non-waiting instruction; the expected count is that of its operand. -/
def State.staleNow (s : State) (sub : Nat) (o : Operand) (w0 : Word) : Result :=
  s.trap { code := 6, sub := sub, args := s.tileArgs o w0 }

/-- TQUOTA (R110, R153): the writer of the current version is this stream, or unknown. A NONE operand expects no count: the
record's word for it is free (log entry 11). -/
def execTquota (f : FK) (s : State) : Result :=
  tileGuard (.tquota f) f.top s fun s =>
    let o := s.operand f.top false
    let t := s.tile o.key
    if t.writer = none || t.writer = some (s.writerOf s.cur) then done (s.setTile o.key { t with quota := f.q })
    else
      let (v, s) := s.draw
      s.staleNow 5 { o with exp := v.setWidth 16 } (Instr.tquota f).word0

/-- A queue's head is being tested on a tile. -/
def Queue.headNames (q : Queue) (key : Nat) : Bool :=
  match q.entries with | e :: _ => e.names.contains key | [] => false

/-- An operand of a stream waits on a tile: the instruction at issue, or the head of a queue (R110). -/
def Stream.waitsOn (t : Stream) (key : Nat) : Bool :=
  !t.stopped && ((match t.wait with | some w => w.tiles.contains key | none => false) ||
    t.matrixQ.headNames key || t.vectorQ.headNames key || t.porterQ.headNames key || t.assayerQ.headNames key)

/-- The condition of TRESET (R110): no operand waits, nothing is in flight, the quota is 0 or 15. -/
def State.resettable (s : State) (key : Nat) : Bool :=
  let t := s.tile key
  t.inflight = 0 && (t.quota = 0 || t.quota = 15) && !(List.range s.launch.m.streams).any fun i => (s.stream (s.launchNo * 4096 + i)).waitsOn key

/-- TRESET (R110, R153). -/
def execTreset (f : FK) (s : State) : Result :=
  tileGuard (.treset f) f.top s fun s =>
    let o := s.operand f.top false
    let e := if o.mode = 0 then 0 else o.exp
    if s.resettable o.key then
      let t := s.tile o.key
      done (s.setTile o.key { t with count := e, quota := f.q, skip := false, writer := none })
    else s.staleNow 4 { o with exp := e } (Instr.treset f).word0

/-- A tile's count, quota and skip as TSTAT shows them (R154). -/
def Tile.statWord (t : Tile) : Word :=
  BitVec.ofNat 64 (t.count.toNat + t.quota.toNat * 2 ^ 16 + (if t.skip then 2 ^ 20 else 0))

/-- TSTAT (R154). -/
def execTstat (f : FK) (s : State) : Result :=
  tileGuard (.tstat f) f.top s fun s => done (s.xw f.xd (s.tile (s.operand f.top false).key).statWord)

/-! ### Element moves (R155) -/

/-- The SHAPE cause of an element move, if the view or the index is bad. -/
def elemCause (shape index w0 : Word) : Option Cause :=
  let c := shapeType shape
  let v : View := { rows := shapeRows shape, cols := shapeCols shape, type := c }
  match shapeCheck shape c true true [v] with
  | some sub => some { code := 5, sub := sub, args := [w0.toNat, 0, shape.toNat] }
  | none => if v.count ≤ index.toNat then some { code := 5, sub := 5, args := [w0.toNat, 0, shape.toNat] } else none

/-- The register value of an element (R155): integers extended by their sign, the rest by zeros. -/
def elemWord (c b : Nat) : Word := if 2 ≤ c && c < 8 then BitVec.ofInt 64 (intOf c b) else BitVec.ofNat 64 b

/-- TGET (R155). -/
def execTget (f : FK) (s : State) : Result :=
  tileGuard (.tget f) f.top s fun s =>
    match elemCause s.st.shape (s.xr f.xa) (Instr.tget f).word0 with
    | some c => s.trap c
    | none =>
      let c := shapeType s.st.shape
      let i := (s.xr f.xa).toNat
      let pc := s.st.pc
      tileStart (.tget f) f.top true false true s fun o s =>
        let (b, n) := elemSpan c i 1
        if s.poisoned (tilePlace o.key + b) n then .next (s.consume s.cur pc (tilePlace o.key + b))
        else
          let x := elemAt s.mem (tilePlace o.key) c i
          done ((s.takeMark o.key).xw f.xd (elemWord c x))

/-- TINS (R155): one element, as a whole new version. -/
def execTins (f : FK) (s : State) : Result :=
  tileGuard (.tins f) f.top s fun s =>
    match elemCause s.st.shape (s.xr f.xa) (Instr.tins f).word0 with
    | some c => s.trap c
    | none =>
      let c := shapeType s.st.shape
      let i := (s.xr f.xa).toNat
      tileStart (.tins f) f.top false true false s fun o s =>
        let x := (s.xr f.xd).toNat % 2 ^ typeBits c
        done (s.finishWrite o.key (storeElems s.mem (tilePlace o.key) c i [x]) f.q false (some (s.writerOf s.cur)))

/-! ### Cursors (R156) -/

/-- KSET, KADD and both directions of KMOVX. -/
def execKset (f : FI) (s : State) : Result :=
  issue f.g s fun s => done (s.setSt (s.st.kw (f.xd.toNat % 16) (f.imm.setWidth 16)))
def execKadd (f : FI) (s : State) : Result :=
  issue f.g s fun s =>
    let k := f.xd.toNat % 16
    done (s.setSt (s.st.kw k (s.st.kr k + f.imm.setWidth 16)))
def execKmovx (f : FI) (s : State) : Result :=
  issue f.g s fun s =>
    if f.imm = 0 then done (s.xw f.xd ((s.st.kr (f.xa.toNat % 16)).setWidth 64))
    else done (s.setSt (s.st.kw (f.xd.toNat % 16) ((s.xr f.xa).setWidth 16)))

/-! ### The format queue and SHAPE (R268, R269, R162) -/

/-- A push (R268): a full FQ stalls the stream. -/
def State.fqPush (s : State) (w : Word) : Result :=
  if Config.fqDepth ≤ s.st.fq.length then s.stall
  else done (s.setSt { s.st with fq := s.st.fq ++ [w], u := s.st.u + 1 })

/-- FQPUSH, FQPUSHI. -/
def execFqpush (f : FI) (s : State) : Result := issue f.g s fun s => s.fqPush (s.xr f.xa)
def execFqpushi (f : FI) (s : State) : Result := issue f.g s fun s => s.fqPush (f.imm.setWidth 64)

/-- An entry of MMA, MMACH or MMAI: opcodes 0xE0 and 0xE1 (R275). -/
def Entry.pops (e : Entry) : Bool := e.w0.toNat % 256 = 0xE0 || e.w0.toNat % 256 = 0xE1

/-- FQCLR (R269): every such entry has started; then FQ is empty. -/
def execFqclr (f : FI) (s : State) : Result :=
  issue f.g s fun s =>
    if s.st.matrixQ.entries.any Entry.pops then s.stall else done (s.setSt { s.st with fq := [], u := 0 })

/-- SHAPESET, SHAPEI. -/
def execShapeset (f : FI) (s : State) : Result := issue f.g s fun s => done (s.setSt { s.st with shape := s.xr f.xa })
def execShapei (f : FI) (s : State) : Result := issue f.g s fun s => done (s.setSt { s.st with shape := f.imm.setWidth 64 })

/-! ### The block hash (R317) -/

def bhashStep (x t : Word) : Word :=
  let x := (x ^^^ t) * 0xB49E62F107ACD355
  x ^^^ (x >>> 31)

/-- `bhash`. -/
def bhash (h : Word) (tok : List Word) : Word :=
  let x := tok.foldl bhashStep (h ^^^ 0x5F2A81D4C36E0B19)
  let x := (x ^^^ (x >>> 29)) * 0x93C467E37DB0C7A5
  x ^^^ (x >>> 32)

/-- BHASH (R317). -/
def execBhash (f : FK) (s : State) : Result :=
  tileGuard (.bhash f) f.top s fun s =>
    let r := (s.xr f.xa).toNat
    if 32 ≤ r then s.trap { code := 5, sub := 5, args := [(Instr.bhash f).word0.toNat, 0, s.st.shape.toNat] }
    else
      let pc := s.st.pc
      tileStart (.bhash f) f.top true false true s fun o s =>
        let a := tilePlace o.key + 64 * r
        if s.poisoned a 64 then .next (s.consume s.cur pc a)
        else
          let tok := (List.range 16).map fun j => BitVec.ofNat 64 (s.mem.readLE (a + 4 * j) 4)
          done ((s.takeMark o.key).xw f.xd (bhash (s.xr f.xd) tok))

end Sys2Proof.Machine
end

