-- ==== Sys2Proof/Machine/LoadStore.lean ====
section
/-! DEFINITION. The sequencer's loads and stores of the six spaces (R214 to R223), the atomics (R355 to R358) and CLAIM (R359
to R362). Each makes its checks at issue; then it performs at once, or it stays pending while its stream goes on (R218, R326),
and LOAD_DATA_ARRIVES performs it. -/

namespace Sys2Proof.Machine

/-- `ea` (R82, R216). -/
def State.ea (s : State) (xa xi : BitVec 6) (sh : BitVec 2) (disp : BitVec 16) : Word :=
  s.xr xa + (s.xr xi <<< sh.toNat) + disp.signExtend 64

/-! ### Results -/

/-- REMERR is set, and REMOTE traps when TEREM is 1; the cut is at the first instruction not yet issued (R223). -/
def State.remoteError (s : State) (pc : Word) (addr sp : Nat) (store : Bool) : Result :=
  let s := s.setSt { s.st with ssr := s.st.ssr ||| 4 }
  if terem s.st.ssr then s.trapAfter pc { code := 17, args := (accessCause 17 addr sp store false).args } else .next s

/-- In replay a CLAIM or slot claim waits at issue for its turn, and for its stream's earlier ones (R362, R419). -/
def State.awaitsTurn (s : State) : Bool :=
  s.launch.m.replay = 2 && (s.st.logsPending || !s.turnCame s.launchNo (streamId s.cur))

/-- The acting stream's access has passed its checks and takes its place in program order: it performs at once, unless its turn
leaves it for later, or it follows an access or a fence that has not completed, or waits for a watermark or a full log. -/
def State.issueAccess (s : State) (p : Access) : Result :=
  let t := s.st
  if s.late || t.blocked t.accessNo p || !s.mayPerform s.cur p then
    done (s.setSt { t with accesses := tput t.accesses t.accessNo p, accessNo := t.accessNo + 1 })
  else match s.perform s.cur p with
    | .done v fl s =>
      let s := s.setSt (s.st.landed p v)
      if fl = 0 then done s else s.finishFlags fl
    | .poison place => .next (s.consume s.cur p.pc place)
    | .waits i => s.waitTurn i
    | .stop c => s.logStop c

/-- A CLAIM or slot claim takes its place, in replay in its turn. -/
def State.issueLogged (s : State) (p : Access) : Result :=
  if s.awaitsTurn then s.waitTurn s.launch.replay else (s.setSt { s.st with wait := none }).issueAccess p

/-- The acting stream's instruction stays at issue, with the checks of loads at some places passed, which a watermark holds (R205,
R218). -/
def State.passedAt (s : State) (places : List Nat) : Result :=
  match places with
  | [] => s.stall
  | ps => .next (s.setSt { s.st with passed := s.st.passed ++ ps.filter fun p => !s.st.passed.contains p })

/-- An access that the acting stream's instruction makes as a part of it: the instruction waits until it may perform. -/
def State.partAccess (s : State) (p : Access) (body : Nat → State → Result) : Result :=
  if s.st.blocked s.st.accessNo p || !s.mayPerform s.cur p then
    s.passedAt (match p.todo with | .load (some _) => p.places | _ => [])
  else match s.perform s.cur p with
    | .done v _ s => body v s
    | .poison place => .next (s.consume s.cur p.pc place)
    | .waits i => s.waitTurn i
    | .stop c => s.logStop c

/-! ### The checks (R218) -/

/-- Alignment, then the space's rule, bounds, translation and ownership, in order, for the acting stream or as `who`; the access
performs in `body`. -/
def accessInstr (sp n : Nat) (a : Word) (load store : Bool) (s : State) (remote : State → Result)
    (body : Nat → Option Leaf → Option (Nat × Nat) → State → Result) (who : Who := seqWho s.cur) : Result :=
  if a.toNat % n != 0 then s.trap (accessCause 15 a.toNat sp store false)
  else match s.locate who sp a.toNat n load store with
    | (.cause c, s) => s.trap c
    | (.page asid va, s) => s.waitPage { asid := asid, va := va, space := sp, store := store, fetch := false, f := 0 }
    | (.remote, s) => remote s
    | (.ok place leaf wm, s) => body place leaf wm s

/-! ### Loads (R219) -/

def accessSize (f : FM) : Nat := 2 ^ f.sz.toNat

/-- The access that a load or store of format M makes. -/
def memAccess (f : FM) (sp : Nat) (a pc : Word) (places : List Nat) (leaf : Option Leaf) (todo : Todo) : Access :=
  { xt := f.xt, n := accessSize f, sx := f.sx = 1, cls := f.cls, pc := pc, addr := a, space := sp, places := places, leaf := leaf,
    cp := f.cp, sem := f.sem, scope := f.scope, todo := todo, failed := false }

/-- A load from the space coded `sp`. -/
def loadInstr (sp : Nat) (f : FM) (s : State) : Result :=
  issue f.g s fun s =>
    let a := s.ea f.xa f.xi f.sh f.disp
    let pc := s.st.pc
    accessInstr sp (accessSize f) a true false s
      (fun s => ((s.setSt (s.st.landOnes f.xt (accessSize f))).advance 8).remoteError pc a.toNat sp false)
      fun place leaf wm s => s.issueAccess (memAccess f sp a pc [place] leaf (.load wm))

/-- LDM, LDS, LDC, LDD, LDX, LDH. -/
def execLdm (f : FM) (s : State) : Result := loadInstr 0 f s
def execLds (f : FM) (s : State) : Result := loadInstr 1 f s
def execLdc (f : FM) (s : State) : Result := loadInstr 2 f s
def execLdd (f : FM) (s : State) : Result := loadInstr 3 f s
def execLdx (f : FM) (s : State) : Result := loadInstr 4 f s
def execLdh (f : FM) (s : State) : Result := loadInstr 5 f s

/-! ### Stores (R219) -/

/-- The data of a store: XT, with XT+1 as the high half of a pair. -/
def Stream.storeData (t : Stream) (xt : BitVec 6) (n : Nat) : List Byte :=
  if n = 16 then bytesLE (t.xr xt).toNat 8 ++ bytesLE (t.xr (xt + 1)).toNat 8 else bytesLE (t.xr xt).toNat n

/-- A store to the space coded `sp`. -/
def storeInstr (sp : Nat) (f : FM) (s : State) : Result :=
  issue f.g s fun s =>
    let a := s.ea f.xa f.xi f.sh f.disp
    let n := accessSize f
    let pc := s.st.pc
    accessInstr sp n a false true s (fun s => (s.dropStore.advance 8).remoteError pc a.toNat sp true)
      fun place leaf _ s =>
        match (if sp = 0 then s.widxAt place n else none) with
        | some q => (s.refuseWidx q).trap (accessCause 13 a.toNat sp true false)
        | none => s.issueAccess (memAccess f sp a pc [place] leaf (.store (s.st.storeData f.xt n)))

/-- STM, STS, STD, STX, STH. -/
def execStm (f : FM) (s : State) : Result := storeInstr 0 f s
def execSts (f : FM) (s : State) : Result := storeInstr 1 f s
def execStd (f : FM) (s : State) : Result := storeInstr 3 f s
def execStx (f : FM) (s : State) : Result := storeInstr 4 f s
def execSth (f : FM) (s : State) : Result := storeInstr 5 f s

/-- The targets of a multicast store (R222): one in each slice that the mask names, in ascending order. -/
def multicastTargets (a mask : Word) : List Nat :=
  let u := a.toNat / 2 ^ 11 % 2 ^ 11
  let r := u - u % 8
  ((List.range 8).filter fun i => mask.getLsbD i).map fun i => a.toNat - u * 2048 + (r + i) * 2048

/-- Every target is checked before any is written. -/
def State.multicastPlaces (s : State) (n : Nat) : List Nat → Except Cause (List Nat)
  | [] => .ok []
  | t :: ts =>
    if t % n != 0 then .error (accessCause 15 t 2 true false)
    else match (s.locate (seqWho s.cur) 2 t n false true).1 with
      | .ok place _ _ => (s.multicastPlaces n ts).map fun ps => place :: ps
      | .cause c => .error c
      | _ => .error (accessCause 14 t 2 true false)

/-- STC (R219, R222): a plain store to the serai, or with MC a multicast into the slices that the mask in XI names. -/
def execStc (f : FM) (s : State) : Result :=
  if f.sx = 0 then storeInstr 2 f s
  else issue f.g s fun s =>
    let a := s.ea f.xa 0 0 f.disp
    match s.multicastPlaces (accessSize f) (multicastTargets a (s.xr f.xi)) with
    | .error c => s.trap c
    | .ok ps => s.issueAccess (memAccess f 2 a s.st.pc ps none (.store (s.st.storeData f.xt (accessSize f))))

/-! ### Atomics (R356) -/

/-- The access that an atomic of format X makes. -/
def State.atomicAccess (s : State) (f : FX) (sp n : Nat) (a pc : Word) (place : Nat) : Access :=
  { xt := f.xt, n := n, sx := false, cls := f.cls, pc := pc, addr := a, space := sp, places := [place], leaf := none, cp := 0,
    sem := f.sem, scope := f.scope, failed := false,
    todo := .atomic f.aop.toNat ((s.xr f.xi).toNat % 2 ^ (8 * n)) ((s.xr f.xt).toNat % 2 ^ (8 * n)) }

/-- An atomic on the WIDX word of queue `q` (R38, R357): an add from a stream of the queue's ASID is a slot claim, logged or in its
replay turn (R419); another is refused and counted. -/
def slotClaim (f : FX) (q : Nat) (p : Access) (s : State) : Result :=
  let own := match tfind s.queues q with | some w => w.asid = s.launch.asid | none => false
  if f.aop != 0 || !own then (s.refuseWidx q).trap (accessCause 13 p.addr.toNat 0 true false)
  else s.issueLogged { p with todo := .slot q ((s.xr f.xi).toNat % 2 ^ (8 * p.n)) }

/-- An atomic on the space coded `sp`, checked as both a load and a store. -/
def atomicInstr (sp : Nat) (f : FX) (s : State) : Result :=
  issue f.g s fun s =>
    let n := 2 ^ f.sz.toNat
    let a := s.xr f.xa + f.disp.signExtend 64
    let pc := s.st.pc
    accessInstr sp n a true true s
      (fun s => ((s.setSt (s.st.landOnes f.xt n)).advance 8).remoteError pc a.toNat sp true)
      fun place _ _ s =>
        let p := s.atomicAccess f sp n a pc place
        match (if sp = 0 then s.widxAt place n else none) with
        | none => s.issueAccess p
        | some q => slotClaim f q p s

/-- AMM, AMC, AMD, AMX, AMH. -/
def execAmm (f : FX) (s : State) : Result := atomicInstr 0 f s
def execAmc (f : FX) (s : State) : Result := atomicInstr 2 f s
def execAmd (f : FX) (s : State) : Result := atomicInstr 3 f s
def execAmx (f : FX) (s : State) : Result := atomicInstr 4 f s
def execAmh (f : FX) (s : State) : Result := atomicInstr 5 f s

/-! ### CLAIM (R359 to R362) -/

/-- The space of a CSPACE, coded as DSPACE. -/
def claimSpace (c : BitVec 2) : Nat := if c = 0 then 3 else if c = 1 then 0 else 2

/-- The access that a CLAIM makes. -/
def claimAccess (f : FC) (a pc : Word) (place : Nat) : Access :=
  { xt := f.xt, n := 16, sx := false, cls := f.cls, pc := pc, addr := a, space := claimSpace f.cspace, places := [place],
    leaf := none, cp := 0, sem := f.sem, scope := f.scope, failed := false, todo := .claim f.xi (Instr.claim f).word0 }

/-- CLAIM: the next chunk of a guided record. In replay it waits for its turn before any check (log entry 56); a record that
covers a WIDX word is refused as an atomic on it is (R38, R361). -/
def execClaim (f : FC) (s : State) : Result :=
  issue f.g s fun s =>
    let a := s.xr f.xa + f.disp.signExtend 64
    let pc := s.st.pc
    if s.awaitsTurn then s.waitTurn s.launch.replay
    else accessInstr (claimSpace f.cspace) 16 a true true s (fun s => s.stall)
      fun place _ _ s =>
        match (if claimSpace f.cspace = 0 then s.widxAt place 16 else none) with
        | some q => (s.refuseWidx q).trap (accessCause 13 a.toNat 0 true false)
        | none => s.issueLogged (claimAccess f a pc place)

end Sys2Proof.Machine
end

