-- ==== Sys2Proof/Machine/Sync.lean ====
section
/-! DEFINITION. FENCE (R346 to R349), BAR (R350 to R354), and what holds an instruction or an entry back until earlier
accesses have performed or their data has arrived (R218, R227, R326, R347). -/

namespace Sys2Proof.Machine

/-! ### Outstanding accesses -/

/-- The path of a Porter-queue entry: 1 to 4 for CH0 to CH3, 5 for the walker (R332, R377). -/
def Entry.path (e : Entry) : Nat :=
  if 0xF8 ≤ e.w0.toNat % 256 then 5 else 1 + e.w0.toNat / 2 ^ 12 % 4

/-- A WMWAIT makes no access. -/
def Entry.accesses (e : Entry) : Bool := e.w0.toNat % 256 != 0xEC

/-- TSTORE, BCOPY, and CXFER to memory (R227). -/
def Entry.writesMemory (e : Entry) : Bool :=
  let op := e.w0.toNat % 256
  op = 0xE9 || op = 0xEA || (op = 0xEB && !e.w0.getLsbD 59)

/-- Porter-queue entries of a stream that have not completed. -/
def Stream.porterEntries (t : Stream) : List Entry :=
  t.porterQ.entries ++ (t.running.filter fun r => r.unit = 3).map Running.entry

/-- Appended before a sequence number. -/
def Entry.before (e : Entry) (seq : BitVec 32) : Bool := 0 < (seq - e.seq).toNat && (seq - e.seq).toNat < 2 ^ 31

/-! ### FENCE (R347, R348) -/

/-- Every earlier event it names has performed. -/
def Stream.fenceReady (t : Stream) (f : Fence) : Bool :=
  !(f.path.getLsbD 0 && t.accesses.any fun e => e.1 < f.mark && f.cls.getLsbD e.2.cls.toNat) &&
    !t.porterEntries.any fun e => e.accesses && f.path.getLsbD e.path && e.before f.seq

/-- The classes and paths of DCLS that a fence names. -/
def fenceMask (cls : BitVec 16) (path : BitVec 8) : BitVec 128 :=
  (List.range 128).foldl (fun a i => if cls.getLsbD (i / 8) && path.getLsbD (i % 8) then a ||| (1#128 <<< i) else a) 0

/-- What a fence names (R331), by bits of `Sector.after`: the classes and the count events of path 0, the engines' paths. -/
def Fence.names (f : Fence) : BitVec 128 :=
  (if f.path.getLsbD 0 then fenceMask f.cls 1 ||| countBit else 0) ||| (f.path.setWidth 128 &&& pathBits) |||
    (if f.kind = 0 then fullBit else 0)

/-- The cache work of a fence that stream `k` made (R197, R198, R348): release, then acquire. What it names later is ordered
after the dirty bytes that what it names earlier follows, or made (R331, R335, log entry 69). -/
def State.fenceWork (s : State) (k : Nat) (f : Fence) : State :=
  let p := s.physOf k
  let s := if f.kind = 1 then s.combineAll (s.buffersOf p) else
    let s := s.release p f.scope (fenceMask f.cls f.path)
    if f.cls = 0 && f.path.setWidth 128 &&& pathBits = 0 then s else s.letGo p f.scope f.names
  let s := if f.kind = 2 then s else s.acquire p f.scope
  s.orderAfter p (fun _ t => (t.dcls ||| t.after) &&& f.names != 0) f.names

/-- Completes every fence of a stream whose earlier events have performed. -/
def State.settleEach (s : State) (k : Nat) : List Fence → List Fence → State
  | kept, [] => s.setStream k { s.stream k with fences := kept }
  | kept, f :: fs => if (s.stream k).fenceReady f then (s.fenceWork k f).settleEach k kept fs else s.settleEach k (kept ++ [f]) fs
def State.settleFences (s : State) (k : Nat) : State := s.settleEach k [] (s.stream k).fences

/-- The acting stream's fence at this place of its program order. -/
def State.fenceHere (s : State) (cls : BitVec 16) (path : BitVec 8) (scope : BitVec 3) (kind : BitVec 2) : Fence :=
  { cls := cls, path := path, scope := scope, kind := kind, seq := s.st.porterQ.appended, mark := s.st.accessNo }

/-- It completes now, or stays outstanding while the stream goes on. -/
def State.makeFence (s : State) (f : Fence) : State := (s.setSt { s.st with fences := s.st.fences ++ [f] }).settleFences s.cur

/-- FENCE. -/
def execFence (f : FF) (s : State) : Result :=
  issue f.g s fun s => done (if f.path = 0 then s else s.makeFence (s.fenceHere f.cls f.path f.scope f.kind))

/-! ### BAR (R352, R353) -/

/-- A tag that the stream is a current member of, or ILLEGAL 7. -/
def barInstr (i : Instr) (f : FS) (s : State) (body : Nat → State → Result) : Result :=
  issue f.g s fun s =>
    let tag := f.imm.toNat % 8
    if s.launch.isMember tag s.sidx then body tag s else s.trap (illegal 7 i.word0 0)

/-- The fence at S, of a kind, that a BAR acts as: it names every class and path 0 (R336). -/
def State.barFence (s : State) (tag : Nat) (kind : BitVec 2) : Fence :=
  s.fenceHere (BitVec.allOnes 16) 1 (BitVec.ofNat 3 (s.launch.m.barScope tag)) kind

/-- The release, the arrival counted, PEND. -/
def State.barArrive (s : State) (tag : Nat) : State :=
  let gen := (s.launch.barTag tag).gen
  let s := s.fenceWork s.cur (s.barFence tag 2)
  let s := s.setSt { s.st with pend := tset 0 s.st.pend tag (gen + 1) }
  s.arriveTag s.launchNo tag s.sidx

/-- The wait: passed once the generation arrived in has been released, else measured (R354); then the acquire. -/
def State.barWait (s : State) (tag : Nat) : Result :=
  let p := tget 0 s.st.pend tag
  let b := s.launch.barTag tag
  if p ≤ b.released then
    let s := s.setSt { s.st with pend := tset 0 s.st.pend tag 0, synced := s.st.synced &&& ~~~(1#8 <<< tag), wait := none }
    done (s.makeFence (s.barFence tag 1))
  else s.waitAt { since := 0, tag := some tag }

/-- BAR_ARRIVE. -/
def execBarArrive (f : FS) (s : State) : Result :=
  barInstr (.barArrive f) f s fun tag s =>
    if tget 0 s.st.pend tag != 0 then s.trap (illegal 8 (Instr.barArrive f).word0 0) else done (s.barArrive tag)
/-- BAR_WAIT. -/
def execBarWait (f : FS) (s : State) : Result :=
  barInstr (.barWait f) f s fun tag s =>
    if tget 0 s.st.pend tag = 0 then s.trap (illegal 8 (Instr.barWait f).word0 0) else s.barWait tag
/-- BAR_SYNC: the arrival, then the wait, as one instruction. -/
def execBarSync (f : FS) (s : State) : Result :=
  barInstr (.barSync f) f s fun tag s =>
    if s.st.synced.getLsbD tag then s.barWait tag
    else if tget 0 s.st.pend tag != 0 then s.trap (illegal 8 (Instr.barSync f).word0 0)
    else
      let s := s.barArrive tag
      (s.setSt { s.st with synced := s.st.synced ||| (1#8 <<< tag) }).barWait tag
/-- BAR_LEAVE. -/
def execBarLeave (f : FS) (s : State) : Result :=
  barInstr (.barLeave f) f s fun tag s => done (s.leaveTag s.launchNo tag s.sidx)

/-! ### What holds an issue back -/

/-- The X registers that an instruction reads or writes, XREG counts among them (R75). -/
def regsOf (i : Instr) : List (BitVec 6) :=
  let tops := fun (l : List (BitVec 16)) => (l.filter fun t => topMode t = 2).map topCsel
  match i.parts with
  | none => []
  | some (op, fn, fs) =>
    match fs with
    | .fma f =>
      if op = 0x42 then []
      else if op = 0x02 || (op = 0x04 && 10 ≤ fn) then [f.xa, f.xb]
      else if op = 0x00 && fn = 27 then [f.xd, f.xa, f.xb]
      else if op = 0x63 && fn < 2 then [f.xd, f.xa, f.xb]
      else [f.xd, f.xa, f.xb, f.xc]
    | .fmi f =>
      if op = 0x03 then [f.xa]
      else if op = 0x61 then (if fn = 2 then (if f.imm = 0 then [f.xd] else [f.xa]) else [])
      else [f.xd, f.xa]
    | .fmj f => [f.xa, f.xb]
    | .fmm f => if f.sz = 4 then [f.xt, f.xt + 1, f.xa, f.xi] else [f.xt, f.xa, f.xi]
    | .fmx f => [f.xt, f.xa, f.xi]
    | .fmc f => [f.xt, f.xa, f.xi]
    | .fmk f => [f.xd, f.xa] ++ tops [f.top]
    | .fmt f => [f.xd, f.xa, f.xb]
    | .fms f => [f.xd, f.xa]
    | .fmf _ => []
    | .fml f => [f.xs1, f.xs2] ++ tops [f.dt, f.ta, f.tb, f.tc]

/-- A register whose load has not arrived (R218). -/
def Stream.loading (t : Stream) (x : BitVec 6) : Bool := x != 0 && t.accesses.any fun e => e.2.regs.contains x

/-- Owner instructions but OQUERY, the changing prefix instructions, and TLBINV wait for every earlier access and for
every entry that writes memory (R227, R319, R320, R401). -/
def ownerWaits (i : Instr) : Bool :=
  match i.parts with
  | some (op, fn, _) => (op = 0x80 && fn != 7) || (op = 0x63 && 3 ≤ fn) || (op = 0xA0 && fn = 6)
  | none => false

/-- A sequencer tile instruction, CNTSAVE and CNTLOAD among them (R181, R401). -/
def isTileInstr (i : Instr) : Bool :=
  match i.parts with | some (op, fn, _) => op = 0x60 || op = 0x64 || (op = 0xA0 && (fn = 4 || fn = 5)) | none => false

/-- An instruction that arrives at a barrier: it acts as a release over every class, and what a FENCE before it names is covered
(R336, R352). A BAR_SYNC that has arrived only waits. -/
def Stream.arrives (t : Stream) (i : Instr) : Bool :=
  match i with
  | .barArrive _ => true
  | .barSync f => !t.synced.getLsbD (f.imm.toNat % 8)
  | _ => false

/-- The acting stream's next instruction is held back (R131, R218, R227, R331, R336): nothing of it happens yet. A later access
that an outstanding fence names is not: it issues, and stays pending (`Stream.blocked`). -/
def State.held (s : State) (i : Instr) : Bool :=
  let t := s.st
  t.guardTrue i.guard &&
    ((regsOf i).any t.loading ||
     (isTileInstr i && t.fences.any fun f => f.path.getLsbD 0) ||
     (ownerWaits i && (!t.accesses.isEmpty || t.porterEntries.any Entry.writesMemory)) ||
     (t.arrives i && (!t.accesses.isEmpty || !t.fences.isEmpty)))

/-- A Porter entry that a fence appended before it names does not start (R347). -/
def State.entryHeld (s : State) (k : Nat) (e : Entry) : Bool :=
  (s.stream k).fences.any fun f => f.path.getLsbD e.path && !e.before f.seq

end Sys2Proof.Machine
end

