-- ==== Sys2Proof/Machine/Owner.lean ====
section
/-! DEFINITION. The owner instructions (R224 to R233). -/

namespace Sys2Proof.Machine

/-- What a base names (R225). -/
inductive Base where
  | at (place : Nat)
  | cause (c : Cause)
  | page (asid va : Nat)
  /-- A page outside the token system; a HOST page has no place on the device. -/
  | outside (place : Option Nat)
  deriving DecidableEq, Repr

/-- TOKEN_STATE with the base and a state word (R209, R391). -/
def tokenState (sub base word : Nat) : Cause := { code := 11, sub := sub, args := [base, word] }

/-- The base of an owner instruction of the acting stream; SPACE is 0 S, 1 C, 2 D, 3 M. -/
def State.ownerBase (s : State) (space a : Nat) : Base × State :=
  let m := s.launch.m
  let bounds := fun (sp : Nat) => Base.cause (accessCause 14 a sp false false)
  if space = 0 then (if a < m.spad then .at (s.spadPlace s.cur a) else bounds 1, s)
  else if space = 1 then (if a < m.serai then .at (s.seraiPlace s.cur a) else bounds 2, s)
  else if space = 2 then
    (if a < 2 ^ 28 && a / 2 ^ 26 < s.launch.dies.length && a % 2 ^ 26 < m.depot then
      .at (depotPlace s.launchNo (a / 2 ^ 26) (a % 2 ^ 26)) else bounds 3, s)
  else if 2 ^ 48 ≤ a then (.cause (accessCause 12 a 0 false false), s)
  else match s.translate (s.physOf s.cur) s.launch.asid a with
    | none => (.page s.launch.asid a, s)
    | some (leaf, s) =>
      if leaf.host then (.outside none, s)
      else if s.noToken leaf then (.outside (some (leaf.pa + a % 4096)), s)
      else (.at (leaf.pa + a % 4096), s)

/-- The checks of R225, then `body` at the place, or `out` for a page outside the token system, whose state word is free (log
entry 11). -/
def ownerBaseInstr (f : FT) (s : State) (out : Option Nat → State → Result) (body : Nat → State → Result) : Result :=
  issue f.g s fun s =>
    let a := (s.xr f.xa).toNat
    let aligned := a % 2 ^ f.ls.toNat = 0
    match s.ownerBase f.space.toNat a with
    | (.cause c, s) => s.trap c
    | (.page asid va, s) => s.waitPage { asid := asid, va := va, space := 0, store := false, fetch := false, f := 0 }
    | (.outside p, s) =>
      if aligned then out p s
      else
        let (w, s) := s.draw
        s.trap (tokenState 1 a w.toNat)
    | (.at place, s) => if aligned then body place s else s.trap (tokenState 1 a (s.wordAt place f.ls.toNat))

/-- What an owner instruction that has completed leaves: its core's combining buffers are sent (R193), and what engines read next is
ordered after its core's dirty bytes by its wait (R332). -/
def State.ownerOrder (s : State) : State :=
  let p := s.physOf s.cur
  (s.combineAll (s.buffersOf p)).enginesAfter p fun _ => true

/-- An owner instruction that changes state: the accesses to its block that are on their way perform first (R210, step 1); a
logged one takes its turn in replay and writes its entry in recording (R233, R418); a refusal changes nothing (R209). A
page outside the token system has no region, so the state word of its refusal is free (log entry 11). -/
def ownerInstr (fn : Nat) (logged : Bool) (f : FT) (s : State) (op : State → Nat → Except Nat (State × Nat)) : Result :=
  ownerBaseInstr f s (fun _ s =>
      let (w, s) := s.draw
      s.trap (tokenState 1 (s.xr f.xa).toNat w.toNat)) fun place s =>
    let a := (s.xr f.xa).toNat
    let ls := f.ls.toNat
    let me := streamId s.cur
    match s.landFor place ls with
    | none => s.stall
    | some s =>
      let refuse := fun (sub : Nat) => s.trap (tokenState sub a (s.wordAt place ls))
      let e : LogEntry := { kind := 2, sub := fn, actor := me, addr := a, v0 := 0, v1 := ls }
      match (if logged then s.replayTurn s.launchNo e else .live) with
      | .waits i => s.waitTurn i
      | .fails c => s.logStop c
      | .turn _ _ s' => match op (s'.setSt { s'.st with wait := none }) place with
        | .error sub => refuse sub
        | .ok (s', _) => done s'.ownerOrder
      | .live => match op s place with
        | .error sub => refuse sub
        | .ok (s', other) =>
          if !logged then done s'.ownerOrder
          else match s.record s.launchNo { e with v0 := other } with
            | .error c => s.logStop c
            | .ok s1 => match op s1 place with
              | .error sub => refuse sub
              | .ok (s2, _) => done s2.ownerOrder

/-- The parties that the acting stream acts for. -/
def State.actsFor (s : State) : List Nat := [streamId s.cur, launchId s.launchNo]

/-- An operation on the region that exists exactly (R201). -/
def onExact (ls : Nat) (op : OwnerOp) (s : State) (place : Nat) : Except Nat (State × Nat) :=
  match s.exact place ls with
  | some r => op s place r
  | none => .error 1

/-- The party in XB (R224). -/
def State.party (s : State) (f : FT) : Nat := (s.xr f.xb).toNat % 2 ^ 32

/-- OLEND, OGIVE. -/
def execOlend (f : FT) (s : State) : Result :=
  ownerInstr 0 true f s (onExact f.ls.toNat (lendOrGive true s.actsFor (s.party f)))
def execOgive (f : FT) (s : State) : Result :=
  ownerInstr 1 true f s (onExact f.ls.toNat (lendOrGive false s.actsFor (s.party f)))
/-- ORTRN. -/
def execOrtrn (f : FT) (s : State) : Result := ownerInstr 2 true f s (onExact f.ls.toNat (ortrn s.actsFor))
/-- OSPLIT, OJOIN. -/
def execOsplit (f : FT) (s : State) : Result := ownerInstr 3 false f s (onExact f.ls.toNat (osplit s.actsFor))
def execOjoin (f : FT) (s : State) : Result :=
  ownerInstr 4 false f s fun s place => ojoin s.actsFor s place f.ls.toNat
/-- OSHARE, ODROP. -/
def execOshare (f : FT) (s : State) : Result :=
  ownerInstr 5 true f s (onExact f.ls.toNat (oshare s.actsFor (s.party f)))
def execOdrop (f : FT) (s : State) : Result :=
  ownerInstr 6 true f s (onExact f.ls.toNat (odrop s.actsFor (s.party f)))
/-- OQUERY (R230). Of a HOST page, which lies in no region, the answer is free (log entry 11). -/
def execOquery (f : FT) (s : State) : Result :=
  let answer := fun (place : Nat) (s : State) => done (s.xw f.xd (BitVec.ofNat 64 (s.wordAt place f.ls.toNat)))
  ownerBaseInstr f s (fun p s => match p with
    | some place => answer place s
    | none =>
      let (w, s) := s.draw
      done (s.xw f.xd w)) answer
/-- ORECLAIM (R231). -/
def execOreclaim (f : FT) (s : State) : Result := ownerInstr 8 true f s (onExact f.ls.toNat (oreclaim s.actsFor))

end Sys2Proof.Machine
end

