-- ==== Sys2Proof/Machine/System.lean ====
section
/-! DEFINITION. Instruction fetch (R67, R68) and the system instructions (R400, R401). -/

namespace Sys2Proof.Machine

/-! ### Fetch -/

/-- What a fetch of one word gives. -/
inductive Fetched where
  | word (w : Word)
  | cause (c : Cause)
  | page (w : PageWait)
  deriving DecidableEq, Repr

/-- Fetches a word of a launch's program from the home L2, through the TLBs of `at_`; `second` marks the second word of a long
instruction, which must lie in an executable mapping too (R68). Of a word changed against R68, which may be fetched old or
new, the model fetches what the home holds; no program of the device is on a HOST page, so that fetch fails as one from a
page that is not executable (log entry 39). -/
def State.fetchWord (s : State) (at_ l va : Nat) (second : Bool) : Fetched × State :=
  let asid := (s.launchOf l).asid
  let bad := fun (c : Nat) => Fetched.cause (accessCause c va 0 false true)
  if 2 ^ 48 ≤ va then (bad 12, s)
  else match s.translate at_ asid va with
    | none => (.page { asid := asid, va := va, space := 0, store := false, fetch := true, f := 0 }, s)
    | some (leaf, s) =>
      if !leaf.x || leaf.host then (bad (if second then 12 else 13), s)
      else (.word (BitVec.ofNat 64 (natLE (s.bytes (leaf.pa + va % 4096) 8))), s)

/-! ### TRAP, DBGBRK, TRCMARK -/

/-- TRAP: the cut is at the next instruction. -/
def execTrap (f : FS) (s : State) : Result :=
  issue f.g s fun s => (s.advance 8).trapAfter s.st.pc { code := 26, args := [f.imm.toNat] }
/-- DBGBRK. -/
def execDbgbrk (f : FS) (s : State) : Result :=
  issue f.g s fun s => (s.advance 8).trapAfter s.st.pc { code := 27, args := [f.imm.toNat] }
/-- TRCMARK: one mark record. -/
def execTrcmark (f : FS) (s : State) : Result :=
  issue f.g s fun s => done (s.trace s.cur 3 0 0 0 (s.xr f.xa).toNat f.imm.toNat [])

/-! ### TRET -/

/-- What resuming a stream comes to (R401): a status with the state, or a wait for the page of its NEXT fetch. -/
inductive Resumed where
  | status (st : Nat) (s : State)
  | page (w : PageWait) (s : State)
  deriving DecidableEq, Repr

/-- Stream `k` runs again, and the Rearguard's copy of its context is loaded from it (R119, R401). -/
def State.runAgain (s : State) (k : Nat) (t : Stream) : State := { s.setStream k t with shadow := tdel s.shadow k }

/-- Resumes the stream of index `x` of a launch as TRET does (R401). A NEXT fetch whose page is not resident waits for the page
service; once that fails, the fault is charged to the stream, which stays stopped. -/
def State.resumeStream (s : State) (l : Nat) (x : Word) (drop next : Bool) : Resumed :=
  let v := s.launchOf l
  if v.m.streams ≤ x.toNat then .status 2 s
  else
    let k := l * 4096 + x.toNat
    let t := s.stream k
    if !t.stopped then .status 1 s
    else if t.halted || !next then .status 0 (s.runAgain k (t.resume t.cut.pc drop))
    else
      let fail := fun (c : Cause) (s : State) => Resumed.status 3 (s.takeTrap k 0 t.cut.pc t.cut.pc c)
      match s.fetchWord (s.physOf k) l t.cut.pc.toNat false with
      | (.word w, s) => .status 0 (s.runAgain k (t.resume (t.cut.pc + BitVec.ofNat 64 (lengthOf w)) drop))
      | (.cause c, s) => fail c s
      | (.page w, s) => match s.askPage w.asid w.va with
        | some s => .page { w with next := true } s
        | none => fail (accessCause 12 w.va 0 false true) (s.takeFailure w.asid w.va)

/-- TRET. -/
def execTret (f : FS) (s : State) : Result :=
  issue f.g s fun s =>
    match s.resumeStream s.launchNo (s.xr f.xa) (f.imm.getLsbD 0) (f.imm.getLsbD 1) with
    | .status st s => done (s.xw f.xd (BitVec.ofNat 64 st))
    | .page w s => s.waitPage w

/-! ### CNTSAVE and CNTLOAD -/

/-- The 4-byte state word of a tile (R120). -/
def Tile.word (t : Tile) : Nat :=
  t.count.toNat + t.quota.toNat * 2 ^ 16 + (if t.skip then 2 ^ 20 else 0) +
    (match t.writer with | some w => w.toNat * 2 ^ 21 + 2 ^ 24 | none => 0)

/-- A tile as a state word sets it. -/
def Tile.setWord (t : Tile) (w : Nat) : Tile :=
  { t with count := BitVec.ofNat 16 w, quota := BitVec.ofNat 4 (w / 2 ^ 16), skip := w / 2 ^ 20 % 2 = 1,
           writer := if w / 2 ^ 24 % 2 = 1 then some (BitVec.ofNat 3 (w / 2 ^ 21)) else none }

/-- The places of `n` words of the scratchpad from an offset, each checked as a class-0 access (R218), with the channels whose
watermarks their loads must pass. -/
def State.wordPlaces (s : State) (store : Bool) (a : Nat) : Nat → Except Cause (List (Nat × Option (Nat × Nat)))
  | 0 => .ok []
  | n + 1 =>
    if a % 4 != 0 then .error (accessCause 15 a 1 store false)
    else match (s.locate s.partWho 1 (a % 2 ^ 64) 4 (!store) store).1 with
      | .ok p _ wm => (s.wordPlaces store (a + 4) n).map fun ps => (p, wm) :: ps
      | .cause c => .error c
      | _ => .error (accessCause 14 a 1 store false)

/-- A plain class-0 access of path 0 to places of the scratchpad, as the order of its class and bytes sees it. -/
def State.wordAccess (s : State) (a : Word) (n : Nat) (places : List Nat) (todo : Todo) : Access :=
  { xt := 0, n := n, sx := false, cls := 0, pc := s.st.pc, addr := a, space := 1, places := places, leaf := none, cp := 0, sem := 0,
    scope := 0, todo := todo, failed := false }

/-- The tiles t0 to t0 + n − 1: a range past the window raises ILLEGAL 6 (R400). The accesses wait for what they follow (R326),
and loads for a watermark (R205). -/
def countInstr (i : Instr) (f : FS) (store : Bool) (s : State) (body : List (Nat × Nat) → State → Result) : Result :=
  let t0 := f.imm.toNat % 256
  let n := f.imm.toNat / 256 % 256 + 1
  if s.launch.m.twin < t0 + n then s.trap (illegal 6 i.word0 0)
  else issue f.g s fun s =>
    match s.wordPlaces store (s.xr f.xa).toNat n with
    | .error c => s.trap c
    | .ok ps =>
      let shut := ps.mapIdx fun j p => match p.2 with
        | some (h, c) => !s.watermarkOpen h c 1 p.1 ((s.xr f.xa).toNat + 4 * j) 4
        | none => false
      if s.st.blocked s.st.accessNo (s.wordAccess (s.xr f.xa) 4 (ps.map Prod.fst) (.store [])) || shut.any id then
        s.passedAt ((ps.filter fun p => p.2.isSome).map Prod.fst)
      else body ((ps.map Prod.fst).zip ((List.range n).map (t0 + ·))) s

/-- CNTSAVE. -/
def State.saveCounts (s : State) : List (Nat × Nat) → State
  | [] => s
  | (p, t) :: r => (s.putBytes p (bytesLE (s.tile (s.tileKey s.cur t)).word 4)).saveCounts r
def execCntsave (f : FS) (s : State) : Result :=
  countInstr (.cntsave f) f true s fun ps s => done (s.saveCounts ps)

/-- CNTLOAD: every word is loaded and tested before any tile changes. -/
def State.loadCounts (s : State) : List (Nat × Nat) → State
  | [] => s
  | (w, t) :: r =>
    let key := s.tileKey s.cur t
    (s.setTile key ((s.tile key).setWord w)).loadCounts r
def execCntload (f : FS) (s : State) : Result :=
  countInstr (.cntload f) f false s fun ps s =>
    let w0 := (Instr.cntload f).word0
    match ps.find? fun p => s.poisoned p.1 4 with
    | some p => .next (s.consume s.cur s.st.pc p.1)
    | none =>
      let ws := ps.map fun p => (s.readLE p.1 4, p.2)
      if ws.any fun w => 2 ^ 25 ≤ w.1 then s.trap { code := 4, sub := 80, args := [w0.toNat] }
      else match ws.find? fun w => !s.resettable (s.tileKey s.cur w.2) with
        | some (w, t) =>
          s.staleNow 4 { key := s.tileKey s.cur t, num := t, mode := 0, exp := BitVec.ofNat 16 w, mark := false } w0
        | none => done (s.loadCounts ws)

/-! ### TLBINV -/

/-- Removes, in every TLB, the entries of an ASID that translate the page that holds an address, whatever its size, or all of
them. -/
def State.invalidate (s : State) (asid : Nat) (va : Option Nat) : State :=
  let keep := fun (e : Nat × Leaf) =>
    !(e.1 / 2 ^ 36 % 2 ^ 16 = asid &&
      (match va with | some a => e.1 % 2 ^ 36 * 4096 / 2 ^ e.2.ls = a / 2 ^ e.2.ls | none => true))
  { s with spaces := { s.spaces with tlb := s.spaces.tlb.filter keep } }

/-- TLBINV: kind 0 a page, kind 1 every page. -/
def execTlbinv (f : FS) (s : State) : Result :=
  issue f.g s fun s =>
    done (s.ownerOrder.invalidate s.launch.asid (if f.imm = 0 then some (s.xr f.xa).toNat else none))

/-! ### Readiness and YIELD (R65, R112, R131, R146) -/

/-- The launch of a stream has it. -/
def State.hasStream (s : State) (k : Nat) : Bool :=
  match tfind s.launches (k / 4096) with | some v => k % 4096 < v.m.streams | none => false

/-- The sequencers and engines of a stream's core run: nothing has stopped the part, its launch or the core; a launch that
a machine check kills runs no more (R402). -/
def State.runs (s : State) (k : Nat) : Bool :=
  let v := s.launchOf (k / 4096)
  s.hasStream k && s.dev.ready && !s.dev.halted && (v.phase = .placed || v.phase = .stopping || v.phase = .killing && v.fatal.isNone) &&
    !tget false s.dev.coreLost (s.physOf k) && !tget false s.dev.gated (s.clusterOf k)

/-- The instruction at a stream's PC, where it can be fetched and decodes. -/
def State.instrAt (s : State) (k : Nat) : Option Instr :=
  let pc := (s.stream k).pc.toNat
  match (s.fetchWord (s.physOf k) (k / 4096) pc false).1 with
  | .word w0 =>
    if isLong w0 then
      match (s.fetchWord (s.physOf k) (k / 4096) (pc + 8) true).1 with
      | .word w1 => (decode w0 w1).toOption
      | _ => none
    else (decode w0 0).toOption
  | _ => none

/-- What a stream, or the head of its queue of an engine, waits for has come: the tile passes its test, the barrier is
released, it is the actor's replay turn. -/
def State.waitOver (s : State) (k unit : Nat) (w : Wait) : Bool :=
  match w.tile, w.tag with
  | some t, _ =>
    if t.reads then s.readTest t.operand (k * 8 + unit)
    else writeTest (t.after (s.tile t.key)) t.operand && (s.tile t.key).inflight = 0
  | none, some tag => tget 0 (s.stream k).pend tag ≤ ((s.launchOf (k / 4096)).barTag tag).released
  | none, none => match w.actor with | some a => s.turnCame (k / 4096) a | none => true

/-- A write that waits passes its test now but for reads in flight, and is not pending yet: it is tested again (R105). -/
def State.mayPend (s : State) (k unit : Nat) : Bool :=
  match (s.stream k).waitOf unit with
  | some { tile := some w, .. } =>
    let t := s.tile w.key
    !w.reads && writeTest (w.after t) w.operand && t.inflight != 0 && t.pending != some (k * 8 + unit) &&
      !s.writePending w.key (k * 8 + unit)
  | _ => false

/-- In this ACLK cycle a write of a tile has started (`what` 0), or TQUOTA or TRESET has acted on it (1). -/
def State.didNow (s : State) (key what : Nat) : Bool := tget 0 s.orders (key * 2 + what) = s.aclkAt key + 1

/-- The place of an instruction of stream `k` in a tile's order allows it now (R153): TQUOTA and TRESET come after the reads admitted
in their cycle and before the writes started in it. -/
def State.inOrder (s : State) (k : Nat) (i : Instr) : Bool :=
  match i with
  | .tquota f | .treset f =>
    let key := s.tileKey k (topTile f.top)
    !s.didNow key 0 && !s.readFirst key (k * 8)
  | .twait f | .tdone f | .tget f | .bhash f => !s.didNow (s.tileKey k (topTile f.top)) 1
  | _ => true

/-- A full queue, or entries that have not completed, hold an instruction of stream `k` at its place (R98, R112, R114, R268,
R269). -/
def State.waitsRoom (s : State) (k : Nat) (i : Instr) : Bool :=
  let t := s.stream k
  match i with
  | .sysr f | .sysw f => f.sreg = 0 && !t.drained
  | .fqpush _ | .fqpushi _ => Config.fqDepth ≤ t.fq.length
  | .fqclr _ => t.matrixQ.entries.any Entry.pops
  | i => match i.long? with
    | some f => !(s.launchOf (k / 4096)).m.misses i f && Config.queueDepth ≤ (t.queue i.unit).entries.length
    | none => false

/-- A stream is ready but for a YIELD: it runs, nothing that it waits for or reads is outstanding, and nothing holds its
instruction, unless its guard is false (R69). -/
def State.canIssue (s : State) (k : Nat) : Bool :=
  let t := s.stream k
  s.runs k && !t.halted && !t.stopped && t.paging.isNone && (match t.wait with | some w => s.waitOver k 0 w | none => true) &&
    match s.instrAt k with
    | none => true
    | some i => !t.guardTrue i.guard || (!{ s with cur := k }.held i && s.inOrder k i && !s.waitsRoom k i)

/-- A stream is ready: it can issue, and no stream that its YIELD counted is ready still (R146). `n` bounds the chain of
yielded streams, at most the slots of a core. -/
def State.readyIn (s : State) (k : Nat) : Nat → Bool
  | 0 => s.canIssue k
  | n + 1 => s.canIssue k && !((s.stream k).yieldLeft != 0 && (s.stream k).yielded.any fun j => s.readyIn j n)
def State.ready (s : State) (k : Nat) : Bool := s.readyIn k 8

/-- YIELD (R146): the stream is not ready until the streams of its core that are ready now have issued, or 8 SCLK have
passed. -/
def execYield (f : FS) (s : State) : Result :=
  issue f.g s fun s =>
    let others := (s.streamsOn (s.physOf s.cur)).filter (fun k => k != s.cur && s.ready k)
    done (s.setSt { s.st with yielded := others, yieldLeft := 8 })

end Sys2Proof.Machine
end

