-- ==== Sys2Proof/Machine/Kv.lean ====
section
/-! DEFINITION. Arena descriptors (R311, R314, R315) and the prefix table (R316, R318 to R322). -/

namespace Sys2Proof.Machine

/-! ### Arena descriptors (R311) -/

/-- A field of a descriptor: `n` bytes at a byte offset. -/
def arnField (d : BitVec 512) (o n : Nat) : Nat := (d.extractLsb' (8 * o) (8 * n)).toNat

def arnBase (d : BitVec 512) : Nat := arnField d 0 8
def arnSstr (d : BitVec 512) : Nat := arnField d 8 8
def arnLstr (d : BitVec 512) : Nat := arnField d 0x10 8
def arnHstr (d : BitVec 512) : Nat := arnField d 0x18 4
def arnPstr (d : BitVec 512) : Nat := arnField d 0x1C 4
def arnMaxpos (d : BitVec 512) : Nat := arnField d 0x20 4
def arnNslot (d : BitVec 512) : Nat := arnField d 0x24 4
def arnNlayer (d : BitVec 512) : Nat := arnField d 0x28 2
def arnNhead (d : BitVec 512) : Nat := arnField d 0x2A 2
def arnDhead (d : BitVec 512) : Nat := arnField d 0x2C 2
def arnFmt (d : BitVec 512) : Nat := arnField d 0x2E 1
def arnPls (d : BitVec 512) : Nat := arnField d 0x2F 1
def arnLinks (d : BitVec 512) : Nat := arnField d 0x30 8
def arnPoff (d : BitVec 512) : Nat := arnField d 0x38 4

/-- A number within limits. -/
def within (lo hi v : Nat) : Bool := lo ≤ v && v ≤ hi

/-- A descriptor that R311 accepts. -/
def arnOk (d : BitVec 512) : Bool :=
  arnBase d % 64 = 0 && arnField d 0x3C 4 = 0 && (arnFmt d = 0 || arnFmt d = 1 || arnFmt d = 8) &&
    within 1 (2 ^ 20) (arnMaxpos d) && within 1 (2 ^ 20) (arnNslot d) && within 1 4096 (arnNlayer d) &&
    within 1 1024 (arnNhead d) && within 1 1024 (arnDhead d) && within 12 30 (arnPls d) &&
    arnPstr d % 64 = 0 && viewBytes (arnFmt d) (arnDhead d) ≤ arnPstr d && arnMaxpos d * arnPstr d ≤ arnHstr d &&
    arnNhead d * arnHstr d ≤ arnLstr d && arnNlayer d * arnLstr d ≤ arnSstr d && arnLinks d % 64 = 0 &&
    (arnLinks d = 0 || arnPoff d + arnNlayer d * arnNhead d * 16 * arnPstr d ≤ 2 ^ arnPls d)

/-- A plain class-0 LDM of the sequencer inside another instruction, which waits until it may perform. -/
def plainLoad (a : Word) (n : Nat) (s : State) (body : Nat → State → Result) : Result :=
  accessInstr 0 n a true false s (fun s => s.stall)
    (fun place leaf wm s => s.partAccess { s.wordAccess a n [place] (.load wm) with space := 0, leaf := leaf } body) s.partWho

/-- ARNSET (R314). -/
def execArnset (f : FA) (s : State) : Result :=
  issue f.g s fun s =>
    plainLoad (s.xr f.xa) 64 s fun v s =>
      let d := BitVec.ofNat 512 v
      if arnOk d then done (s.setSt { s.st with arn := tset 0 s.st.arn (f.xc.toNat % 4) d })
      else s.trap { code := 4, sub := 56, args := [(Instr.arnset f).word0.toNat, 0, (s.xr f.xa).toNat] }

/-- KVADDR (R315). The address of its ALLOC_BOUNDS is not given: ARG0 is free there (log entry 11). -/
def execKvaddr (f : FA) (s : State) : Result :=
  issue f.g s fun s =>
    let d := tget 0 s.st.arn (f.xc.toNat % 4)
    let pos := (s.xr f.xa).toNat % 2 ^ 32
    let slot := (s.xr f.xa).toNat / 2 ^ 32
    let layer := (s.xr f.xb).toNat % 2 ^ 16
    let head := (s.xr f.xb).toNat / 2 ^ 16 % 2 ^ 16
    if (s.xr f.xb).toNat / 2 ^ 32 != 0 || arnNslot d ≤ slot || arnMaxpos d ≤ pos || arnNlayer d ≤ layer ||
        arnNhead d ≤ head then
      let (w, s) := s.draw
      s.trap (accessCause 14 w.toNat 0 false false)
    else
      let a := arnBase d + slot * arnSstr d + layer * arnLstr d + head * arnHstr d + pos * arnPstr d
      if arnLinks d != 0 && pos < 128 then
        plainLoad (BitVec.ofNat 64 (arnLinks d + 64 * slot + 8 * (pos / 16))) 8 s fun w s =>
          let a := if w = 0 then a
            else w + arnPoff d + ((layer * arnNhead d + head) * 16 + pos % 16) * arnPstr d
          done (s.xw f.xd (BitVec.ofNat 64 a))
      else done (s.xw f.xd (BitVec.ofNat 64 a))

/-! ### The prefix table (R316) -/

/-- PIN: the shares of the entry's page that are not yet dropped. A page that a quarantine has split carries each share in
every part (R212). -/
def State.pins (s : State) (e : PrefixEntry) : Nat :=
  ((s.inside e.place e.ls).map fun r => r.2.shares.length).foldl max 0

/-- The entry leaves the table, and its page passes EXCL to its RET (R319); a quarantined page stays under kind 5. The spec does not
say more of a page that no longer stands as one EXCL or SHARED region: where a part of it is quarantined, all its parts stay under
kind 5; where the Factor has reclaimed it from its quarantine and it is EXCL, it passes to RET as another (DESIGN CHOICE, log entry
87). -/
def State.evictPrefix (s : State) (n : Nat) : State :=
  match tfind s.prefixes n with
  | none => s
  | some e =>
    let s := { s with prefixes := tdel s.prefixes n }
    match s.exact e.place e.ls with
    | some r =>
      if r.state = .excl || r.state = .shared then
        (s.transfer e.place e.ls Config.prefixId e.ret false).putRegion e.place (some { r with holder := e.ret })
      else s
    | none => s

/-- An entry that matches: valid, of the caller's ASID, with the hash. -/
def State.prefixMatch (s : State) (asid n : Nat) (hash : Word) : Option PrefixEntry :=
  (tfind s.prefixes n).filter fun e => n < 64 && e.asid = asid && e.hash = hash

/-- The all-ones answer. -/
def none64 : Nat := 2 ^ 64 - 1

/-- What a table instruction answers: the XD value, its entry number and the state, or a refusal. -/
abbrev PrefixOp := State → Except Cause (Nat × Nat × State)

/-- PFXFIND. -/
def pfxFind (asid : Nat) (hash : Word) (len : Nat) : PrefixOp := fun s =>
  let n := match s.prefixes.find? fun e => e.2.asid = asid && e.2.hash = hash && e.2.len = len with
    | some e => e.1 | none => none64
  .ok (n, n, s)

/-- The next value of the sequence counter. -/
def State.nextAge (s : State) : Nat × State := (s.prefixSeq + 1, { s with prefixSeq := s.prefixSeq + 1 })

/-- PFXPIN: a share of the page to the launch. An entry whose page is quarantined in part is cleared as one whose whole page is; of
one whose page the Factor has reclaimed from its quarantine, the entry stays valid and the share is refused as OSHARE refuses it, by
the page's holder (DESIGN CHOICE, log entry 87). -/
def pfxPin (l asid n : Nat) (hash : Word) : PrefixOp := fun s =>
  match s.prefixMatch asid n hash with
  | none => .ok (none64, n, s)
  | some e =>
    let clear := Except.ok (none64, n, { s with prefixes := tdel s.prefixes n })
    match s.exact e.place e.ls with
    | none => clear
    | some r =>
      if r.state = .quarantined then clear
      else match oshare [Config.prefixId] (launchId l) s e.place r with
        | .error sub => .error (tokenState sub e.page (s.wordAt e.place e.ls))
        | .ok (s, _) =>
          let (age, s) := s.nextAge
          .ok (e.page, n, { s with prefixes := tput s.prefixes n { e with age := age } })

/-- Drops one share of a launch in each part of a page. -/
def State.unpin (s : State) (x : Nat) : List (Nat × Region) → State
  | [] => s
  | (k, r) :: rs => (if r.shares.contains x then s.dropShare k r x else s).unpin x rs

/-- PFXUNPIN. An entry that does not match has no page, so its words are free (log entry 11). -/
def pfxUnpin (l asid n : Nat) (hash : Word) : PrefixOp := fun s =>
  match s.prefixMatch asid n hash with
  | none => .error (tokenState 1 (Config.freeValue s.draws).toNat (Config.freeValue (s.draws + 1)).toNat)
  | some e =>
    let parts := s.inside e.place e.ls
    if parts.any fun p => p.2.shares.contains (launchId l) then .ok (0, n, s.unpin (launchId l) parts)
    else .error (tokenState 6 e.page (s.wordAt e.place e.ls))

/-- The least recently used entry of an ASID that is not pinned. -/
def State.victim (s : State) (asid : Nat) : Option Nat :=
  let c := s.prefixes.filter fun e => e.2.asid = asid && s.pins e.2 = 0
  (c.foldl (fun (a : Option (Nat × Nat)) e => match a with
    | none => some (e.2.age, e.1)
    | some b => if e.2.age < b.1 then some (e.2.age, e.1) else a) none).map Prod.snd

/-- PFXINS, once the page is found at a place (R319). -/
def pfxIns (ids : List Nat) (asid ret : Nat) (hash : Word) (len page place ls : Nat) : PrefixOp := fun s =>
  let refuse := fun (sub : Nat) => Except.error (tokenState sub page (s.wordAt place ls))
  match s.exact place ls with
  | none => refuse 1
  | some r =>
    if Config.prefixId = r.holder then refuse 7
    else match r.excl with
      | some c => refuse c
      | none =>
        if !covers ids r.holder then refuse 3
        else
          let free := ((List.range 64).filter fun n => (tfind s.prefixes n).isNone).head?
          match (match free with | some n => some (n, s) | none => (s.victim asid).map fun n => (n, s.evictPrefix n)) with
          | none => .ok (none64 - 1, none64 - 1, s)
          | some (n, s) =>
            match lendOrGive false ids Config.prefixId s place r with
            | .error sub => refuse sub
            | .ok (s, _) =>
              let (age, s) := s.nextAge
              let e : PrefixEntry := { asid := asid, hash := hash, len := len, page := page, ls := ls, ret := ret, place := place, age := age }
              .ok (n, n, { s with prefixes := tput s.prefixes n e })

/-- A table instruction in its place in the table's order, logged or replayed (R321). In replay it performs, and returns the
logged value. -/
def prefixInstr (fn : Nat) (hash : Word) (s : State) (write : Nat → State → State) (op : PrefixOp) : Result :=
  let e : LogEntry := { kind := 4, sub := fn, actor := streamId s.cur, addr := hash.toNat, v0 := 0, v1 := 0 }
  let finish := fun (s : State) => done (if fn = 2 then s else s.ownerOrder)
  if s.launch.m.replay = 2 && s.st.logsPending then s.waitTurn s.launch.replay
  else match s.replayTurn s.launchNo e with
  | .waits i => s.waitTurn i
  | .fails c => s.logStop c
  | .turn v0 _ s' => match op (s'.setSt { s'.st with wait := none }) with
    | .error c => s.trap c
    | .ok (_, _, s) => finish (write v0 s)
  | .live => match op s with
    | .error c => s.trap c
    | .ok (v, n, _) =>
      match s.record s.launchNo { e with v0 := v, v1 := n } with
      | .error c => s.logStop c
      | .ok s1 => match op s1 with
        | .error c => s.trap c
        | .ok (v, _, s) => finish (write v s)

/-- PFXFIND, PFXPIN, PFXUNPIN (R318). -/
def execPfxfind (f : FA) (s : State) : Result :=
  issue f.g s fun s =>
    prefixInstr 2 (s.xr f.xa) s (fun v s => s.xw f.xd (BitVec.ofNat 64 v))
      (pfxFind s.launch.asid (s.xr f.xa) (s.xr f.xb).toNat)
def execPfxpin (f : FA) (s : State) : Result :=
  issue f.g s fun s =>
    prefixInstr 3 (s.xr f.xa) s (fun v s => s.xw f.xd (BitVec.ofNat 64 v))
      (pfxPin s.launchNo s.launch.asid (s.xr f.xb).toNat (s.xr f.xa))
def execPfxunpin (f : FA) (s : State) : Result :=
  issue f.g s fun s =>
    prefixInstr 4 (s.xr f.xa) s (fun _ s => s) (pfxUnpin s.launchNo s.launch.asid (s.xr f.xb).toNat (s.xr f.xa))

/-- PFXINS (R319): a duplicate changes nothing; else the page is tested as OGIVE tests it. -/
def execPfxins (f : FA) (s : State) : Result :=
  issue f.g s fun s =>
    let w := (s.xr f.xc).toNat
    let n := w % 2 ^ 16
    let ls := w / 2 ^ 16 % 2 ^ 6
    let hash := s.xr f.xa
    let asid := s.launch.asid
    let page := (s.xr f.xb).toNat
    let go := fun (op : PrefixOp) (s : State) =>
      prefixInstr 5 hash s (fun v s => s.xw f.xd (BitVec.ofNat 64 v)) op
    if w / 2 ^ 22 != 0 || n = 0 || n % 16 != 0 || !within 12 40 ls then
      s.trap { code := 4, sub := 57, args := [(Instr.pfxins f).word0.toNat] }
    else if s.prefixes.any fun e => e.2.asid = asid && e.2.hash = hash && e.2.len = n then
      go (fun s => .ok (none64, none64, s)) s
    else match s.ownerBase 3 page with
      | (.cause c, s) => s.trap c
      | (.page asid va, s) => s.waitPage { asid := asid, va := va, space := 0, store := false, fetch := false, f := 0 }
      | (.outside _, s) =>
        let (w, s) := s.draw
        s.trap (tokenState 1 page w.toNat)
      | (.at place, s) =>
        if page % 2 ^ ls != 0 then s.trap (tokenState 1 page (s.wordAt place ls))
        else match s.landFor place ls with
          | none => s.stall
          | some s => go (pfxIns s.actsFor asid s.launch.m.returnto hash n page place ls) s

end Sys2Proof.Machine
end

