-- ==== Sys2Proof/Machine/Porter.lean ====
section
/-! DEFINITION. The Porter (R234 to R254): iterator records and walks, the starts of its instructions, and the run of a
started entry element by element with its watermark, its faults and its channel returns. ENGINE_ENTRY_COMPLETE runs it. -/

namespace Sys2Proof.Machine

/-! ### Iterator records (R236 to R238) -/

def recBase (r : BitVec 512) : Nat := arnField r 0 8
def recCtl (r : BitVec 512) : Nat := arnField r 8 1
def recType (r : BitVec 512) : Nat := recCtl r % 16
def recSpace (r : BitVec 512) : Nat := recCtl r / 16 % 8
def recRank (r : BitVec 512) : Nat := arnField r 9 1 % 8
def recBcast (r : BitVec 512) : Nat := arnField r 10 1
def recExt (r : BitVec 512) (d : Nat) : Nat := arnField r (0x10 + 2 * d) 2
def recLim (r : BitVec 512) (d : Nat) : Nat := arnField r (0x18 + 2 * d) 2
def recStride (r : BitVec 512) (d : Nat) : Int := sextNat (arnField r (0x20 + 4 * d) 4) 32
def recAdv (r : BitVec 512) : Nat := arnField r 0x38 8

/-- Bytes of an element. -/
def recSize (r : BitVec 512) : Nat := typeBits (recType r) / 8
def recPad (r : BitVec 512) : List Byte := bytesLE (arnField r 0xC 4) (recSize r)

/-- A record's SPACE in the coding of DSPACE. -/
def recDspace (r : BitVec 512) : Nat := match recSpace r with | 0 => 1 | 1 => 2 | 2 => 3 | 3 => 0 | n => n

/-- The limits and reserved fields of R236. -/
def recOk (r : BitVec 512) : Bool :=
  let rank := recRank r
  recCtl r < 128 && recSpace r < 6 && recType r < 8 && within 1 4 rank && arnField r 9 1 < 8 && recBcast r < 2 ^ rank &&
    arnField r 11 1 = 0 && (List.range 4).all fun d =>
      if d < rank then recExt r d != 0 && recLim r d ≤ recExt r d
      else recExt r d = 0 && recLim r d = 0 && recStride r d = 0

/-- A destination record: no broadcast, no limit below its extent. -/
def recDest (r : BitVec 512) : Bool := recBcast r = 0 && (List.range (recRank r)).all fun d => recLim r d = recExt r d

/-- Product of the extents of the first `d` dimensions. -/
def recProd (r : BitVec 512) : Nat → Nat
  | 0 => 1
  | d + 1 => recProd r d * recExt r d
def recCount (r : BitVec 512) : Nat := recProd r (recRank r)
def recIndex (r : BitVec 512) (f d : Nat) : Nat := f / recProd r d % recExt r d

/-- The address of element `f` of the walk; none is a padding element (R238). -/
def recAddr (r : BitVec 512) (f : Nat) : Option Nat :=
  let ds := List.range (recRank r)
  if ds.any fun d => recLim r d ≤ recIndex r f d then none
  else
    let steps := ds.map fun d => if (recBcast r).testBit d then 0 else (recIndex r f d : Int) * recStride r d
    some (((recBase r : Int) + steps.sum) % 2 ^ 64).toNat

/-- The pages that a walk touches, with the first element of each. -/
def recPages (r : BitVec 512) : List (Nat × Nat) :=
  (List.range (recCount r)).foldl (fun a f =>
    match recAddr r f with
    | some x => if a.any (fun e => e.1 = x / 4096) then a else a ++ [(x / 4096, f)]
    | none => a) []

/-! ### An entry's parts -/

/-- The instruction and fields of an entry. -/
def Entry.fields (e : Entry) : Option (Instr × FL) :=
  match decode e.w0 e.w1 with
  | .ok i => i.long?.map fun f => (i, f)
  | .error _ => none

def Entry.op (e : Entry) : Nat := e.w0.toNat % 256
/-- OPX bit `57 + n` of an entry. -/
def Entry.opx (e : Entry) (n : Nat) : Bool := e.w0.getLsbD (57 + n)
/-- It occupies its channel: TLOAD, TSTORE, BCOPY, CXFER. -/
def Entry.onChannel (e : Entry) : Bool := 0xE8 ≤ e.op && e.op < 0xEC
/-- It reads an iterator record at this offset. -/
def Entry.recordAt (e : Entry) : Option Nat :=
  if e.op = 0xEA then some e.xs2.toNat
  else if e.op = 0xE8 || e.op = 0xE9 || (e.op = 0xEB && !e.opx 2) then some e.xs1.toNat else none

/-- The running Porter entries of a stream. -/
def Stream.onPorter (t : Stream) : List Running := t.running.filter fun r => r.unit = 3

/-- A stream of the core runs an entry on the channel (R234). -/
def State.channelBusy (s : State) (k c : Nat) : Bool :=
  s.streams.any fun e => s.physOf e.1 = s.physOf k &&
    (e.1 / 4096 = k / 4096 || !(s.launchOf (e.1 / 4096)).cores.isEmpty) && (e.2.onPorter.any fun r => r.entry.onChannel && r.entry.channel = c)

/-! ### One access of a channel (R238, R246) -/

inductive Touch where
  /-- It may be made; `marked` where the watermark rule governs it. -/
  | ok (place : Nat) (marked : Bool) (s : State)
  /-- It errs remotely (R223). -/
  | remote (s : State)
  /-- It waits for a watermark, at these places (R205), or for a log (R405). -/
  | stalls (places : List Nat)
  | page (w : PageWait) (s : State)
  | fault (c : Cause) (s : State)
  deriving DecidableEq, Repr

/-- A cause of element `f`. -/
def atElem (c : Cause) (f : Nat) : Cause := { c with args := c.args ++ [f] }

/-- The checks of an access of an entry of stream `k` on channel `c`; `passed` holds the places whose checks its reads have passed
(R218). The step's `ok` is false where the peer or the host refuses what the step moves there (R223, R246); a write that a full
rollback log holds back stalls (R405). -/
def State.touch (s : State) (k c sp a n f : Nat) (store : Bool) (passed : List Nat := []) : Touch :=
  match s.locate { channelWho k c with passed := passed } sp a n (!store) store with
  | (.cause e, s) => .fault (atElem e f) s
  | (.page asid va, s) => .page { asid := asid, va := va, space := sp, store := store, fetch := false, f := f } s
  | (.remote, s) => .remote s
  | (.ok p _ wm, s) =>
    if (sp = 4 || sp = 5) && !s.inp.ok then .remote s
    else match (if store && sp = 0 then s.widxAt p n else none), wm with
      | some q, _ => .fault (atElem (accessCause 13 a sp true false) f) (s.refuseWidx q)
      | none, some (k', c') => if s.watermarkPasses k' c' sp a n then .ok p true s else .stalls [p]
      | none, none => if store && s.logFull (k / 4096) p then .stalls [] else .ok p false s

/-- Offsets of poisoned bytes of a block. -/
def State.badBytes (s : State) (place n : Nat) : List Nat := (List.range n).filter fun i => s.poisoned (place + i) 1

def State.poisonAll (s : State) (base : Nat) : List Nat → State
  | [] => s
  | o :: os => (s.setPoison (base + o) 1).poisonAll base os

/-! ### The run of an entry -/

/-- What moving elements comes to. -/
inductive Moved where
  | ok (s : State) (p : PorterRun)
  /-- It waits; its reads have passed their checks at these places. -/
  | stalls (s : State) (passed : List Nat)
  | page (w : PageWait) (s : State)
  | fault (c : Cause) (s : State)
  /-- Poisoned data has left for the host or a peer, marked so (R403): the machine check has acted. -/
  | gone (s : State)
  deriving DecidableEq, Repr

/-- Words of a remote error, the first kept. -/
def PorterRun.err (p : PorterRun) (a sp f : Nat) (store : Bool) : PorterRun :=
  if p.erred = [] then { p with erred := (accessCause 17 a sp store false).args ++ [f] } else p

/-- Bytes at an address cut at 64-byte boundaries. -/
def cutUnits (a : Nat) : List Byte → Nat → List (Nat × List Byte)
  | [], _ => []
  | _, 0 => []
  | bs, n + 1 =>
    let m := 64 - a % 64
    (a, bs.take m) :: cutUnits ((a + m) % 2 ^ 64) (bs.drop m) n

/-- Checks every part of a store before any is made: its places, none where it errs remotely. -/
def State.touchAll (s : State) (k c sp f : Nat) : List (Nat × List Byte) → Touch ⊕ (List (Option Nat) × State)
  | [] => .inr ([], s)
  | (a, bs) :: r =>
    match s.touch k c sp a bs.length f true with
    | .ok p _ s => (s.touchAll k c sp f r).map id fun x => (some p :: x.1, x.2)
    | .remote s => (s.touchAll k c sp f r).map id fun x => (none :: x.1, x.2)
    | t => .inl t

/-- The lent region of the channel that a write falls in, with the address of its base. -/
def State.lentAt (s : State) (k c place a : Nat) : Option (Nat × Nat) :=
  match s.regionAt place with
  | some (b, r) => if r.state = .lent && r.holder = channelId k c then some (b, (a + 2 ^ 64 - (place - b)) % 2 ^ 64) else none
  | none => none

/-- One write at its home (R254), with its poison. -/
def State.putHome (s : State) (k place : Nat) (bs : List Byte) (bad : List Nat) : State :=
  let s := if place < Place.base .spad then s.storeHome (some (k / 4096)) (some (s.physOf k)) place bs else s.putBytes place bs
  s.poisonAll place bad

/-- Writes the parts of a store whose checks have passed; `bad` holds the poisoned offsets of the whole. -/
def State.putParts (s : State) (k c sp f : Nat) (p : PorterRun) (bad : List Nat) (o : Nat) :
    List (Nat × List Byte) → List (Option Nat) → State × PorterRun
  | (a, bs) :: r, some place :: ps =>
    let mine := (bad.filter fun i => o ≤ i && i < o + bs.length).map (· - o)
    let p := match s.lentAt k c place a with
      | some w => if p.wrote.contains w then p else { p with wrote := p.wrote ++ [w] }
      | none => p
    (s.putHome k place bs mine).putParts k c sp f p bad (o + bs.length) r ps
  | (a, bs) :: r, none :: ps => s.dropStore.putParts k c sp f (p.err a sp f true) bad (o + bs.length) r ps
  | _, _ => (s, p)

/-- Stores bytes of element `f` at an address; `from` is where poisoned bytes came from. -/
def State.moveOut (s : State) (k c sp a f : Nat) (pc : Word) (p : PorterRun) (bs : List Byte) (bad : List Nat)
    (src : Nat) : Moved :=
  let parts := cutUnits a bs bs.length
  match s.touchAll k c sp f parts with
  | .inl (.fault e s) => .fault e s
  | .inl (.page w s) => .page w s
  | .inl _ => .stalls s p.passed
  | .inr (ps, s) =>
    let (s, p) := s.putParts k c sp f p bad 0 parts ps
    if (sp = 4 || sp = 5) && bad != [] && ps.any Option.isSome then .gone (s.consume k pc src) else .ok s p

/-- What reading an element comes to: its bytes, its poisoned offsets, its place. -/
inductive Taken where
  | got (bs : List Byte) (bad : List Nat) (place : Nat) (s : State) (p : PorterRun)
  | not (m : Moved)
  deriving DecidableEq, Repr

/-- What a channel of a stream reads at a place of device memory is ordered after (`State.engineSees`). -/
def State.channelSees (s : State) (k c place : Nat) : State :=
  if place < Place.base .spad then s.engineSees (s.physOf k) (1 + c) place else s

/-- Reads `n` bytes of element `f`, aligned to `n`, at their home (R341). -/
def State.moveIn (s : State) (k c sp a n f : Nat) (p : PorterRun) : Taken :=
  if a % n != 0 then .not (.fault (atElem (accessCause 15 a sp false false) f) s)
  else match s.touch k c sp a n f false p.passed with
    | .ok pl marked s =>
      let s := s.channelSees k c pl
      .got (s.bytes pl n) (s.badBytes pl n) pl s (if marked && !p.passed.contains pl then { p with passed := p.passed ++ [pl] } else p)
    | .remote s => .got (List.replicate n 255) [] 0 s (p.err a sp f false)
    | .stalls pls => .not (.stalls s (p.passed ++ pls))
    | .page w s => .not (.page w s)
    | .fault e s => .not (.fault e s)

/-- TLOAD: stages element `f` (R241); with CHK, one that it read and that is infinite or NaN is a hit (R323). -/
def State.loadElem (s : State) (k c : Nat) (chk : Bool) (p : PorterRun) (f : Nat) : Moved :=
  let r := p.record
  match recAddr r f with
  | none => .ok s { p with data := p.data ++ recPad r }
  | some a =>
    match s.moveIn k c (recDspace r) a (recSize r) f p with
    | .not m => m
    | .got bs bad pl s p =>
      let v := (typeFmt (recType r)).val (natLE bs)
      .ok s { p with data := p.data ++ bs, bad := p.bad ++ bad.map (· + f * recSize r),
                     hits := if chk && (v.isNan || v.isInf) then p.hits ++ [(a, pl)] else p.hits }

/-- `reduce` (R244) on element bits: OP, type, SAT, rounding mode. -/
def reduceElem (op c : Nat) (sat : Bool) (rm : BitVec 2) (d x : Nat) : Nat × BitVec 6 :=
  if op = 0 then (x, 0)
  else if typeFloat c then
    if op = 1 then (typeFmt c).add rm ((typeFmt c).val d) ((typeFmt c).val x)
    else ((typeFmt c).minmax (op = 3) d x, 0)
  else
    let m := intOf c d
    let v := intOf c x
    (narrow c (op = 1 && sat) (if op = 1 then m + v else if op = 2 then min m v else max m v), 0)

/-- TSTORE and CXFER to memory: element `f` of the data taken (R242, R244), with its flags. -/
def State.storeElem (s : State) (k c : Nat) (e : Entry) (g : FL) (p : PorterRun) (f : Nat) : Moved × BitVec 6 :=
  let r := p.record
  let n := recSize r
  let sp := recDspace r
  let a := (recAddr r f).getD 0
  let bs := (p.data.drop (f * n)).take n
  let bad := (p.bad.filter fun i => f * n ≤ i && i < f * n + n).map (· - f * n)
  let src := tilePlace (s.tileKey k (topTile g.ta)) + f * n
  if a % n != 0 then (.fault (atElem (accessCause 15 a sp true false) f) s, 0)
  else if e.op = 0xEB && g.cxOp != 0 then
    match s.touch k c sp a n f false p.passed with
    | .fault x s => (.fault x s, 0)
    | .page w s => (.page w s, 0)
    | .stalls pls => (.stalls s (p.passed ++ pls), 0)
    | .remote s => (.ok s.dropStore (p.err a sp f true), 0)
    | .ok pl _ s =>
      let s := if pl < Place.base .spad then
          let key := l1Key (s.physOf k) pl
          ((s.combineAll (s.buffersAt (s.physOf k) pl)).writeBack key).dropSector key
        else s
      let (v, fl) := reduceElem g.cxOp (recType r) (g.sat = 1) e.rm (natLE (s.bytes pl n)) (natLE bs)
      let bad := if bad != [] then bad else if s.poisoned pl n then List.range n else []
      (s.moveOut k c sp a f e.pc p (bytesLE v n) bad src, fl)
  else (s.moveOut k c sp a f e.pc p bs bad src, 0)

/-- BCOPY: element `f` of the source walk goes to byte `f·sz` of the destination (R243). -/
def State.copyElem (s : State) (k c : Nat) (e : Entry) (g : FL) (p : PorterRun) (f : Nat) : Moved :=
  let r := p.record
  let n := recSize r
  let tgt := (e.xs1.toNat + f * n) % 2 ^ 64
  match recAddr r f with
  | none => s.moveOut k c g.dspace tgt f e.pc p (recPad r) [] 0
  | some a =>
    match s.moveIn k c (recDspace r) a n f p with
    | .not m => m
    | .got bs bad pl s p => s.moveOut k c g.dspace tgt f e.pc p bs bad pl

/-! ### Compression blocks (R251, R252) -/

/-- CRC-32C over a byte, reflected: eight steps. -/
def crcBits : Nat → BitVec 32 → BitVec 32
  | 0, c => c
  | n + 1, c => crcBits n (if c.getLsbD 0 then (c >>> 1) ^^^ 0x82F63B78#32 else c >>> 1)
def crc32c (bs : List Byte) : BitVec 32 :=
  ~~~(bs.foldl (fun c b => crcBits 8 (c ^^^ b.setWidth 32)) (BitVec.allOnes 32))

/-- The words of a ZMASK payload after its mask. -/
def zmaskWords (mask : Nat) : Nat → Nat → List Byte → List Byte
  | _, 0, _ => []
  | w, n + 1, bs =>
    if mask.testBit w then bs.take 8 ++ zmaskWords mask (w + 1) n (bs.drop 8)
    else List.replicate 8 0 ++ zmaskWords mask (w + 1) n bs

def ones (mask : Nat) (n : Nat) : Nat := ((List.range n).filter mask.testBit).length

/-- The words of a RUN payload; none when a count is out of limits. -/
def runWords : List Byte → Nat → Option (List Byte)
  | [], _ => some []
  | _, 0 => none
  | bs, n + 1 =>
    let c := natLE (bs.take 2)
    if within 1 512 c && 10 ≤ bs.length then
      (runWords (bs.drop 10) n).map fun r => (List.replicate c ((bs.drop 2).take 8)).flatten ++ r
    else none

def blockMethod (h : Nat) : Nat := h % 16
def blockPlen (h : Nat) : Nat := h / 2 ^ 8 % 2 ^ 16
def blockSize (h : Nat) : Nat := h / 2 ^ 24 % 2 ^ 8 * 256

/-- A header's own rules. -/
def blockHeaderOk (h : Nat) : Bool :=
  let d := blockSize h
  let n := blockPlen h
  h / 16 % 16 = 0 && blockMethod h < 3 && within 256 4096 d &&
    (if blockMethod h = 0 then n = d else if blockMethod h = 1 then d / 64 ≤ n else n % 10 = 0)

/-- The decompressed bytes of a block, or the FORMAT subcode. -/
def blockBytes (h : Nat) (payload : List Byte) : Except Nat (List Byte) :=
  let d := blockSize h
  let n := blockPlen h
  let out :=
    if blockMethod h = 0 then some payload
    else if blockMethod h = 1 then
      let mask := natLE (payload.take (d / 64))
      if n = d / 64 + 8 * ones mask (d / 8) then some (zmaskWords mask 0 (d / 8) (payload.drop (d / 64))) else none
    else (runWords payload n).filter fun b => b.length = d
  match out with
  | none => .error 36
  | some bs => if (crc32c bs).toNat = h / 2 ^ 32 then .ok bs else .error 37

/-- The cause of a FORMAT on a record (R391). -/
def recordCause (sub : Nat) (e : Entry) : Cause := formatCause sub (e.recordAt.getD 0) e

/-- The cause of a FORMAT on a compression block: with the flat index and the block's address in ARG3 and ARG4 (R246, log entry
78). -/
def blockCause (sub : Nat) (e : Entry) (f a : Nat) : Cause :=
  let c := recordCause sub e
  { c with args := (c.args ++ List.replicate (3 - c.args.length) 0) ++ [f, a] }

/-- Reads 8-byte words from an address on. -/
def State.takeWords (s : State) (k c sp f : Nat) (p : PorterRun) (a : Nat) : Nat → Taken
  | 0 => .got [] [] 0 s p
  | n + 1 =>
    match s.moveIn k c sp a 8 f p with
    | .not m => .not m
    | .got bs bad pl s p =>
      match s.takeWords k c sp f p ((a + 8) % 2 ^ 64) n with
      | .not m => .not m
      | .got bs' bad' pl' s p => .got (bs ++ bs') (bad ++ bad'.map (· + 8)) (if bad != [] then pl else pl') s p

/-- BCOPY.DZ: one block, decompressed and checked, then written whole (R252). `f` is its first output byte; the number of
output bytes it gives. A poisoned block gives poisoned bytes. -/
def State.copyBlock (s : State) (k c : Nat) (e : Entry) (g : FL) (p : PorterRun) (f : Nat) : Moved × Nat :=
  let sp := recDspace p.record
  match s.moveIn k c sp p.src 8 f p with
  | .not m => (m, 0)
  | .got hb hbad _ s p =>
    let h := natLE hb
    if !blockHeaderOk h then (.fault (blockCause 36 e f p.src) s, 0)
    else
      let n := blockPlen h
      match s.takeWords k c sp f p ((p.src + 8) % 2 ^ 64) ((n + 7) / 8) with
      | .not m => (m, 0)
      | .got pb pbad pl s p =>
        match blockBytes h (pb.take n) with
        | .error sub => (.fault (blockCause sub e f p.src) s, 0)
        | .ok out =>
          let out := out.take (recCount p.record - f)
          let bad := if hbad.isEmpty && pbad.isEmpty then [] else List.range out.length
          let p := { p with src := (p.src + 8 + (n + 7) / 8 * 8) % 2 ^ 64 }
          (s.moveOut k c g.dspace ((e.xs1.toNat + f) % 2 ^ 64) f e.pc p out bad pl, out.length)

/-! ### Progress -/

/-- A BCOPY with DZ. -/
def Entry.dz (e : Entry) : Bool := e.op = 0xEA && e.opx 0

/-- The 64-byte units that element `f` touches, a source's and a destination's. -/
def unitsOf (e : Entry) (r : BitVec 512) (f : Nat) : List (Bool × Nat) :=
  let src := (recAddr r f).map fun a => (e.op != 0xEA && e.op != 0xE8, a / 64)
  let n := recSize r
  src.toList ++ (if e.op = 0xEA then
    [(true, (e.xs1.toNat + f * n) % 2 ^ 64 / 64), (true, (e.xs1.toNat + f * n + n - 1) % 2 ^ 64 / 64)] else [])

/-- The elements from `g` to before `f` and those from `f` on share no unit: an event may end there (R341, R342). A BCOPY with DZ,
whose next block stands at `src`, ends where no unit is left in part. -/
def unitEnd (e : Entry) (r : BitVec 512) (total g f src : Nat) : Bool :=
  if e.dz then (e.xs1.toNat + f) % 64 = 0 && src % 64 = 0
  else
    let before := (List.range (f - g)).flatMap fun i => unitsOf e r (g + i)
    !(List.range (total - f)).any fun i => (unitsOf e r (f + i)).any before.contains

/-- One element, or one compression block; the elements it covers and its flags. -/
def State.moveElem (s : State) (k c : Nat) (e : Entry) (g : FL) (p : PorterRun) (f : Nat) : Moved × Nat × BitVec 6 :=
  if e.op = 0xE8 then (s.loadElem k c (e.w0.getLsbD 56) p f, 1, 0)
  else if e.op = 0xEA then
    if e.dz then let (m, n) := s.copyBlock k c e g p f; (m, n, 0) else (s.copyElem k c e g p f, 1, 0)
  else let (m, fl) := s.storeElem k c e g p f; (m, 1, fl)

/-- What moving elements has come to: the outcome, the element it stands at, the run and the flags there. -/
structure Moving where
  out : Moved
  f : Nat
  run : PorterRun
  flags : BitVec 6
  deriving DecidableEq, Repr

/-- Moves elements from `f` on, until `upto` is passed at a unit's end, all are done, or something stops it. `from_` is how
things stood at the last unit's end: a wait for a page, a watermark or a log goes back to it, so that no unit is moved in
part (R328, R341). A fault ends the entry where it is. -/
def State.moveOn (s : State) (k c : Nat) (e : Entry) (g : FL) (total upto : Nat) (from_ : State × PorterRun × Nat × BitVec 6)
    (fl : BitVec 6) (p : PorterRun) (f : Nat) : Nat → Moving
  | 0 => { out := .ok s p, f := f, run := p, flags := fl }
  | n + 1 =>
    if total ≤ f then { out := .ok s p, f := f, run := p, flags := fl }
    else
      let (s0, p0, f0, fl0) := from_
      match s.moveElem k c e g p f with
      | (.ok s p', m, x) =>
        let cut := total ≤ f + m || unitEnd e p.record total f0 (f + m) p'.src
        let p' := if cut then { p' with passed := [] } else p'
        if upto ≤ f + m && cut then { out := .ok s p', f := f + m, run := p', flags := fl ||| x }
        else s.moveOn k c e g total upto (if cut then (s, p', f + m, fl ||| x) else from_) (fl ||| x) p' (f + m) n
      | (.stalls _ ps, _, _) => { out := .stalls s0 ps, f := f0, run := { p0 with passed := ps }, flags := fl0 }
      | (.page w _, _, _) => { out := .page w s0, f := f0, run := p0, flags := fl0 }
      | (r, _, _) => { out := r, f := f, run := p, flags := fl }

/-! ### The watermark (R248, R249) -/

/-- The destination space of an entry, coded as DSPACE. -/
def Entry.toSpace (e : Entry) (g : FL) (r : BitVec 512) : Nat := if e.op = 0xEA then g.dspace else recDspace r

/-- The lowest destination address from element `f` on, and one past the highest of all. -/
def lowestFrom (e : Entry) (r : BitVec 512) (f : Nat) : Nat :=
  if e.op = 0xEA then
    let n := if e.dz then 1 else recSize r
    let a := (e.xs1.toNat + f * n) % 2 ^ 64
    if 2 ^ 64 < a + (recCount r - f) * n then 0 else a
  else
    let as := (List.range (recCount r - f)).filterMap fun i => recAddr r (f + i)
    as.foldl min (as.headD 0)
def pastHighest (e : Entry) (r : BitVec 512) : Nat :=
  if e.op = 0xEA then min (2 ^ 64) (e.xs1.toNat + recCount r * (if e.dz then 1 else recSize r))
  else ((List.range (recCount r)).filterMap (recAddr r)).foldl max 0 + recSize r

/-- The word of a watermark. -/
def wmWord (busy susp : Bool) (sp mark : Nat) : Word :=
  BitVec.ofNat 64 ((if busy then 2 ^ 63 else 0) + (if susp then 2 ^ 62 else 0) + sp * 2 ^ 59 + mark % 2 ^ 52)

def State.setWm (s : State) (k c : Nat) (w : Word) : State :=
  let t := s.stream k
  s.setStream k { t with wm := tset 0 t.wm c w }

/-! ### The end of an entry -/

/-- The running entry at an index of a stream's list, replaced or removed. -/
def State.setRunning (s : State) (k j : Nat) (r : Option Running) : State :=
  let t := s.stream k
  s.setStream k { t with running := match r with | some r => t.running.set j r | none => t.running.eraseIdx j }

/-- Flags of an entry reach SSR when it completes, and an enabled one raises ARITH (R99, R117). -/
def State.entryFlags (s : State) (k unit : Nat) (e : Entry) (fl : BitVec 6) : State :=
  let t := s.stream k
  let ssr := setFlags t.ssr fl
  let s := s.setStream k { t with ssr := ssr }
  if tef e.ssr &&& fl = 0 then s else s.takeTrap k unit e.pc t.pc (arith fl ssr)

/-- What a channel or port return comes to (R250, R374, R418, R419): made; waiting for its replay turn, or for the waybill's page;
failed. -/
inductive Returned where
  | done (s : State)
  | waits (idx : Nat)
  | page (s : State)
  | fails (c : Cause) (s : State)
  deriving DecidableEq, Repr

/-- Returns one lent region to its lender, logged as an ORTRN by `actor`; a failure that does not stop it is recorded against
stream `k`, as of a unit, for no stream issues the operation. -/
def State.returnLogged (s : State) (k unit actor base addr : Nat) : Returned :=
  match tfind s.regions base with
  | none => .done s
  | some r =>
    if r.state != .lent || r.holder != actor then .done s
    else
      let l := k / 4096
      let home := fun (s : State) => match tfind s.regions base with | some r => s.comeHome base r | none => s
      let noted := fun (s : State) (c : Cause) => Returned.done (home (s.report k unit false true 0 Cut.default c))
      let e : LogEntry := { kind := 2, sub := 2, actor := actor, addr := addr, v0 := r.lender, v1 := r.ls }
      let failed := fun (stops : Cause → Bool) (c : LogStop) => match c with
        | .cause c q => let s := s.countRefusal q; if stops c then Returned.fails c s else noted s c
        | .page w => match s.askPage w.asid w.va with
          | some s => .page s
          | none => noted (s.takeFailure w.asid w.va) (accessCause 12 w.va 0 w.store false)
      match s.replayTurn l e with
      | .waits i => .waits i
      | .turn _ _ s => .done (home s)
      | .fails c => failed (fun c => c.code = 22 && c.sub = 1) c
      | .live =>
        match s.record l e with
        | .ok s => .done (home s)
        | .error c => failed (fun c => c.code = 22) c

/-- How far the channel returns of a running entry have come: those left, the replay turn that the first of them waits for, and
whether it waits for a page; the fault of one that failed. -/
structure Returns where
  left : List (Nat × Nat)
  s : State
  turn : Option Nat := none
  page : Bool := false
  fault : Option Cause := none
  deriving DecidableEq, Repr

/-- The channel returns of a running entry, one after another. -/
def State.channelReturns (s : State) (k c : Nat) : List (Nat × Nat) → Returns
  | [] => { left := [], s := s }
  | (b, a) :: r =>
    match s.returnLogged k 3 (channelId k c) b a with
    | .done s => s.channelReturns k c r
    | .waits i => { left := (b, a) :: r, s := s, turn := some i }
    | .page s => { left := (b, a) :: r, s := s, page := true }
    | .fails e s => let x := s.channelReturns k c r; { x with fault := x.fault.or (some e) }

/-- Quarantines the regions of the places of the hits (R323): the state, and how many. -/
def State.quarantineAll (s : State) : List Nat → State × Nat
  | [] => (s, 0)
  | p :: ps =>
    let (s, n) := if p < Place.base .spad then s.quarantine p else (s, 0)
    let (s, m) := s.quarantineAll ps
    (s, n + m)

/-- Slot, layer, head and block of a hit in an arena (R323). -/
def hitWords (d : BitVec 512) (a : Nat) : List Nat :=
  if a < arnBase d || arnNslot d * arnSstr d ≤ a - arnBase d then List.replicate 4 0xFFFFFFFF
  else
    let o := a - arnBase d
    let o1 := o % arnSstr d
    let o2 := o1 % arnLstr d
    [o / arnSstr d, o1 / arnLstr d, o2 / arnHstr d, o2 % arnHstr d / arnPstr d / 16]

/-- The tile writes of a finished TLOAD (R241, R323). -/
def State.finishLoad (s : State) (k : Nat) (r : Running) (p : PorterRun) : State :=
  let (s, data, bad) :=
    if p.hits = [] then (s, p.data, p.bad)
    else
      let (s, n) := s.quarantineAll (p.hits.map Prod.snd)
      let a := (p.hits.map Prod.fst).headD 0
      (s.report k 3 false true 0 Cut.default { code := 18, args := [a] ++ hitWords r.entry.arena a ++ [n] },
        List.replicate p.data.length 0, [])
  let put := fun (s : State) (x : Version × Nat) =>
    let part := (data.drop (2048 * x.2)).take 2048
    let s := s.finishWrite x.1.tile (part.mapIdx fun i b => (i, b)) x.1.quota false (some (s.writerOf k))
    s.poisonAll (tilePlace x.1.tile) ((bad.filter fun i => i / 2048 = x.2).map (· % 2048))
  (r.versions.mapIdx fun n v => (v, n)).foldl put s

/-- A fault leaves a TLOAD's tile as it was: its wip clears (R246). -/
def State.abandon (s : State) (r : Running) : State :=
  r.versions.foldl (fun s v => s.setTile v.tile { s.tile v.tile with wip := false }) s

/-- BASE := BASE + ADV in the record, when an entry completes without a fault (R239). -/
def State.advanceRecord (s : State) (k off : Nat) (r : BitVec 512) : State :=
  if recAdv r = 0 then s else s.putBytes (s.spadPlace k off) (bytesLE ((recBase r + recAdv r) % 2 ^ 64) 8)

/-- The last step of an entry whose returns are made: it leaves its channel. -/
def State.porterEnd (s : State) (k j : Nat) (r : Running) (p : PorterRun) : State :=
  let e := r.entry
  let s := if e.op = 0xE8 then (if p.fault.isSome then s.abandon r else s.finishLoad k r p) else s
  let s := s.setRunning k j none
  let s := match e.recordAt with
    | some o => if p.fault.isSome then s else s.advanceRecord k o p.record
    | none => s
  let s := if p.erred != [] then
      let t := s.stream k
      let s := s.setStream k { t with ssr := t.ssr ||| 4 }
      if terem e.ssr && p.fault.isNone then s.takeTrap k 3 e.pc t.pc { code := 17, args := p.erred } else s
    else s
  match p.fault with
  | some c => s.takeTrap k 3 e.pc (s.stream k).pc c
  | none => s.entryFlags k 3 e r.flags

/-- The end of a run, after all elements or at a fault: the watermark, then the returns of a HOLD = 0 entry, one turn at a
time in replay, then the last step. -/
def State.porterFinish (s : State) (k j : Nat) (g : FL) (r : Running) (p : PorterRun) : State :=
  let e := r.entry
  let c := e.channel
  let s := if e.op = 0xE8 then s
    else s.setWm k c (wmWord false false (e.toSpace g p.record)
      (if p.fault.isSome then lowestFrom e p.record r.progress else pastHighest e p.record))
  let x := if e.op = 0xE8 || e.opx 1 then { left := [], s := s } else s.channelReturns k c p.wrote
  let s := x.s
  let same := x.left.head? = p.wrote.head?
  let p := { p with wrote := x.left, fault := p.fault.or x.fault }
  if x.page then s.setRunning k j (some { r with porter := some { p with turn := none } })
  else match x.turn with
    | some i =>
      let since := match p.turn with | some t => if same then t.since else s.aclk k | none => s.aclk k
      s.setRunning k j (some { r with porter := some { p with turn := some { since := since, args := [i], actor := some (channelId k c) } } })
    | none => s.porterEnd k j r p

/-- Writes the resume point into the record's IDX (R247). -/
def State.saveIndex (s : State) (k off : Nat) (r : BitVec 512) (f : Nat) : State :=
  s.putBytes (s.spadPlace k (off + 0x30))
    ((List.range 4).flatMap fun d => bytesLE (if d < recRank r then recIndex r f d else 0) 2)

/-- Runs the started channel entry at index `j` of stream `k` on to element `upto`. -/
def State.porterRun (s : State) (k j : Nat) (r : Running) (p : PorterRun) (upto : Nat) : State :=
  let e := r.entry
  let c := e.channel
  match e.fields with
  | none => s
  | some (_, g) =>
    if r.total ≤ r.progress || p.fault.isSome then s.porterFinish k j g r p
    else
      let m := s.moveOn k c e g r.total upto (s, p, r.progress, 0) 0 p r.progress r.total
      let f := m.f
      let p := m.run
      let r := { r with progress := f, flags := r.flags ||| m.flags, porter := some p }
      let wm := fun (s : State) (susp : Bool) =>
        if e.op = 0xE8 then s else s.setWm k c (wmWord true susp (e.toSpace g p.record) (lowestFrom e p.record f))
      match m.out with
      | .gone s => s
      | .stalls s' _ => (wm s' false).setRunning k j (some r)
      | .ok s p =>
        let r := { r with porter := some p }
        if r.total ≤ f then s.porterFinish k j g r p else (wm s false).setRunning k j (some r)
      | .fault x s =>
        let p := { p with fault := some x }
        s.porterFinish k j g { r with porter := some p } p
      | .page w s =>
        if e.op = 0xEA then
          let s := (wm (s.saveIndex k e.xs2.toNat p.record f) true).requestPage w.asid w.va
          s.setRunning k j (some { r with paging := some w })
        else
          let p := { p with fault := some (atElem (accessCause 12 w.va w.space w.store false) f) }
          s.porterFinish k j g { r with porter := some p } p

/-! ### Starts (R234, R237, R240 to R245) -/

/-- The checks of an iterator record before the start (R237): ALIGN, ALLOC_BOUNDS, then the lowest FORMAT subcode. -/
def recordCheck (e : Entry) (g : FL) (spad : Nat) (r : BitVec 512) (off : Nat) : Option Cause :=
  let tile := if e.opx 0 then 4096 else 2048
  let bytes := recCount r * recSize r
  let onTile := e.op != 0xEA
  if off % 64 != 0 then some (accessCause 15 off 1 false false)
  else if spad < off + 64 then some (accessCause 14 off 1 false false)
  else if !recOk r then some (recordCause 32 e)
  else if onTile && tile < bytes then some (recordCause 33 e)
  else if (e.op = 0xE9 || e.op = 0xEB) && !recDest r then some (recordCause 34 e)
  else if e.dz && (recType r != 7 || !recDest r) then some (recordCause 35 e)
  else if e.op = 0xEB && (bytes != tile || (g.cxOp != 0 && recType r != g.imm.toNat % 16)) then some (recordCause 38 e)
  else if g.chk = 1 && recSpace r != 3 then some (recordCause 39 e)
  else if g.chk = 1 && !typeFloat (recType r) then some (recordCause 40 e)
  else none

/-- The first page of a walk that has no translation, with its first element; translations made on the way fill the TLB. -/
def State.missingPage (s : State) (asid : Nat) : List (Nat × Nat) → State × Option (Nat × Nat)
  | [] => (s, none)
  | (pg, f) :: r =>
    if 2 ^ 36 ≤ pg then s.missingPage asid r
    else match s.translate (s.physOf s.cur) asid (pg * 4096) with
      | some (_, s) => s.missingPage asid r
      | none => (s, some (pg * 4096, f))

/-- The head of the Porter's queue waits for a page, unstarted (R247). -/
def State.entryPage (s : State) (w : PageWait) : Result :=
  let s := s.requestPage w.asid w.va
  .next (s.setSt { s.st with porterQ := { s.st.porterQ with wait := none, paging := some w } })

/-- A store or atomic that precedes an entry marked `mark` and touches bytes at a place has not performed (R239, R378). -/
def Stream.storesBefore (t : Stream) (mark place n : Nat) : Bool :=
  t.accesses.any fun a => a.1 < mark && (match a.2.todo with | .load _ => false | _ => true) &&
    a.2.places.any fun q => q < place + n && place < q + a.2.n

/-- The channel of the head entry `e` of stream `k` is free, no running entry of the stream reads its record (R234), and every STS
to the record's bytes that precedes it has performed (R239). -/
def State.channelFree (s : State) (k : Nat) (e : Entry) : Bool :=
  let t := s.stream k
  !(e.onChannel && s.channelBusy k e.channel) && match e.recordAt with
    | none => true
    | some off =>
      !(t.onPorter.any fun x => x.entry.recordAt = some off) && !t.storesBefore e.mark (s.spadPlace k off) 64

/-- An entry with an iterator record: it waits for its channel and its record's earlier reader, its record is read and
checked, its pages are made resident when it has a tile operand, and it starts. -/
def porterInstr (i : Instr) (f : FL) (s : State) (work : Entry → BitVec 512 → State → Work) : Result :=
  longWith i f (fun t e => (t, e)) s fun unit e s =>
    let off := e.recordAt.getD 0
    let r := BitVec.ofNat 512 (s.readLE (s.spadPlace s.cur off) 64)
    if !s.channelFree s.cur e || s.st.porterQ.paging.isSome then s.stall
    else match recordCheck e f s.launch.m.spad r off with
      | some c => s.entryTrap unit e c
      | none =>
        let sp := recDspace r
        let (s, miss) := if e.op != 0xEA && (sp = 0 || sp = 5) then s.missingPage s.launch.asid (recPages r) else (s, none)
        match miss with
        | some (va, x) =>
          s.entryPage { asid := s.launch.asid, va := va, space := sp, store := e.op != 0xE8, fetch := false, f := x }
        | none => s.startEntry unit e false f.dq (work e r s)

/-- The data of the tiles taken at a start, with its poisoned offsets (R107). -/
def State.takeTiles (s : State) (o : Operand) (pair : Bool) : List Byte × List Nat :=
  let n := if pair then 4096 else 2048
  (s.bytes (tilePlace o.key) n, s.badBytes (tilePlace o.key) n)

/-- The watermark of an entry that starts (R249). -/
def State.startWm (s : State) (e : Entry) (g : FL) (r : BitVec 512) : State :=
  s.setWm s.cur e.channel (wmWord true false (e.toSpace g r) (lowestFrom e r 0))

/-- TLOAD (R241, R323). -/
def execTload (f : FL) (s : State) : Result :=
  porterInstr (.tload f) f s fun e r s =>
    { srcs := [], dsts := pairOps (s.entryOp f.dt e.edt false) (f.bit 57),
      run := fun _ => { total := recCount r, porter := some { record := r } } }

/-- A memory destination from tiles. -/
def storeWork (f : FL) (e : Entry) (r : BitVec 512) (s : State) : Work :=
  let o := s.entryOp f.ta e.eta false
  { srcs := pairOps o (f.bit 57), dsts := [],
    run := fun s =>
      let (data, bad) := s.takeTiles o (f.bit 57)
      { total := recCount r, porter := some { record := r, data := data, bad := bad },
        post := fun s => s.startWm e f r } }

/-- TSTORE (R242). -/
def execTstore (f : FL) (s : State) : Result := porterInstr (.tstore f) f s (storeWork f)

/-- BCOPY (R243, R251). -/
def execBcopy (f : FL) (s : State) : Result :=
  porterInstr (.bcopy f) f s fun e r _ =>
    { srcs := [], dsts := [],
      run := fun _ => { total := recCount r, porter := some { record := r, src := recBase r },
                        post := fun s => s.startWm e f r } }

/-- The elements of a CXFER to a tile: the combined bytes, their poisoned offsets, the flags. -/
def combineTiles (f : FL) (rm : BitVec 2) (old new : List Byte) (obad nbad : List Nat) :
    List Byte × List Nat × BitVec 6 :=
  if f.cxOp = 0 then (new, nbad, 0)
  else
    let c := f.imm.toNat % 16
    let n := typeBits c / 8
    let xs := (List.range (new.length / n)).map fun i =>
      reduceElem f.cxOp c (f.sat = 1) rm (natLE ((old.drop (i * n)).take n)) (natLE ((new.drop (i * n)).take n))
    let hurt := (List.range (new.length / n)).filter fun i => (obad ++ nbad).any fun o => o / n = i
    let (vs, fl) := joinFlags xs
    (vs.flatMap fun v => bytesLE v n, hurt.flatMap fun i => (List.range n).map (i * n + ·), fl)

/-- CXFER to a tile of another core of the stream's cluster (R244): both tests in one step. -/
def cxferTile (f : FL) (s : State) : Result :=
  longWith (.cxfer f) f (fun t e => (t, e)) s fun unit e s =>
    if !s.channelFree s.cur e then s.stall
    else if 8 ≤ e.xs1.toNat || s.launch.m.ncore ≤ e.xs1.toNat then
      s.entryTrap unit e { code := 14, args := [e.xs1.toNat] }
    else
      let pair := f.bit 57
      let o := s.entryOp f.ta e.eta false
      let d : Operand :=
        { key := s.rankTileKey s.cur e.xs1.toNat (topTile f.dt), num := topTile f.dt, mode := topMode f.dt, exp := e.edt,
          mark := false }
      s.startEntry unit e false f.dq
        { srcs := pairOps o pair, dsts := pairOps d pair,
          run := fun s =>
            let (new, nbad) := s.takeTiles o pair
            let (old, obad) := s.takeTiles d pair
            let (out, bad, fl) := combineTiles f e.rm old new obad nbad
            let part := fun (n : Nat) => ((out.drop (2048 * n)).take 2048).mapIdx fun i b => (i, b)
            { versions := [part 0, part 1], flags := fl, porter := some { bad := bad } } }

/-- CXFER (R244). -/
def execCxfer (f : FL) (s : State) : Result :=
  if f.bit 59 then cxferTile f s else porterInstr (.cxfer f) f s (storeWork f)

/-- WMWAIT (R245): it waits for the earlier entries of its stream on the channel. -/
def execWmwait (f : FL) (s : State) : Result :=
  longWith (.wmwait f) f (fun t e => (t, e)) s fun unit e s =>
    if s.st.onPorter.any fun r => r.entry.onChannel && r.entry.channel = e.channel then s.stall
    else
      s.startEntry unit e false f.dq
        { srcs := [], dsts := if f.bit 57 then [s.entryOp f.dt e.edt false] else [], run := fun _ => { versions := [[]] } }

end Sys2Proof.Machine
end

