-- ==== Sys2Proof/Machine/Collective.lean ====
section
/-! DEFINITION. Collectives (R367 to R380): the loop-nest record and its walk, handles and generations, the arrival of chunks
at the device's port, and COLL and COLLSTOP. A record is held as one number of 128 bytes. -/

namespace Sys2Proof.Machine

/-! ### The record (R367, R368) -/

def colSrc (r : Nat) : Nat := fieldOf r 0 8
def colDst (r : Nat) : Nat := fieldOf r 8 8
def colChunk (r : Nat) : Nat := fieldOf r 0x40 4
def colCtl (r : Nat) : Nat := fieldOf r 0x44 4
def colOp (r : Nat) : Nat := colCtl r % 16
def colType (r : Nat) : Nat := colCtl r / 2 ^ 4 % 16
def colSat (r : Nat) : Bool := (colCtl r).testBit 10
def colAkind (r : Nat) : Nat := colCtl r / 2 ^ 12 % 4
def colLevels (r : Nat) : Nat := colCtl r / 2 ^ 14 % 4 + 1
def colSize (r : Nat) : Nat := colCtl r / 2 ^ 16 % 64 + 1
def colRpos (r : Nat) : Nat := colCtl r / 2 ^ 22 % 64
def colHold (r : Nat) : Bool := (colCtl r).testBit 28
def colAgran (r : Nat) : Bool := (colCtl r).testBit 29
def colRing (r : Nat) : Nat := fieldOf r 0x48 8
def colTarget (r : Nat) : Nat := fieldOf r 0x50 8
def colRank (r : Nat) : Nat := fieldOf r 0x5A 2
def colStep (r : Nat) : Nat := fieldOf r 0x5C 2
def colContrib (r : Nat) : Nat := fieldOf r 0x5E 2
def colArrive (r : Nat) : Nat := fieldOf r 0x60 4
def colCount (r d : Nat) : Nat := fieldOf r (0x10 + 12 * d) 2
def colCoef (r d : Nat) : Int := sextNat (fieldOf r (0x12 + 12 * d) 2) 16
def colSstr (r d : Nat) : Int := sextNat (fieldOf r (0x14 + 12 * d) 4) 32
def colDstr (r d : Nat) : Int := sextNat (fieldOf r (0x18 + 12 * d) 4) 32

/-- A record within the limits of R367, for a handle. -/
def colOk (r h : Nat) : Bool :=
  let ctl := colCtl r
  let t := colTarget r
  colSrc r % 64 = 0 && colDst r % 64 = 0 && colDst r < 2 ^ 48 && within 64 65536 (colChunk r) && colChunk r % 64 = 0 &&
    ctl < 2 ^ 30 && !ctl.testBit 11 && ctl / 2 ^ 8 % 4 = 0 && colRpos r < colSize r && colAkind r != 3 && colOp r < 4 &&
    colType r < 8 && (colOp r != 0 || (colType r = 0 && !colSat r && colContrib r = 0)) && colRing r % 128 = 0 &&
    ((List.range 4).all fun d => if d < colLevels r then colCount r d != 0 else fieldOf r (0x10 + 12 * d) 12 = 0) &&
    (if colAkind r = 1 then t < 2 ^ 21 else if colAkind r = 2 then t % 8 = 0 else t = 0) &&
    fieldOf r 0x58 2 = h && fieldOf r 0x68 24 = 0

/-- Product of the counts of the first `d` levels. -/
def colProd (r : Nat) : Nat → Nat
  | 0 => 1
  | d + 1 => colProd r d * colCount r d
def colTotal (r : Nat) : Nat := colProd r (colLevels r)

/-- The sum of a level's coefficient times its index. -/
def colSum (r f : Nat) (step : Nat → Int) : Int :=
  ((List.range (colLevels r)).map fun d => (f / colProd r d % colCount r d : Nat) * step d).sum

/-- Source and destination addresses of transfer `f`, and its ring position before the skips (R369). -/
def colFrom (r f : Nat) : Nat := ((colSrc r + colSum r f (colSstr r)) % 2 ^ 64).toNat
def colTo (r f : Nat) : Nat := ((colDst r + colSum r f (colDstr r)) % 2 ^ 48).toNat
def colPlace (r f : Nat) : Nat := ((colRpos r + colSum r f (colCoef r)) % (colSize r : Int)).toNat

/-- The next live position round the ring. -/
def skipRing (ring : List Nat) (size : Nat) : Nat → Nat → Nat
  | 0, p => p
  | n + 1, p => skipRing ring size n (if 2 ^ 15 ≤ ring.getD p 0 then (p + 1) % size else p)
/-- The device that transfer `f` goes to. -/
def colDevice (r : Nat) (ring : List Nat) (f : Nat) : Nat :=
  ring.getD (skipRing ring (colSize r) (colSize r) (colPlace r f)) 0 % 4096

/-! ### Handles (R370 to R372) -/

def State.handle (s : State) (h : Nat) : Handle := tget Handle.default s.handles h
def State.setHandle (s : State) (h : Nat) (v : Handle) : State := { s with handles := tput s.handles h v }

inductive CollTest where
  /-- It may proceed: the handle is bound and its generation is that of the start. -/
  | go (s : State)
  /-- It waits for the generation before it. -/
  | waits
  | fails (code sub : Nat)
  deriving DecidableEq, Repr

/-- The test of a start (R372). -/
def State.collTest (s : State) (h g : Nat) (launch : Option Nat) (asid : Nat) (nowait : Bool) : CollTest :=
  match tfind s.handles h with
  | none => .go (s.setHandle h { Handle.default with launch := launch, asid := asid, gen := some g })
  | some v =>
    let cur := v.gen.getD g
    if v.launch != launch then .fails 19 3
    else if cur = g then .go (s.setHandle h { v with completed := false })
    else if (cur + 1) % 2 ^ 32 = g then
      if v.completed then
        .go (s.setHandle h { Handle.default with launch := launch, asid := asid, gen := some g, held := v.held })
      else if nowait then .fails 19 1 else .waits
    else .fails 4 75

/-- The start has walked and had every transfer acknowledged. -/
def CollStart.finished (c : CollStart) : Bool := c.total ≤ c.next && c.unacked.isEmpty

/-- A COLL of (h, g) waits in a queue. -/
def Entry.startsColl (e : Entry) (h g : Nat) : Bool :=
  e.op = 0xF8 && e.xs2.toNat / 2 ^ 32 = h && e.xs2.toNat % 2 ^ 32 = g
def State.collQueued (s : State) (h g : Nat) : Bool :=
  s.streams.any fun e => e.2.porterQ.entries.any fun x => x.startsColl h g

/-! ### The port: writes and arrival actions (R373, R374) -/

/-- The place of a write of the port, or its cause. -/
def State.portSpot (s : State) (h asid a n : Nat) : Except (Cause × State) (Nat × State) :=
  match s.locatePaged farTlb asid [portId h] none 0 a n false true [] with
  | (.ok p _ _, s) =>
    match s.widxAt p n with
    | some q => .error (accessCause 13 a 0 true false, s.refuseWidx q)
    | none => .ok (p, s)
  | (.cause c, s) => .error (c, s)
  | (.page _ va, s) => .error (accessCause 12 va 0 true false, s)
  | (.remote, s) => .error (accessCause 13 a 0 true false, s)

/-- A record of a failure of the port, against the stream of the receiving start, if the handle is a launch's. -/
def State.portNote (s : State) (v : Handle) (c : Cause) : State :=
  if v.launch.isSome then s.report v.recvStream 5 false true 0 Cut.default c else s

/-- A REPLAY_ORDER that stops the stream of the receiving start: a return that fails with it is not made, and the generation never
completes (R389, R418, log entry 35). -/
def State.portStop (s : State) (h : Nat) (v : Handle) (c : Cause) : State :=
  (s.setHandle h { s.handle h with broken := true }).takeTrap v.recvStream 5 v.recvPc (s.stream v.recvStream).pc c

/-- The regions lent to the port that the generation wrote return, one after another (R374); those that wait for their replay
turn or the waybill's page are left, with the turn. -/
def State.portBack (s : State) (h : Nat) (v : Handle) : List (Nat × Nat) → List (Nat × Nat) × Option Nat × State
  | [] => ([], none, s)
  | (b, a) :: r =>
    if v.launch.isNone then
      (match tfind s.regions b with
        | some (g : Region) => if g.state = Hold.lent && g.holder = portId h then s.comeHome b g else s
        | none => s).portBack h v r
    else match s.returnLogged v.recvStream 5 (portId h) b a with
      | .done s => s.portBack h v r
      | .waits i => ((b, a) :: r, some i, s)
      | .page s => ((b, a) :: r, none, s)
      | .fails c s => (s.portStop h v c).portBack h v r

/-- The returns of a generation's lent regions go on; a return's wait for its turn is measured in the receiving stream's cycles
(R419). -/
def State.portReturn (s : State) (h : Nat) (v : Handle) : State :=
  let (left, turn, s) := s.portBack h v v.wrote
  let wait := turn.map fun i =>
    let since := match v.turn with | some w => if left = v.wrote then w.since else s.aclk v.recvStream | none => s.aclk v.recvStream
    ({ since := since, args := [i], actor := some (portId h) } : Wait)
  s.setHandle h { s.handle h with wrote := left, turn := wait }

/-- The TSIG of an arrival on a tile of the bound launch, and whether it has been made: it waits under `write_test`, pending as
any write is (R105, R373). -/
def State.portSignal (s : State) (h : Nat) (v : Handle) (t : Nat) : Bool × State :=
  match v.launch with
  | none => (true, s)
  | some l =>
    let w := s.launchOf l
    let core := t / 2 ^ 11 % 64 * w.m.ncore + t / 2 ^ 8 % 8
    let key := (l * 512 + t / 2 ^ 11 % 64 * 8 + t / 2 ^ 8 % 8) * 256 + t % 256
    let o : Operand := { key := key, num := t % 256, mode := 0, exp := 0, mark := false }
    if w.cores.isEmpty || (w.phase != .placed && w.phase != .retiring) then (false, s)
    else
      match { s with cur := l * 4096 + core * w.m.nstrm }.startTiles (portMark h) false [] [o] with
      | .starts s => (true, s.finishWrite key [] (BitVec.ofNat 4 (t / 2 ^ 17)) false none)
      | .waits s _ _ => (false, s)
      | .stale _ _ => (false, s)

/-- Performs the arrival actions that are due: the last of a generation waits until the returns are made. -/
def State.portActions (s : State) (h : Nat) : Nat → State
  | 0 => s
  | n + 1 =>
    let v := s.handle h
    match v.recv with
    | none => s
    | some r =>
      let a := v.arrivals + 1 - v.due
      if v.due = 0 || (a = colArrive r && v.wrote != [] && !colHold r) then s
      else
        let after := fun (s : State) => (s.setHandle h { s.handle h with due := (s.handle h).due - 1 }).portActions h n
        if colAkind r = 1 then (match s.portSignal h v (colTarget r) with | (true, s) => after s | (false, s) => s)
        else if colAkind r = 2 then
          after (match s.portSpot h v.asid (colTarget r) 8 with
            | .ok (p, s) => s.storeHome v.launch none p (bytesLE (a * 2 ^ 32 + v.gen.getD 0) 8)
            | .error (c, s) => s.portNote v { c with args := colTarget r :: c.args.tail })
        else after s

/-- The completion word of a packet start, and its end (R380). -/
def State.packetDone (s : State) (c : CollStart) (status detail : Nat) : State :=
  let s := { s with colls := s.colls.filter fun x => x.id != c.id }
  (s.writeOut c.asid c.complAddr c.complHost (bytesLE (completionWord c.tag status detail) 8)).settlePacket c.queue 2 c.id

def State.packetsDone (s : State) : List CollStart → State
  | [] => s
  | c :: cs => (s.packetDone c 0 0).packetsDone cs

/-- Generation `g` of a handle completes locally once every start has walked and is acknowledged, NARR chunks have arrived,
and every action and return is made (R370). Its flags reach the receiving start's stream then (R375). -/
def State.settleHandle (s : State) (h : Nat) : State :=
  match tfind s.handles h with
  | none => s
  | some v =>
    let g := v.gen.getD 0
    let mine := s.colls.filter fun c => c.handle = h && c.gen = g
    let need := match v.recv with | some r => colArrive r | none => 0
    let back := match v.recv with | some r => colHold r || v.wrote = [] | none => true
    if v.completed || v.broken || s.collQueued h g || v.arrivals < need || v.due != 0 || !back ||
        !mine.all CollStart.finished then s
    else
      let s := s.setHandle h { v with completed := true, flags := 0 }
      let s := s.packetsDone (mine.filter fun c => c.stream.isNone)
      if v.recv.isNone || v.flags = 0 || v.launch.isNone then s
      else
        let k := v.recvStream
        let t := s.stream k
        let ssr := setFlags t.ssr v.flags
        let s := s.setStream k { t with ssr := ssr }
        if tef v.recvSsr &&& v.flags = 0 then s else s.takeTrap k 5 v.recvPc t.pc (arith v.flags ssr)

/-- The port's work on a handle: returns once NARR chunks have arrived, the actions, the completion. -/
def State.portWork (s : State) (h : Nat) : State :=
  match tfind s.handles h with
  | none => s
  | some v =>
    match v.recv with
    | none => s.settleHandle h
    | some r =>
      let s := if colArrive r ≤ v.arrivals && !colHold r then s.portReturn h v else s
      (s.portActions h (v.due + 1)).settleHandle h

/-! ### Arrival (R373 to R376) -/

/-- A start stopped by a fault, or a transfer that errs: its generation never completes locally (R246, R370, R378). -/
def State.breakHandle (s : State) (h : Nat) : State :=
  match tfind s.handles h with | some v => s.setHandle h { v with broken := true } | none => s

/-- A transfer of a start of this device is acknowledged, or errs: then its generation is never acknowledged whole (R370). -/
def State.acknowledge (s : State) (id f : Nat) (ok : Bool) : State :=
  let t : State := { s with colls := s.colls.map fun c =>
    if c.id = id then { c with unacked := c.unacked.erase f, failed := c.failed.or (if ok then none else some f) } else c }
  match s.colls.find? fun c => c.id = id && c.gen = (s.handle c.handle).gen.getD 0 with
  | some c => if ok then t else t.breakHandle c.handle
  | none => t

/-- A chunk is dropped: at its sender it completes as a remote error (R223, R374). -/
def State.dropChunk (s : State) (c : Chunk) : State :=
  if c.dev = Config.deviceNumber then s.acknowledge c.start c.f false else { s with reply := some .remoteError }

/-- The 64-byte units, or parts of them, that `n` bytes at an address touch (R341). -/
def unitParts (a : Nat) : Nat → Nat → List (Nat × Nat)
  | _, 0 => []
  | n, fuel + 1 => if n = 0 then [] else let m := min n (64 - a % 64); (a, m) :: unitParts (a + m) (n - m) fuel
def unitsAt (a n : Nat) : List (Nat × Nat) := unitParts a n (n / 64 + 2)

/-- The places of a packet's parts, all checked before any is written. -/
def State.chunkPlaces (s : State) (h asid : Nat) : List (Nat × Nat) → Except State (List (Nat × Nat) × State)
  | [] => .ok ([], s)
  | (a, n) :: r =>
    match s.portSpot h asid a n with
    | .error (_, s) => .error s
    | .ok (p, s) => (s.chunkPlaces h asid r).map fun x => ((p, n) :: x.1, x.2)

/-- A packet's bytes combined into those of its destination, element by element (R375). -/
def combineBytes (op c : Nat) (sat : Bool) (old new : List Byte) : List Byte × BitVec 6 :=
  if op = 0 then (new, 0)
  else
    let n := typeBits c / 8
    let (vs, fl) := joinFlags ((List.range (new.length / n)).map fun i =>
      reduceElem op c sat 0 (natLE ((old.drop (i * n)).take n)) (natLE ((new.drop (i * n)).take n)))
    (vs.flatMap fun v => bytesLE v n, fl)

/-- The bytes at a list of parts, and the offsets of the poisoned ones. -/
def State.partBytes (s : State) : List (Nat × Nat) → List Byte × List Nat
  | [] => ([], [])
  | (p, n) :: r => let (bs, bad) := s.partBytes r; (s.bytes p n ++ bs, s.badBytes p n ++ bad.map (· + n))

/-- Writes bytes over a list of parts, from offset `o` on of what comes in; the lent regions written are noted. -/
def State.putPacket (s : State) (h dst : Nat) (launch : Option Nat) (bytes : List Byte) (bad : List Nat) (o : Nat)
    (wrote : List (Nat × Nat)) : List (Nat × Nat) → State × List (Nat × Nat)
  | [] => (s, wrote)
  | (p, n) :: ps =>
    let mine := (bad.filter fun i => o ≤ i && i < o + n).map (· - o)
    let wrote := match s.regionAt p with
      | some (b, r) =>
        let w := (b, (dst + o + 2 ^ 64 - (p - b)) % 2 ^ 64)
        if r.state = .lent && r.holder = portId h && !wrote.contains w then wrote ++ [w] else wrote
      | none => wrote
    ((s.storeHome launch none p ((bytes.drop o).take n)).poisonAll p mine).putPacket h dst launch bytes bad (o + n) wrote ps

/-- Key of a chunk in the counts of arrived bytes: sender, start and `f` (R373). -/
def chunkKey (c : Chunk) : Nat := (c.start * 2 ^ 64 + c.f) * 4096 + c.dev

/-- A chunk has arrived whole: it is counted, its action is due, and it is acknowledged (R370, R373). -/
def State.chunkArrived (s : State) (c : Chunk) (r : Nat) (ordered : Bool) : State :=
  let v := s.handle c.handle
  let n := v.arrivals + 1
  let acts := if colAgran r then (if n = colArrive r then 1 else 0) else 1
  let s := s.setHandle c.handle
    { v with arrivals := n, due := v.due + acts,
             combined := if ordered then tput v.combined c.dst (tget 0 v.combined c.dst + 1) else v.combined,
             partly := tdel v.partly c.dst }
  let s := if c.dev = Config.deviceNumber then s.acknowledge c.start c.f true else s
  s.portWork c.handle

inductive Arrival where
  /-- Placed or dropped. -/
  | done (s : State)
  | hold
  deriving DecidableEq, Repr

/-- A packet of a chunk at the port (R373 to R376). One that fails ownership or translation is dropped; one of an older
generation, of an unbound handle or of a rank that has come, whole or in part, is dropped and counted. -/
def State.place (s : State) (c : Chunk) : Arrival :=
  let drop := Arrival.done (s.dropChunk c).dropStore
  match tfind s.handles c.handle with
  | none => drop
  | some v =>
    let g := v.gen.getD 0
    if c.gen = (g + 1) % 2 ^ 32 then .hold
    else if c.gen != g then drop
    else match v.recv with
      | none => .hold
      | some r =>
        let ordered := c.op != 0 && colContrib r != 0
        let upto := tget 0 v.combined c.dst
        let other := fun (n : Nat) => n != 0 && n != chunkKey c + 1
        if ordered && (colContrib r ≤ c.rank || c.rank < upto || (c.rank = upto && other (tget 0 v.partly c.dst))) then drop
        else if ordered && upto < c.rank then .hold
        else match s.chunkPlaces c.handle v.asid (unitsAt (c.dst + c.off) c.bytes.length) with
          | .error s => .done (s.dropChunk c)
          | .ok (ps, s) =>
            if ps.any fun q => s.logFull (v.launch.getD 0) q.1 && v.launch.isSome then .hold
            else
              let (old, oldBad) := s.partBytes ps
              let (bs, fl) := combineBytes c.op c.ty c.sat old c.bytes
              let (s, wrote) :=
                s.putPacket c.handle (c.dst + c.off) v.launch bs (c.bad ++ if c.op = 0 then [] else oldBad) 0 v.wrote ps
              let got := tget 0 v.counts (chunkKey c) + c.bytes.length
              let s := s.setHandle c.handle
                { v with wrote := wrote, flags := v.flags ||| fl,
                         partly := if ordered then tput v.partly c.dst (chunkKey c + 1) else v.partly,
                         counts := if c.size ≤ got then tdel v.counts (chunkKey c) else tput v.counts (chunkKey c) got }
              .done (if c.size ≤ got then s.chunkArrived c r ordered else s)

/-- Places the held chunks of a handle that have become placeable. -/
def State.placeHeld (s : State) (h : Nat) : List Chunk → List Chunk → Bool → State × Bool
  | kept, [], moved => (s.setHandle h { s.handle h with held := kept }, moved)
  | kept, c :: cs, moved =>
    match s.place c with
    | .hold => s.placeHeld h (kept ++ [c]) cs moved
    | .done s => if (tfind s.handles h).isNone then (s, false) else s.placeHeld h kept cs true

def State.pump (s : State) (h : Nat) : Nat → State
  | 0 => s
  | n + 1 =>
    match tfind s.handles h with
    | none => s
    | some v => match s.placeHeld h [] v.held false with
      | (s, true) => s.pump h n
      | (s, false) => s

def State.pumpAll (s : State) (h : Nat) : State := (s.pump h ((s.handle h).held.length + 1)).portWork h

/-- Bytes in the holding buffer. -/
def State.heldBytes (s : State) : Nat := (s.handles.map fun e => (e.2.held.map fun c => c.bytes.length).sum).sum

/-- A chunk arrives: placed, dropped, held, or refused by a full buffer (R376). -/
def State.arrive (s : State) (c : Chunk) : State :=
  match s.place c with
  | .done s => s.pumpAll c.handle
  | .hold =>
    if s.heldBytes + c.bytes.length ≤ 65536 then
      let v := s.handle c.handle
      s.setHandle c.handle { v with held := v.held ++ [c] }
    else if c.dev = Config.deviceNumber then { s with refused := s.refused ++ [(s.dev.ns, c)] } else s

/-! ### The walk (R369, R378) -/

/-- Who a start's reads act for: the stream and its launch, or for a packet the host and the Factor (log entry 21). -/
def CollStart.ids (c : CollStart) : List Nat × Option Nat :=
  match c.stream with
  | some k => ([streamId k, launchId (k / 4096)], some (k / 4096))
  | none => ([Config.hostId, Config.factorId], none)

inductive Sent where
  | ok (s : State)
  | stalls (s : State)
  | page (w : PageWait) (s : State)
  | fault (c : Cause) (s : State)
  /-- Poisoned data has left for a peer, marked so (R403). -/
  | poison (place : Nat) (s : State)
  deriving DecidableEq, Repr

/-- What reading a source chunk comes to: its bytes, its poisoned offsets and the place of a poisoned unit. -/
inductive UnitsRead where
  | got (bs : List Byte) (bad : List Nat) (source : Option Nat) (s : State)
  | not (x : Sent)
  deriving DecidableEq, Repr

/-- The TLBs that a start's reads look in: its stream's core's, or for a packet those of its die alone. -/
def State.startTlb (s : State) (c : CollStart) : Nat := match c.stream with | some k => s.physOf k | none => farTlb

/-- Places whose checks a start's reads have passed under the watermark rule, kept in the start (R205, R218). -/
def State.startPassed (s : State) (id : Nat) (ps : List Nat) : State :=
  { s with colls := s.colls.map fun (x : CollStart) => if x.id = id then { x with passed := ps } else x }

/-- What the walker of a start's core reads at a place is ordered after. -/
def State.walkerSees (s : State) (c : CollStart) (place : Nat) : State :=
  match c.stream with | some k => s.engineSees (s.physOf k) 5 place | none => s

/-- Reads the 64-byte units of a source chunk at their home for transfer `f` (R341, R369). -/
def State.readUnits (s : State) (c : CollStart) (f : Nat) (passed : List Nat) : List (Nat × Nat) → UnitsRead
  | [] => .got [] [] none s
  | (a, n) :: r =>
    let a := a % 2 ^ 64
    match s.locatePaged (s.startTlb c) c.asid c.ids.1 c.ids.2 0 a n true false passed with
    | (.cause e, s) => .not (.fault (atElem e f) s)
    | (.page asid va, s) => .not (.page { asid := asid, va := va, space := 0, store := false, fetch := false, f := f } s)
    | (.remote, s) => .not (.fault (atElem (accessCause 13 a 0 false false) f) s)
    | (.ok p _ wm, s) =>
      let passed := if wm.isSome && !passed.contains p then passed ++ [p] else passed
      if (match wm with | some (k, ch) => !s.watermarkPasses k ch 0 a n | none => false) then .not (.stalls (s.startPassed c.id passed))
      else
        let s := s.walkerSees c p
        let bad := s.badBytes p n
        match s.readUnits c f passed r with
        | .not x => .not x
        | .got bs hurt q s =>
          .got (s.bytes p n ++ bs) (bad ++ hurt.map (· + n)) (if bad = [] then q else some p) s

/-- Sends transfer `next` of a start: to this device, or over a route to a peer; with no route it completes as a remote error
(R369, R386). -/
def State.sendNext (s : State) (c : CollStart) : Sent :=
  let f := c.next
  match s.readUnits c f c.passed (unitsAt (colFrom c.record f) (colChunk c.record)) with
  | .not x => x
  | .got bs bad source s =>
    let tgt := colDevice c.record c.ring f
    let sent := fun (x : CollStart) => if x.id = c.id then { x with next := f + 1, unacked := x.unacked ++ [f], passed := [] } else x
    let s : State := { s with colls := s.colls.map sent }
    let k : Chunk :=
      { handle := c.handle, gen := c.gen, f := f, rank := (colRank c.record + f * colStep c.record) % 65536,
        dev := Config.deviceNumber, start := c.id, dst := colTo c.record f, size := colChunk c.record, off := 0,
        op := colOp c.record, ty := colType c.record, sat := colSat c.record, bytes := bs, bad := bad }
    if tgt = Config.deviceNumber then .ok { s with flying := s.flying ++ [k] }
    else if !s.routed tgt then .ok (s.acknowledge c.id f false)
    else
      let s : State := { s with sent := s.sent ++ [{ dev := tgt, chunk := k, next := 0 }] }
      match source with
      | some p => .poison p s
      | none => .ok s

/-- Sends transfers until `upto`. -/
def State.sendMany (s : State) (id upto : Nat) : Nat → Sent
  | 0 => .ok s
  | n + 1 =>
    match s.colls.find? fun c => c.id = id with
    | none => .ok s
    | some c =>
      if c.total ≤ c.next || upto ≤ c.next then .ok s
      else match s.sendNext c with
        | .ok s => s.sendMany id upto n
        | x => x

/-- A start leaves the walker. -/
def State.dropStart (s : State) (id : Nat) : State := { s with colls := s.colls.filter fun c => c.id != id }

/-- REMERR for a walker entry of stream `k`, and the REMOTE trap that TEREM enables, with its words (R223). -/
def State.walkerError (s : State) (k : Nat) (e : Entry) (args : List Nat) : State :=
  let t := s.stream k
  let s := s.setStream k { t with ssr := t.ssr ||| 4 }
  if terem e.ssr then s.takeTrap k 5 e.pc t.pc { code := 17, args := args } else s

/-- The start of a running COLL entry. -/
def collId (k : Nat) (e : Entry) : Nat := k * 2 ^ 32 + e.seq.toNat

/-- Runs the started COLL at index `j` of stream `k` on to transfer `upto`, and completes it when it is finished. -/
def State.collRun (s : State) (k j : Nat) (r : Running) (upto : Nat) : State :=
  let e := r.entry
  let id := collId k e
  match s.colls.find? fun c => c.id = id with
  | none => s.setRunning k j none
  | some c =>
    if c.finished then
      let s := (s.dropStart id).setRunning k j none
      let s := match c.failed with
        | some f => s.walkerError k e ((accessCause 17 (colTo c.record f) 0 true false).args ++ [f])
        | none => s
      s.portWork c.handle
    else match s.sendMany id upto c.total with
      | .ok s => s
      | .stalls s => s
      | .page w s => (s.requestPage w.asid w.va).setRunning k j (some { r with paging := some w })
      | .fault x s =>
        (((s.dropStart id).setRunning k j none).breakHandle c.handle).takeTrap k 5 e.pc (s.stream k).pc x
      | .poison p s => s.consume k e.pc p

/-! ### COLL and COLLSTOP (R377 to R379) -/

/-- Starts that a core's walker runs. -/
def State.walkerLoad (s : State) (phys : Nat) : Nat :=
  (s.colls.filter fun c => match c.stream with
    | some k => s.physOf k = phys && !(s.launchOf (k / 4096)).cores.isEmpty
    | none => false).length

/-- A COLL entry that faults before it starts, on the walker. -/
def State.walkerTrap (s : State) (e : Entry) (c : Cause) : Result := .next (s.takeTrap s.cur 5 e.pc s.st.pc c)

/-- FORMAT of a record: ARG2 its address. -/
def colCause (sub : Nat) (e : Entry) : Cause := formatCause sub e.xs1.toNat e

/-- The record and its ring as the walker reads them at the start (R368, R378): what the core's L1 and combining buffers hold of
the record's bytes goes home first, so that every earlier store of the stream is seen. -/
inductive Nest where
  | got (r : Nat) (ring : List Nat) (place : Nat) (s : State)
  | page (va : Nat) (s : State)
  /-- An earlier store to the record has not performed, or a watermark holds the read back at one of these places (R205). -/
  | stalls (passed : List Nat)
  | fails (c : Cause)
  deriving DecidableEq, Repr

/-- A watermark, if one governs the read of `n` bytes at `a`, passes it. -/
def State.markPasses (s : State) (wm : Option (Nat × Nat)) (a n : Nat) : Bool :=
  match wm with | some (k, c) => s.watermarkPasses k c 0 a n | none => true

/-- What a core holds of the 128 bytes of a record goes home. -/
def State.homeRecord (s : State) (phys p : Nat) : State :=
  ((s.combineAll (s.buffersAt phys p)).combineAll (s.buffersAt phys (p + 64))).writeBack (l1Key phys p)

def State.readNest (s : State) (asid : Nat) (who : List Nat × Option Nat) (phys : Option Nat) (a h : Nat) (early : Nat → Bool)
    (bad : Nat → Cause) (passed : List Nat) : Nest :=
  let at_ := phys.getD farTlb
  let noted := fun (wm : Option (Nat × Nat)) (p : Nat) => if wm.isSome then [p] else []
  if a % 128 != 0 then .fails (bad 72)
  else match s.locatePaged at_ asid who.1 who.2 0 a 128 true false passed with
    | (.cause c, _) => .fails c
    | (.page _ va, s) => .page va s
    | (.remote, _) => .fails (bad 72)
    | (.ok p _ wm, s) =>
      if early p || !s.markPasses wm a 128 then .stalls (noted wm p)
      else
        let s := match phys with | some c => s.homeRecord c p | none => s
        let r := natLE (s.bytes p 128)
        if !colOk r h then .fails (bad 72)
        else match s.locatePaged at_ asid who.1 who.2 0 (colRing r) 128 true false passed with
          | (.cause c, _) => .fails c
          | (.page _ va, s) => .page va s
          | (.remote, _) => .fails (bad 72)
          | (.ok q _ wm', s) =>
            let s := match phys with | some c => (s.engineSees c 5 q).engineSees c 5 (q + 64) | none => s
            let ring := (List.range (colSize r)).map fun i => natLE (s.bytes (q + 2 * i) 2)
            if !s.markPasses wm' (colRing r) 128 then .stalls (noted wm p ++ noted wm' q)
            else if ring.any fun x => x / 2 ^ 12 % 8 != 0 then .fails (bad 72)
            else if ring.all fun x => 2 ^ 15 ≤ x then .fails (bad 73)
            else .got r ring p s

/-- A start begins: GEN is written at the record's home, the receiving start governs the arrivals from now on, and chunks
held for it are placed. -/
def State.beginColl (s : State) (c : CollStart) (place k : Nat) (pc ssr : Word) : State :=
  let launch := c.ids.2
  let s := s.storeHome launch (launch.map fun _ => s.physOf k) (place + 0x64) (bytesLE c.gen 4)
  let s := { s with colls := s.colls ++ [c] }
  if colArrive c.record = 0 then s
  else
    let v := s.handle c.handle
    (s.setHandle c.handle { v with recv := some c.record, recvStream := k, recvPc := pc, recvSsr := ssr }).pumpAll c.handle

/-- A target core that the launch lacks (R373). -/
def badTarget (m : Manifest) (r : Nat) : Bool :=
  colAkind r = 1 && (m.nclust ≤ colTarget r / 2 ^ 11 % 64 || m.ncore ≤ colTarget r / 2 ^ 8 % 8)

/-- A COLL whose handle is no longer as its issue test found it completes at its start with REMERR, and traps where TEREM is 1
(R98, R223, R378). It has made no access: the words of its record are free (log entry 11). -/
def State.lateColl (s : State) (e : Entry) : Result :=
  let s := s.popHead 3
  if terem e.ssr then
    let (a, s) := s.draw
    let (b, s) := s.draw
    let (c, s) := s.draw
    .next (s.walkerError s.cur e [a.toNat, b.toNat, c.toNat])
  else .next (s.walkerError s.cur e [])

/-- The head of the Porter's queue stays there, with the checks of its record's reads passed at some places (R205, R218). -/
def State.headPassed (s : State) (ps : List Nat) : Result :=
  let q := s.st.porterQ
  match ps.filter fun p => !q.passed.contains p with
  | [] => s.stall
  | ps => .next (s.setSt { s.st with porterQ := { q with passed := q.passed ++ ps } })

/-- COLL at the head of the Porter's queue. -/
def State.startColl (s : State) (e : Entry) : Result :=
  let k := s.cur
  let h := e.xs2.toNat / 2 ^ 32
  let g := e.xs2.toNat % 2 ^ 32
  if 4 ≤ s.walkerLoad (s.physOf k) || s.st.porterQ.paging.isSome then s.stall
  else match tfind s.handles h with
    | none => s.lateColl e
    | some v =>
      if v.gen != some g || v.launch != some (k / 4096) then s.lateColl e
      else match s.readNest s.launch.asid ([streamId k, launchId (k / 4096)], some (k / 4096)) (some (s.physOf k)) e.xs1.toNat h
          (fun p => s.st.storesBefore e.mark p 128) (fun sub => colCause sub e) s.st.porterQ.passed with
        | .stalls ps => s.headPassed ps
        | .fails c => s.walkerTrap e c
        | .page va s => s.entryPage { asid := s.launch.asid, va := va, space := 0, store := false, fetch := false, f := 0 }
        | .got r ring p s =>
          if colArrive r != 0 && v.recv.isSome then s.walkerTrap e (colCause 74 e)
          else if colArrive r != 0 && badTarget s.launch.m r then s.walkerTrap e (colCause 76 e)
          else
            let c : CollStart :=
              { id := collId k e, stream := some k, seq := e.seq, record := r, ring := ring, gen := g, handle := h,
                asid := s.launch.asid, next := 0, total := colTotal r, unacked := [], failed := none, paging := none,
                complAddr := 0, complHost := false, tag := 0, queue := 0 }
            let run : Running :=
              { unit := 3, entry := e, marks := [], versions := [], flags := 0, progress := 0, total := c.total,
                codebook := none, paging := none, porter := none }
            let s := s.popHead 3
            let s := s.setSt { s.st with running := s.st.running ++ [run] }
            .next (s.beginColl c p k e.pc e.ssr)

/-- The tests at issue: FORMAT 72 for the zero parts, then R372; a full queue stalls before any of them changes the handle. -/
def execColl (f : FL) (s : State) : Result :=
  match s.actor with
  | .engine _ => match s.st.porterQ.entries with | [] => .next s | e :: _ => s.startColl e
  | .sequencer =>
    if !s.st.guardTrue f.g then .next (s.advance 16)
    else
      let i := Instr.coll f
      let hg := (s.xr f.xs2).toNat
      let cause := fun code sub => ({ code := code, sub := sub, args := [i.word0.toNat, i.word1.toNat] } : Cause)
      if Config.queueDepth ≤ s.st.porterQ.entries.length then s.stall
      else if 2 ^ 48 ≤ hg then s.trap (cause 4 72)
      else match s.collTest (hg / 2 ^ 32) (hg % 2 ^ 32) (some s.launchNo) s.launch.asid (f.bit 57) with
        | .fails code sub => s.trap (cause code sub)
        | .waits => s.waitAt { since := 0 }
        | .go s => (s.setSt { s.st with wait := none }).append i f fun t e => (t, e)

/-- COLLSTOP (R379). -/
def execCollstop (f : FL) (s : State) : Result :=
  match s.actor with
  | .engine _ =>
    match s.st.porterQ.entries with
    | [] => .next s
    | e :: _ =>
      let h := e.xs1.toNat % 65536
      match tfind s.handles h with
      | none => .next (s.popHead 3)
      | some v =>
        if v.launch != some s.launchNo then s.walkerTrap e { code := 19, sub := 3, args := [e.w0.toNat, e.w1.toNat] }
        else .next ((s.popHead 3).stopHandle h)
  | .sequencer =>
    let i := Instr.collstop f
    if !s.st.guardTrue f.g then .next (s.advance 16)
    else if 65536 ≤ (s.xr f.xs1).toNat || s.xr f.xs2 != 0 then
      s.trap { code := 4, sub := 72, args := [i.word0.toNat, i.word1.toNat] }
    else s.append i f fun t e => (t, e)

end Sys2Proof.Machine
end

