-- ==== Sys2Proof/Machine/Climb.lean ====
section
/-! DEFINITION. The climb from the rails to READY (R7 to R12), security alarms (R18, R19), supply sags (R20) and the loss of the
rails (R22). STAGE is the stage that runs: a stage that completes leaves it at the next one, one that fails at its own number.
Stage 5 takes no time. -/

namespace Sys2Proof.Machine

/-! ### Rails -/

/-- The device loses everything but module flash; host memory, the peers and the model's own fields are not the device's. -/
def State.cold (s : State) (good : Bool) : State :=
  let c := State.powerOn s.dev.flash
  { c with dev := { c.dev with railsGood := good }, mem := s.mem.filter fun e => Place.base .host ≤ e.1 && e.1 < Place.base .tile,
           tape := s.tape, rota := s.rota, cur := s.cur, actor := s.actor, late := s.late, inp := s.inp, draws := s.draws }

/-- RAILS_GOOD: the climb begins at stage 0. Rails that are good already do not become so. -/
def execRailsGood (s : State) : Result := .next (if s.dev.railsGood then s else s.cold true)
/-- RAILS_LOST. -/
def execRailsLost (s : State) : Result := .next (s.cold false)

/-! ### Stages -/

/-- A stage runs: the rails are good, nothing has stopped the climb, and it is the stage's turn. -/
def State.climbing (s : State) (stage : Nat) : Bool :=
  s.dev.railsGood && !s.dev.stopped && !s.dev.halted && s.dev.stage.toNat = stage

/-- STAGE_FAILURE (R7). -/
def State.failStage (s : State) (stage code : Nat) : State :=
  { s with dev := { s.dev with stage := BitVec.ofNat 3 stage, failcode := BitVec.ofNat 8 code, stopped := true } }

/-- An image is accepted when both its signatures verify (R11). -/
def Image.good (i : Image) : Bool := i.ecdsa && i.lms

/-- How many of each SRAM store there are, and the bytes of one (R1). -/
def sramStores : List (Nat × Nat) :=
  [(384, 2 ^ 19), (384, 2 ^ 20), (384, 2 ^ 18), (48, 2 ^ 22), (4, 48 * 2 ^ 20), (4, 2 ^ 26)]

/-- A repair entry points into its store (R12). -/
def Repair.inside (r : Repair) : Bool :=
  match sramStores[r.store]? with
  | some (n, bytes) => r.unit < n && r.offset < bytes
  | none => false
def hbmInside (r : Nat × Nat) : Bool := r.1 < 8 && r.2 < 96 * 2 ^ 30

/-- The record is well formed (R12). -/
def Flash.wellFormed (f : Flash) : Bool := f.recordFormed && f.sramRepair.all Repair.inside && f.hbmRepair.all hbmInside

/-- FIRMWARE_VERIFY: from stage 0, stage 1 begins; in stage 1 it ends: an image, then the configuration record (log entry 79). -/
def execFirmwareVerify (s : State) : Result :=
  let f := s.dev.flash
  if s.climbing 0 then .next { s with dev := { s.dev with stage := 1 } }
  else if !s.climbing 1 then .next s
  else
    match (if f.imageA.good then some f.imageA else if f.imageB.good then some f.imageB else none) with
    | none => .next (s.failStage 1 (if f.imageA.ecdsa || f.imageB.ecdsa then 2 else 1))
    | some i =>
      let s := { s with dev := { s.dev with running := some i } }
      if !f.recordSigned then .next (s.failStage 1 3)
      else if !f.wellFormed then .next (s.failStage 1 4)
      else .next { s with dev := { s.dev with accepted := true, stage := 2 } }

/-- SELF_CALIBRATION: `flags` say whether the PLLs locked, the SerDes calibrated and the HBM trained. -/
def execSelfCalibration (s : State) : Result :=
  if !s.climbing 2 then .next s
  else if !s.inp.flags.getD 0 true then .next (s.failStage 2 5)
  else if !s.inp.flags.getD 1 true then .next (s.failStage 2 6)
  else if !s.inp.flags.getD 2 true then .next (s.failStage 2 7)
  else .next { s with dev := { s.dev with stage := 3 } }

/-- Every SRAM store and all of HBM zero, every tile reset, every directory and the prefix table empty (R8, R316). -/
def State.zeroAll (s : State) : State :=
  { s with mem := s.mem.filter fun e => Place.base .host ≤ e.1 && e.1 < Place.base .tile, poison := [], own := [], l1 := [],
           wc := [], regions := [], prefixes := [], prefixSeq := 0, tiles := [], codebooks := [] }

/-- MEMORY_INITIALISATION: `ok` is false when it meets an uncorrectable error. -/
def execMemoryInitialisation (s : State) : Result :=
  if !s.climbing 3 then .next s
  else if !s.inp.ok then .next (s.failStage 3 8)
  else .next { s.zeroAll with dev := { s.dev with stage := 4 } }

/-- The reset value of BKTCFG0 to BKTCFG2 (R407). -/
def bktReset : Word := 0x004000000003E800

/-- APPLY_CONFIGURATION: the end of stage 4, and at once READY; then the links begin to train. -/
def execApplyConfiguration (s : State) : Result :=
  if !s.climbing 4 then .next s
  else
    let f := s.dev.flash
    let cfg := (f.bktcfg.take 3).mapIdx fun i w => (i, w &&& (if i = 0 then 0xFFFF0000FFFFFF01 else 0xFFFF0000FFFFFF00))
    .next { s with dev := { s.dev with stage := 6, sku := f.sku, disabled := f.coreDisable, ready := true, readyAt := s.dev.ns,
                                       bktcfg := cfg } }

/-- Ports train with eight lanes, unless they are up, and the Factor programs routes over them (R381): `port * 4096 + device`. -/
def State.trainPorts (s : State) : List Nat → State
  | [] => s
  | n :: ns =>
    let p := tget Port.default s.ports (n / 4096 % 16)
    let p : Port := if p.up then p else { Port.default with up := true }
    let d := n % 4096
    let p := { p with routes := if p.routes.contains d then p.routes else p.routes ++ [d] }
    ({ s with ports := tput s.ports (n / 4096 % 16) p }).trainPorts ns

/-- The PCI Express link has trained, at `lanes` and `rate` where R384 has them, else at x16 and 128 GT/s. -/
def State.trainHost (s : State) (lanes rate : Nat) : State :=
  { s with hostUp := true, hostLanes := if [4, 8, 16].contains lanes then lanes else 16,
           hostRate := if [32, 64, 128].contains rate then rate else 128 }

/-- LINK_TRAINING in stage 6: with `ok` PCI Express trains, on `a` lanes at `b` GT/s, unless it is up; each of `nums` is a port
that trains, unless it is up, and a device that the pod's configuration routes over it (R381), `port * 4096 + device`. A link that does
not train stays down (R7). -/
def execLinkTraining (s : State) : Result :=
  if !s.climbing 6 then .next s
  else
    let s := if s.inp.ok && !s.hostUp then s.trainHost s.inp.a s.inp.b else s
    .next (s.trainPorts s.inp.nums)

/-! ### Alarms (R18, R19) -/

/-- The stronger of two policies. -/
def Policy.max : Policy → Policy → Policy
  | .erase, _ => .erase
  | _, .erase => .erase
  | .halt, _ => .halt
  | _, .halt => .halt
  | .log, .log => .log

/-- The policy that applies to the sources that fire: the strongest of theirs, and Halt for every source before the record
is accepted. -/
def Device.policyOf (d : Device) (fired : List Bool) : Policy :=
  if !d.accepted then .halt
  else ((fired.zip d.flash.policies).filter fun e => e.1).foldl (fun p e => p.max e.2) .log

/-- Halt, and erase. -/
def Device.obey (d : Device) : Policy → Device
  | .log => d
  | .halt => { d with halted := true, failcode := 9 }
  | .erase => { d with halted := true, failcode := 9, erased := true, memoryKeys := false, flash := { d.flash with attestKeys := false } }

/-- SECURITY_ALARM: `flags` name the sources, voltage, clock, temperature, mesh; all that fire together act at once. -/
def execSecurityAlarm (s : State) : Result :=
  let fired := (List.range 4).map fun i => s.inp.flags.getD i false
  let d := s.dev
  if !d.railsGood || !fired.any id then .next s
  else
    let log := (List.range 4).filter fun i => fired.getD i false
    let d := { d with alVolt := d.alVolt || fired.getD 0 false, alClk := d.alClk || fired.getD 1 false,
                      alTemp := d.alTemp || fired.getD 2 false, alMesh := d.alMesh || fired.getD 3 false,
                      events := d.events ++ log }
    .next { s with dev := d.obey (d.policyOf fired) }

/-! ### Supply sags (R20) -/

/-- A physical cluster whose rails are good. -/
def State.poweredCluster (s : State) (c : Nat) : Bool := s.dev.railsGood && c < Config.dies * Config.clustersPerDie

/-- SUPPLY_SAG of cluster `a`. A stretch is held one above its remaining ACLK cycles, so that 1 says that they have passed;
it stands still while the supply sags. -/
def execSupplySag (s : State) : Result :=
  let c := s.inp.a
  if !s.poweredCluster c then .next s
  else .next { s with dev := { s.dev with sagcnt := tput s.dev.sagcnt c (if tget 0 s.dev.sagcnt c = BitVec.allOnes 32 then BitVec.allOnes 32 else tget 0 s.dev.sagcnt c + 1),
                                          sagging := tset false s.dev.sagging c true, stretch := tset 0 s.dev.stretch c 257 } }
/-- SUPPLY_RECOVER: 256 cycles count from here. -/
def execSupplyRecover (s : State) : Result :=
  let c := s.inp.a
  if !(s.poweredCluster c && tget false s.dev.sagging c) then .next s
  else .next { s with dev := { s.dev with sagging := tset false s.dev.sagging c false, stretch := tset 0 s.dev.stretch c 257 } }
/-- SAG_STRETCH_END. -/
def execSagStretchEnd (s : State) : Result :=
  let c := s.inp.a
  if tget false s.dev.sagging c || tget 0 s.dev.stretch c != 1 then .next s
  else .next { s with dev := { s.dev with stretch := tset 0 s.dev.stretch c 0 } }

/-- The cluster's clocks run at half rate. -/
def State.halfRate (s : State) (c : Nat) : Bool := tget 0 s.dev.stretch c != 0

/-- DEVSTAT (R9). -/
def State.devstat (s : State) : Nat :=
  let bit := fun (b : Bool) (n : Nat) => if b then 2 ^ n else 0
  let d := s.dev
  bit d.ready 0 + d.stage.toNat * 2 ^ 4 + bit d.erased 7 + d.failcode.toNat * 2 ^ 8 + bit d.alVolt 16 + bit d.alClk 17 +
    bit d.alTemp 18 + bit d.alMesh 19

end Sys2Proof.Machine
end

