-- ==== Sys2Proof/Machine/Fit.lean ====
section
/-! DEFINITION. What fits where (R51, R52, R62), and the target sets of waiting newcomers that a later placement must leave
(R55). -/

namespace Sys2Proof.Machine

/-! ### The enabled part -/

/-- A core that may hold streams: enabled (R12) and not lost (R402). -/
def State.coreEnabled (s : State) (phys : Nat) : Bool :=
  !s.dev.disabled.getLsbD phys && !tget false s.dev.coreLost phys

/-- Bytes of a core's scratchpad, a cluster's serai and a die's Depot (R1). -/
def spadBytes : Nat := 2 ^ 20
def seraiBytes : Nat := 4 * 2 ^ 20
def depotBytes : Nat := 48 * 2 ^ 20

/-! ### What is in use -/

/-- The launches that hold resources, but those to be taken as gone. -/
def State.holding (s : State) (skip : List Nat) : List (Nat × Launch) :=
  s.launches.filter fun e => !e.2.cores.isEmpty && !skip.contains e.1

/-- What a newcomer's target set takes (R55): the launches taken as gone for it, its manifest, and the cores it is to
have; none is every free resource and theirs. -/
structure Target where
  skip : List Nat
  m : Manifest
  plan : Option (List CorePlace)
  deriving DecidableEq, Repr

/-- A manifest placed on cores, as a holder of resources. -/
def Target.holder (t : Target) : Option (Manifest × List CorePlace) := t.plan.map fun p => (t.m, p)

/-- Holders seen by a placement with `skip` taken as gone. -/
def State.holders (s : State) (skip : List Nat) : List (Manifest × List CorePlace) :=
  (s.holding skip).map fun e => (e.2.m, e.2.cores)

/-- Tile bank groups of a window. -/
def groupsOf (m : Manifest) (baseg : Nat) : List Nat := (List.range (m.twin / 32)).map (baseg + ·)

/-- Scratchpad that an allocation takes: each begins at a multiple of 32 KiB (R185). -/
def spadTaken (n : Nat) : Nat := (n + 32767) / 32768 * 32768

/-- A core's slots, tile bank groups and scratchpad in use. -/
def usedOn (hs : List (Manifest × List CorePlace)) (phys : Nat) : List Nat × List Nat × Nat :=
  hs.foldl (fun a h => match h.2.find? fun (c : CorePlace) => c.phys = phys with
    | some c => (a.1 ++ c.slots, a.2.1 ++ groupsOf h.1 c.baseg, a.2.2 + spadTaken h.1.spad)
    | none => a) ([], [], 0)

/-- A cluster's serai and barrier tags in use, and a die's Depot (R53). -/
def usedIn (hs : List (Manifest × List CorePlace)) (cluster : Nat) : Nat × Nat :=
  hs.foldl (fun a h => if h.2.any fun (c : CorePlace) => c.phys / 8 = cluster then (a.1 + h.1.serai, a.2 + h.1.nbar) else a) (0, 0)
def usedDepot (hs : List (Manifest × List CorePlace)) (die : Nat) : Nat :=
  hs.foldl (fun a h => if h.2.any fun (c : CorePlace) => c.phys / 96 = die then a + h.1.depot else a) 0

/-! ### Fitting (R51, R52) -/

/-- The holders against which a placement outside some target sets is tested: the present ones, and for each target those
that will stand once it is placed. -/
def State.views (s : State) (skip : List Nat) (avoid : List Target) : List (List (Manifest × List CorePlace)) :=
  s.holders skip :: avoid.map fun t => s.holders (t.skip ++ skip) ++ t.holder.toList

/-- A core: slots lowest first, the window at the lowest base. -/
def State.fitCore (s : State) (views : List (List (Manifest × List CorePlace))) (m : Manifest) (phys : Nat) : Option CorePlace :=
  let used := views.map fun v => usedOn v phys
  let slots := (List.range 8).filter fun i => used.all fun u => !u.1.contains i
  let bases := (List.range (9 - m.twin / 32)).filter fun b =>
    (groupsOf m b).all fun g => used.all fun u => !u.2.1.contains g
  if s.coreEnabled phys && m.nstrm ≤ slots.length && used.all (fun u => u.2.2 + spadTaken m.spad ≤ spadBytes) then
    bases.head?.map fun b => { phys := phys, slots := slots.take m.nstrm, baseg := b }
  else none

/-- The cores of a run, if each fits. -/
def State.fitRun (s : State) (views : List (List (Manifest × List CorePlace))) (m : Manifest) (phys : Nat) : Nat → Option (List CorePlace)
  | 0 => some []
  | n + 1 => match s.fitCore views m phys with
    | none => none
    | some c => (s.fitRun views m (phys + 1) n).map fun r => c :: r

/-- A cluster: the core range with the lowest start. -/
def State.fitCluster (s : State) (views : List (List (Manifest × List CorePlace))) (m : Manifest) (cluster : Nat) : Option (List CorePlace) :=
  if views.all fun v => (usedIn v cluster).1 + m.serai ≤ seraiBytes && (usedIn v cluster).2 + m.nbar ≤ 8 then
    ((List.range (9 - m.ncore)).filterMap fun i => s.fitRun views m (cluster * 8 + i) m.ncore).head?
  else none

/-- The clusters of a die that fit, in ascending order. -/
def State.fitDie (s : State) (views : List (List (Manifest × List CorePlace))) (m : Manifest) (die : Nat) : List (List CorePlace) :=
  if views.all fun v => usedDepot v die + m.depot ≤ depotBytes then
    (List.range Config.clustersPerDie).filterMap fun c => s.fitCluster views m (die * 12 + c)
  else []

/-- The dies of a restore (R62): each die rank's clusters on one die, dies rising with die rank. `room` tests a die's
directory. -/
def takeShape (dies : List (Nat × List (List CorePlace))) (room : Nat → Nat → Bool) : Nat → List Nat → Option (List (List CorePlace))
  | _, [] => some []
  | rank, n :: ns =>
    match dies with
    | [] => none
    | (d, cs) :: rest =>
      if n ≤ cs.length && room rank d then (takeShape rest room (rank + 1) ns).map fun r => cs.take n ++ r
      else takeShape rest room rank (n :: ns)

/-- Clusters of each die rank of a launch that has been placed. -/
def Launch.shapeOf (v : Launch) : List Nat :=
  (List.range v.dies.length).map fun r => (v.clusterDie.filter (· = r)).length

/-- The cores of a placement, in stream order; `shape` is empty but for a restore. -/
def State.fit (s : State) (m : Manifest) (skip : List Nat) (avoid : List Target) (shape : List Nat) (room : Nat → Nat → Bool) :
    Option (List CorePlace) :=
  if avoid.any fun t => t.plan.isNone then none
  else
    let views := s.views skip avoid
    let dies := (List.range Config.dies).map fun d => (d, s.fitDie views m d)
    let oneDie := m.policy / 64 % 2 = 1
    match (if shape != [] then takeShape dies room 0 shape
      else if oneDie then (dies.find? fun d => m.nclust ≤ d.2.length).map fun d => d.2.take m.nclust
      else
        let all := (dies.map Prod.snd).flatten
        if m.nclust ≤ all.length then some (all.take m.nclust) else none) with
    | some cs => some cs.flatten
    | none => none

/-- A die that takes a die rank of a restored launch has directory entries for its regions there (R62, R207). -/
def State.restoreRoom (s : State) (l : Nat) (rank die : Nat) : Bool :=
  let v := s.launchOf l
  let onRank := fun (c : Nat) => v.clusterDie.getD c 0 = rank
  let mine := s.regions.filter fun e =>
    if Place.base .spad ≤ e.1 && e.1 < Place.base .serai then
      (e.1 - Place.base .spad) / 2 ^ 20 / 512 = l && onRank ((e.1 - Place.base .spad) / 2 ^ 20 % 512 / 8)
    else if Place.base .serai ≤ e.1 && e.1 < Place.base .depot then
      (e.1 - Place.base .serai) / 2 ^ 22 / 64 = l && onRank ((e.1 - Place.base .serai) / 2 ^ 22 % 64)
    else if Place.base .depot ≤ e.1 then
      (e.1 - Place.base .depot) / 2 ^ 26 / 4 = l && (e.1 - Place.base .depot) / 2 ^ 26 % 4 = rank
    else false
  let others := s.regions.filter fun e => !ofLaunch l e.1 && s.homeDie e.1 = die
  let need := fun (t : Table Region) => (t.map fun e => 1 + e.2.shares.length).sum
  need others + need mine ≤ Config.directoryEntries

/-- A launch that the enabled part could hold if it were empty (R26). -/
def State.everFits (s : State) (m : Manifest) : Bool := (s.fit m (s.launches.map Prod.fst) [] [] fun _ _ => true).isSome

/-! ### Priorities (R47, R49) -/

/-- The effective priority of a candidate or of a bound launch. -/
def State.priority (s : State) (l : Nat) : Nat :=
  let v := s.launchOf l
  if v.phase != .latched then v.bound
  else
    let q := tfind s.queues v.queue
    let lim := match q with | some q => q.agelim | none => 10000
    let quantum := match q with | some q => q.ageq | none => 1000
    let w := (s.dev.ns - v.latchNs) / 1000
    if w ≤ lim then v.prio else min v.ageceil (v.prio + 1 + (w - lim) / max quantum 1)

/-! ### Target sets (R55) -/

/-- Incumbents taken as gone for a newcomer: those that decisions carried out for it have drained, checkpointed or killed (R56,
R57). -/
def State.leaving (s : State) (w : Nat) : List Nat :=
  ((s.draining ++ s.displacing).filter fun e => e / 2 ^ 14 = w).map (· % 2 ^ 14)

def State.shapeFor (s : State) (l : Nat) : List Nat :=
  let v := s.launchOf l
  if v.phase = .checkpointed then v.shapeOf else []
def State.roomFor (s : State) (l : Nat) : Nat → Nat → Bool :=
  if (s.launchOf l).phase = .checkpointed then s.restoreRoom l else fun _ _ => true

/-- The target set of a waiting newcomer, outside the sets of those before it. -/
def State.targetOf (s : State) (w : Nat) (before : List Target) : Target :=
  let m := (s.launchOf w).m
  let skip := s.leaving w
  { skip := skip, m := m, plan := s.fit m skip before (s.shapeFor w) (s.roomFor w) }
def State.targets (s : State) (before : List Target) : List Nat → List Target
  | [] => before
  | w :: ws => s.targets (before ++ [s.targetOf w before]) ws

/-- A newcomer's place among others: before those of lower priority now. -/
def State.rankIn (s : State) (l : Nat) : List Nat → List Nat
  | [] => [l]
  | b :: bs => if s.priority b < s.priority l then l :: b :: bs else b :: s.rankIn l bs

/-- The newcomers by their priorities now; of one priority the earlier selected first. -/
def State.ranked (s : State) : List Nat := s.newcomers.foldl (fun a l => s.rankIn l a) []

/-- The target sets that a placement of `l` must leave: those of the newcomers before it, of lower priority none. -/
def State.targetsBefore (s : State) (l : Nat) : List Target := s.targets [] (s.ranked.takeWhile (· != l))

end Sys2Proof.Machine
end

