-- ==== Sys2Proof/Machine/Queues.lean ====
section
/-! DEFINITION. Work queues: examining the head slot and latching its packet (R40 to R46), the manifest of a LAUNCH (R23 to R26,
R31, R41), packet copies (R255), COLL packets (R380) and SIGNALs (R43). -/

namespace Sys2Proof.Machine

/-! ### Accesses that no stream of a launch makes -/

/-- The checks of an access in an ASID for given identities and class (R37: 1 host, 2 peers), with no launch. -/
def State.outsideSpot (s : State) (asid : Nat) (ids : List Nat) (cls : Nat) (hostPages : Bool) (a : Nat) (load store : Bool) :
    Spot × State :=
  if 2 ^ 48 ≤ a then (.cause (accessCause 12 a 0 store false), s)
  else
    match s.translate farTlb asid a with
    | none => (.page asid a, s)
    | some (leaf, s) =>
      if (store && !leaf.w) || (leaf.host && !hostPages) then (.cause (accessCause 13 a 0 store false), s)
      else if leaf.host then (if s.hostReady then .ok (hostPlace (leaf.pa + a % 4096)) (some leaf) none else .remote, s)
      else if s.noToken leaf then
        (if s.queuePageOk leaf cls then .ok (leaf.pa + a % 4096) (some leaf) none
         else .cause (accessCause 13 a 0 store false), s)
      else (s.tokenSpot ids none (leaf.pa + a % 4096) a load store (some leaf), s)

/-- Bytes of device memory as the distributor reads them, whole 8-byte units at a time. -/
def State.distRead (s : State) (asid a : Nat) : Nat → Option (List Byte × State)
  | 0 => some ([], s)
  | n + 1 =>
    match s.distPlace asid a with
    | none => none
    | some (p, s) => (s.distRead asid (a + 8) n).map fun r => (s.bytes p 8 ++ r.1, r.2)

/-! ### The head slot (R40, R45) -/

def State.setQ (s : State) (q : Nat) (w : WorkQueue) : State := { s with queues := tput s.queues q w }

/-- The index words in memory. -/
def State.widx (s : State) (w : WorkQueue) : Nat := natLE (s.bytes w.widxPa 8)
def State.ridx (s : State) (w : WorkQueue) : Nat := natLE (s.bytes w.ridxPa 8)
def State.bumpRidx (s : State) (w : WorkQueue) : State := s.putBytes w.ridxPa (bytesLE (s.ridx w + 1) 8)

/-- PHASE of a lap. -/
def phaseOf (w : WorkQueue) (i : Nat) : Nat := if i / 2 ^ w.logslots % 2 = 0 then 1 else 0

/-- The published packet of the head slot, if there is one; a slot that does not translate counts as not published (log
entry 22). -/
def State.headPacket (s : State) (w : WorkQueue) : Option (List Byte × State) :=
  match s.distRead w.asid (w.base + s.ridx w % 2 ^ w.logslots * 64) 8 with
  | some (bs, s) => if (bs.getD 1 0).toNat % 2 = phaseOf w (s.ridx w) then some (bs, s) else none
  | none => none

/-- A queue that the distributor may examine. -/
def WorkQueue.open (w : WorkQueue) : Bool :=
  !w.closing && !w.stalled && w.head.isNone && w.packet.isNone

/-- A field of a packet of 64 bytes. -/
def pktField (bs : List Byte) (o n : Nat) : Nat := natLE ((bs.drop o).take n)
def pktType (bs : List Byte) : Nat := pktField bs 0 1
def pktTag (bs : List Byte) : Nat := pktField bs 4 4

/-- The body length of a type (R41). -/
def pktLen : Nat → Option Nat
  | 0 => some 0
  | 1 => some 40
  | 2 => some 40
  | 3 => some 24
  | 4 => some 16
  | _ => none

/-- Reserved bits of a body, and the numbers with limits and no detail of their own (log entry 22). -/
def pktReserved (bs : List Byte) : Nat → Bool
  | 1 => pktField bs 0x28 8 &&& 0xFFFFFFFFFF0000FC != 0 || 4096 < pktField bs 0x29 2
  | 2 => pktField bs 0x20 8 / 4 != 0 || pktField bs 0x18 8 = 0 || 2 ^ 40 < pktField bs 0x18 8
  | 3 => pktField bs 0x16 2 != 0
  | 4 => pktField bs 0x10 8 / 2 != 0
  | _ => false

/-- Addresses of a body: offset, alignment, and whether 0 means none. -/
def pktAddrs : Nat → List (Nat × Nat × Bool)
  | 1 => [(0x08, 64, false), (0x10, 64, true), (0x18, 8, true), (0x20, 8, true)]
  | 2 => [(0x08, 8, false), (0x10, 8, false), (0x28, 8, true)]
  | 3 => [(0x08, 128, false), (0x18, 8, true)]
  | 4 => [(0x08, 8, true)]
  | _ => []

/-- The completion address that a type places, and whether it is in host memory. -/
def pktCompletion (bs : List Byte) : Nat → Option (Nat × Bool)
  | 1 => some (pktField bs 0x18 8, pktField bs 0x28 1 % 2 = 1)
  | 2 => some (pktField bs 0x28 8, pktField bs 0x20 1 / 2 % 2 = 1)
  | 3 => some (pktField bs 0x18 8, false)
  | 4 => some (pktField bs 0x08 8, pktField bs 0x10 1 % 2 = 1)
  | _ => none

/-- The BAD_PACKET detail of a packet: the lowest that applies. -/
def badPacket (bs : List Byte) : Option Nat :=
  let t := pktType bs
  match pktLen t with
  | none => some 1
  | some n =>
    if pktField bs 2 2 != n then some 2
    else if pktField bs 1 1 / 2 != 0 || (bs.drop (8 + n)).any (· != 0) || pktReserved bs t then some 3
    else if (pktAddrs t).any fun x => pktField bs x.1 8 % x.2.1 != 0 || (!x.2.2 && pktField bs x.1 8 = 0) then some 4
    else none

/-- A queue fault record (R46, R390), and the driver's signal. -/
def State.queueFault (s : State) (q : Nat) (w : WorkQueue) (c : Cause) : State :=
  let r := faultRecord false true 6 c 0xFFFF 0 0 0 Cut.default
  let s := s.writeTo w.asid w.qfault false (bytesLE r.toNat 128)
  { s with dev := s.dev.signal 2 q }

/-- The completion counter that a LAUNCH packet names, if its address is aligned (R41, R42). -/
def State.packetCounter (s : State) (w : WorkQueue) (bs : List Byte) : State :=
  let a := pktField bs 0x20 8
  if pktType bs = 1 && a % 8 = 0 then s.addOne w.asid a (pktField bs 0x28 1 / 2 % 2 = 1) else s

/-- A queue fault record of a broken packet, whose cause the spec does not give: one of those that R389 reports (log entry 11). -/
def State.brokenPacket (s : State) (q : Nat) (w : WorkQueue) (i : Nat) : State :=
  let (v, s) := s.draw
  s.queueFault q w { code := v.toNat % 27 + 1, sub := v.toNat / 256 % 256, args := [q, i] }

/-- A broken packet performs nothing: a BAD_PACKET completion word, and its counter, or a queue fault record (R42). -/
def State.refusePacket (s : State) (q : Nat) (w : WorkQueue) (bs : List Byte) (i detail : Nat) : State :=
  match pktCompletion bs (pktType bs) with
  | some (a, host) =>
    if a % 8 = 0 then (s.writeOut w.asid a host (bytesLE (completionWord (pktTag bs) 4 detail) 8)).packetCounter w bs
    else s.brokenPacket q w i
  | none => if pktType bs = 0 then s else s.brokenPacket q w i

/-! ### The manifest (R24 to R26, R31) -/

/-- D_m of a manifest, its checkpoint size S and its cost C (R59, R60). -/
def Manifest.maxDies (m : Manifest) : Nat := if m.policy / 64 % 2 = 1 then 1 else min 4 m.nclust
def Manifest.ckptSize (m : Manifest) : Nat :=
  4096 + 22528 * m.streams + (m.twin * 2052 + m.spad + 1024) * (m.nclust * m.ncore) + m.serai * m.nclust + m.depot * m.maxDies
def Manifest.ckptCost (m : Manifest) : Nat :=
  10 + (m.ckptSize + (1000000 * m.maxDies - 1)) / (1000000 * m.maxDies)

/-- A manifest from its header. -/
def parseManifest (b : List Byte) : Manifest :=
  let f := pktField b
  let orElse := fun (v d : Nat) => if v = 0 then d else v
  { policy := f 0x02 2, nclust := f 0x04 1, ncore := f 0x05 1, nstrm := f 0x06 1, nleg := f 0x07 1, twin := f 0x08 2, nbar := f 0x0A 1,
    ncb := f 0x0B 1, ngrant := f 0x0C 2, spad := f 0x10 4, serai := f 0x14 4, depot := f 0x18 4, entry := f 0x20 8,
    faultq := f 0x28 8, fqlog := f 0x30 1, ckpt := f 0x38 8, ckptlen := f 0x40 8, estr := f 0x48 4, allow := f 0x4C 4,
    rbint := orElse (f 0x50 4) 50000, retto := orElse (f 0x54 4) 1000, returnto := f 0x58 4, super := f 0x5C 4,
    waitlim := orElse (f 0x60 4) (2 ^ 24), waybill := f 0x68 8, wblen := f 0x70 8,
    legtab := (List.range 16).map fun i => f (0x80 + i) 1, bartab := (List.range 8).map fun i => f (0x90 + 8 * i) 8,
    grants := f 0xD0 8, cbtab := f 0xD8 8 }

/-- The reserved bytes of the header; one that is not zero and lies in no listed field is a bad field at its own offset (log
entry 22). -/
def manifestReserved : List Nat :=
  [0x0E, 0x0F, 0x1C, 0x1D, 0x1E, 0x1F, 0x31, 0x32, 0x33, 0x34, 0x35, 0x36, 0x37, 0x64, 0x65, 0x66, 0x67, 0x78, 0x79, 0x7A, 0x7B,
   0x7C, 0x7D, 0x7E, 0x7F] ++ (List.range 32).map (0xE0 + ·)

/-- A barrier group entry that R31 accepts; `n` is the number of clusters that its members span. R31 does not say whether a DIE
group whose members lie in one cluster is good without ONEDIE, which such a group needs not: DESIGN CHOICE, it is (log entry
88). -/
def barEntryOk (m : Manifest) (e : Nat) : Bool :=
  let scope := e % 8
  let member := e / 16 % 4
  let leg := e / 2 ^ 8 % 16
  let slot := e / 2 ^ 12 % 8
  let n := if member = 2 && m.nleg != 0 then m.legtab.getD leg 0 else m.nclust
  e / 8 % 2 = 0 && e / 64 % 4 = 0 && e / 2 ^ 15 = 0 && member != 3 && within 2 4 scope &&
    (if member = 1 then slot < m.nstrm else slot = 0) &&
    (if member = 2 then (if m.nleg = 0 then leg = 0 else leg < m.nleg) else leg = 0) &&
    (scope != 2 || n ≤ 1) && (scope != 3 || n ≤ 1 || m.policy / 64 % 2 = 1)

/-- Offsets of the bad fields of a header (R24 to R26). -/
def badFields (b : List Byte) (m : Manifest) : List Nat :=
  let bad := fun (o : Nat) (ok : Bool) => if ok then [] else [o]
  let pol := fun (i : Nat) => m.policy.testBit i
  let legs := m.legtab.take m.nleg
  (manifestReserved.filter fun o => b.getD o 0 != 0) ++
    bad 0x00 (pktField b 0 2 = 1) ++ bad 0x02 (m.policy < 128 && m.replay != 3 && (!pol 2 || pol 0)) ++
    bad 0x04 (within 1 48 m.nclust && !(pol 6 && 12 < m.nclust) &&
      !(m.nleg != 0 && m.nleg ≤ 16 && legs.all (· != 0) && legs.sum != m.nclust)) ++
    bad 0x05 (within 1 8 m.ncore) ++ bad 0x06 (within 1 8 m.nstrm) ++ bad 0x07 (m.nleg ≤ 16) ++
    bad 0x08 (within 32 256 m.twin && m.twin % 32 = 0) ++ bad 0x0A (m.nbar ≤ 8) ++ bad 0x0B (m.ncb ≤ 64) ++
    bad 0x0C (m.ngrant ≤ 64) ++ bad 0x10 (m.spad % 2048 = 0 && m.spad ≤ spadBytes) ++
    bad 0x14 (m.serai % 2048 = 0 && m.serai ≤ seraiBytes) ++ bad 0x18 (m.depot % 4096 = 0 && m.depot ≤ depotBytes) ++
    bad 0x20 (m.entry % 8 = 0) ++ bad 0x28 (m.faultq % 4096 = 0) ++ bad 0x30 (within 4 16 m.fqlog) ++
    bad 0x38 (m.ckpt % 4096 = 0) ++ bad 0x40 (!pol 0 || m.ckptSize ≤ m.ckptlen) ++
    bad 0x68 (m.waybill % 4096 = 0 && !(m.replay != 0 && m.waybill = 0)) ++
    ((List.range 16).filter fun i => if i < m.nleg then m.legtab.getD i 0 = 0 else m.legtab.getD i 0 != 0).map (0x80 + ·) ++
    ((List.range 8).filter fun i =>
      if i < m.nbar then !barEntryOk m (m.bartab.getD i 0) else m.bartab.getD i 0 != 0).map (0x90 + 8 * ·) ++
    bad 0xD0 (m.grants % 16 = 0) ++ bad 0xD8 (m.cbtab % 32 = 0)

/-- Entry addresses lie in an executable mapping (R24). -/
def State.entryOk (s : State) (asid a : Nat) : Bool :=
  a < 2 ^ 48 && match s.translate farTlb asid a with | some (leaf, _) => leaf.x && !leaf.host | none => false

/-- The grant and codebook tables, of which nothing is read where nothing is asked for. -/
def State.readTables (s : State) (asid : Nat) (m : Manifest) : Option (Latched × State) :=
  match s.distRead asid m.grants (if m.ngrant = 0 then 0 else 2 * m.ngrant) with
  | none => none
  | some (g, s) =>
    match s.distRead asid m.cbtab (if m.cbtab = 0 then 0 else 4 * m.ncb) with
    | none => none
    | some (c, s) =>
      let books : Table (BitVec 256) := (List.range m.ncb).foldl
        (fun t i => tset 0 t i (BitVec.ofNat 256 (pktField c (32 * i) 32))) []
      some ({ m := m, grants := (List.range m.ngrant).map fun i => (pktField g (16 * i) 8, pktField g (16 * i + 8) 8),
              books := books }, s)

def State.readManifest (s : State) (asid a : Nat) : (Nat × Nat) ⊕ (Latched × State) :=
  match s.distRead asid a 32 with
  | none => .inl (2, 0xFFFF)
  | some (b, s) =>
    let m := parseManifest b
    let offs := badFields b m ++ (if s.entryOk asid m.entry then [] else [0x20])
    match offs with
    | o :: os => .inl (2, os.foldl min o)
    | [] => match s.readTables asid m with
      | none => .inl (2, 0xFFFF)
      | some (t, s) => if s.everFits m then .inr (t, s) else .inl (7, 0)

/-! ### Latching (R45, R47) -/

/-- Latches the packet read from the head slot: of a LAUNCH the manifest is read and the descriptor captured (R23, R47); then RIDX
moves on, and a broken packet is consumed at once. -/
def State.latch (s : State) (q : Nat) (w : WorkQueue) (bs : List Byte) : State :=
  let i := s.ridx w
  match badPacket bs with
  | some d => ((s.bumpRidx w).refusePacket q w bs i d).setQ q { w with unpublished := none, notified := true }
  | none =>
    let (read, s) :=
      if pktType bs = 1 then
        match s.readManifest w.asid (pktField bs 0x08 8) with
        | .inl st => (some (.inl st), s)
        | .inr (t, s) => (some (.inr t), s)
      else (none, s)
    let p : Packet :=
      { bytes := bs, launch := read, prio := w.prio, weight := w.weight, ageceil := w.ageceil, ns := s.dev.ns }
    (s.bumpRidx w).setQ q { w with unpublished := none, notified := true, packet := some p }

/-- QUEUE_EXAMINE of queue `a`. -/
def execQueueExamine (s : State) : Result :=
  let q := s.inp.a
  match tfind s.queues q with
  | none => .next s
  | some w =>
    if !w.open || !w.notified || w.unpublished.isSome then .next s
    else if s.widx w ≤ s.ridx w then .next (s.setQ q { w with notified := false })
    else match s.headPacket w with
      | some (bs, s) => .next (s.latch q w bs)
      | none => .next (s.setQ q { w with notified := false, unpublished := some s.dev.ns })

/-- HEADER_POLL of queue `a`. -/
def execHeaderPoll (s : State) : Result :=
  let q := s.inp.a
  match tfind s.queues q with
  | none => .next s
  | some w =>
    if !w.open || w.unpublished.isNone then .next s
    else match s.headPacket w with
      | some (bs, s) => .next (s.latch q w bs)
      | none => .next s

/-- STALLED_SLOT of queue `a`: a header published by the moment the limit expires is latched. -/
def execStalledSlot (s : State) : Result :=
  let q := s.inp.a
  match tfind s.queues q with
  | none => .next s
  | some w =>
    match w.unpublished with
    | none => .next s
    | some t =>
      if !w.open || s.dev.ns < t + w.stalllim * 1000 then .next s
      else match s.headPacket w with
        | some (bs, s) => .next (s.latch q w bs)
        | none =>
          .next ((s.queueFault q w { code := 20, args := [q, s.ridx w] }).setQ q { w with unpublished := none, stalled := true })

/-- A packet of a type at hand: the queue is finished with it after `body`. -/
def packetStep (t : Nat) (s : State) (body : Nat → WorkQueue → Packet → State → Result) : Result :=
  let q := s.inp.a
  match tfind s.queues q with
  | none => .next s
  | some w => match w.packet with
    | none => .next s
    | some p => if pktType p.bytes = t then body q w p s else .next s

/-- The head is finished with: the queue is examined again. -/
def WorkQueue.passed (w : WorkQueue) : WorkQueue := { w with packet := none, notified := true }

/-- PACKET_NOP. -/
def execPacketNop (s : State) : Result := packetStep 0 s fun q w _ s => .next (s.setQ q w.passed)

/-- A launch number that no launch holds and no token or share names (R202). -/
def State.numberUsed (s : State) (l : Nat) : Bool :=
  (tfind s.launches l).isSome ||
    s.regions.any fun e => idOf l e.2.holder || (e.2.state = .lent && idOf l e.2.lender) || e.2.shares.any (idOf l)
def State.freeNumber (s : State) : Option Nat := ((List.range 16384).find? fun l => !s.numberUsed l)

/-- PACKET_LAUNCH: a bad or hopeless launch ends here, else it is the queue's latched head. With every number in use the packet
waits (log entry 22). -/
def execPacketLaunch (s : State) : Result :=
  packetStep 1 s fun q w p s =>
    let bs := p.bytes
    let flags := pktField bs 0x28 8
    match s.freeNumber, p.launch with
    | none, _ => .next s
    | some _, none => .next s
    | some _, some (.inl st) =>
      let s := s.writeOut w.asid (pktField bs 0x18 8) (flags % 2 = 1) (bytesLE (completionWord (pktTag bs) st.1 st.2) 8)
      .next ((s.packetCounter w bs).setQ q w.passed)
    | some l, some (.inr t) =>
      let arglen := flags / 2 ^ 8 % 2 ^ 16
      let v := { Launch.default with
        m := t.m, asid := w.asid, queue := q, tag := pktTag bs, argAddr := pktField bs 0x10 8,
        argLen := if arglen = 0 then 128 else arglen, complAddr := pktField bs 0x18 8, complHost := flags % 2 = 1,
        counterAddr := pktField bs 0x20 8, counterHost := flags / 2 % 2 = 1, grants := t.grants, codebooks := t.books,
        prio := p.prio, weight := p.weight, ageceil := p.ageceil, drain := w.drain, latchNs := p.ns }
      .next ((s.setLaunch l v).setQ q { w with packet := none, head := some l, outstanding := w.outstanding ++ [(0, l)] })

/-! ### Packet copies (R255) -/

/-- The identities of a copy (R204), and the class by which it reaches queue pages. -/
def copyIds : List Nat := [Config.hostId, Config.factorId]

inductive CopyStep where
  | ok (c : Copy) (s : State)
  /-- A page is missing: the copy stands where it has come to. -/
  | page (c : Copy) (w : PageWait) (s : State)
  | fault (code : Nat) (c : Copy) (s : State)
  deriving DecidableEq, Repr

/-- What a read of a copy comes to. -/
inductive CopyRead where
  | got (bs : List Byte) (bad : List Nat) (s : State)
  | not (r : CopyStep)
  deriving DecidableEq, Repr

/-- Reads `n` bytes of one 64-byte unit for a copy; the poisoned offsets come with them. -/
def State.copyRead (s : State) (asid : Nat) (c : Copy) (a n : Nat) : CopyRead :=
  match s.outsideSpot asid copyIds 1 true a true false with
  | (.ok p _ _, s) => .got (s.bytes p n) (s.badBytes p n) s
  | (.page x va, s) => .not (.page c { asid := x, va := va, space := 0, store := false, fetch := false, f := 0 } s)
  | (.cause x, s) => .not (.fault x.code c s)
  | (.remote, s) => .not (.fault 17 c s)

/-- The queue whose WIDX an address translates into. -/
def State.widxOf (s : State) (asid a n : Nat) : Option Nat :=
  if 2 ^ 48 ≤ a then none
  else match s.translate farTlb asid a with
    | some (leaf, _) => if leaf.host then none else s.widxAt (leaf.pa + a % 4096) n
    | none => none

/-- The places of a copy's parts, each in one 64-byte unit, up to the first that fails, and what it fails with. A page that is
missing stops the copy before any part is written; another fault after the parts before it (R255). A part that covers a WIDX
word is refused whatever refuses it, and counted (R38). -/
def State.copySpots (s : State) (asid : Nat) (c : Copy) : List (Nat × List Byte) → List (Nat × List Byte) × Option CopyStep × State
  | [] => ([], none, s)
  | (a, bs) :: r =>
    let w := s.widxOf asid a bs.length
    match s.outsideSpot asid copyIds 1 true a false true with
    | (.page x va, s) => ([], some (.page c { asid := x, va := va, space := 0, store := true, fetch := false, f := 0 } s), s)
    | (.cause x, s) => ([], some (.fault x.code c (s.countRefusal w)), s.countRefusal w)
    | (.remote, s) => ([], some (.fault 17 c s), s)
    | (.ok p _ _, s) =>
      match w with
      | some q => ([], some (.fault 13 c (s.refuseWidx q)), s.refuseWidx q)
      | none =>
        let (ps, stop, s) := s.copySpots asid c r
        ((p, bs) :: ps, stop, s)

/-- Writes parts at their places; poison that leaves for the host is consumed (R403). -/
def State.copyPut (s : State) (c : Copy) (bad : List Nat) (o : Nat) : List (Nat × List Byte) → CopyStep
  | [] => .ok c s
  | (p, bs) :: r =>
    let mine := (bad.filter fun i => o ≤ i && i < o + bs.length).map (· - o)
    let s := (s.putBytes p bs).poisonAll p mine
    let c := { c with progress := c.progress + bs.length }
    if Place.base .host ≤ p && mine != [] then
      .fault 24 c { s with dev := { s.dev with uncorrectable := s.dev.uncorrectable + 1 } }
    else s.copyPut c bad (o + bs.length) r

/-- Writes the next bytes of a copy's output. -/
def State.copyOut (s : State) (asid : Nat) (c : Copy) (bs : List Byte) (bad : List Nat) : CopyStep :=
  match s.copySpots asid c (cutUnits ((c.dst + c.progress) % 2 ^ 64) bs bs.length) with
  | (_, some (.page d w s), _) => .page d w s
  | (ps, stop, s) =>
    match s.copyPut c bad 0 ps, stop with
    | .ok d s, some (.fault x _ _) => .fault x d s
    | r, _ => r

/-- Bytes to the end of the 64-byte unit of an address. -/
def unitLeft (a : Nat) : Nat := 64 - a % 64

/-- Reads units of a plain copy's source, each whole, until `n` bytes are at hand. -/
def State.copyFill (s : State) (asid : Nat) (c : Copy) (n : Nat) : Nat → CopyStep
  | 0 => .ok c s
  | k + 1 =>
    let m := c.carry.length
    let a := (c.src + c.progress + m) % 2 ^ 64
    if n ≤ m then .ok c s
    else match s.copyRead asid c a (min (c.len - c.progress - m) (unitLeft a)) with
      | .not r => r
      | .got bs bad s => s.copyFill asid { c with carry := c.carry ++ bs, carryBad := c.carryBad ++ bad.map (· + m) } n k

/-- One part of a plain copy: the next unit of its destination, whole. Reads and writes are of whole units (R341). -/
def State.copyPart (s : State) (asid : Nat) (c : Copy) : CopyStep :=
  let n := min (c.len - c.progress) (unitLeft ((c.dst + c.progress) % 2 ^ 64))
  match s.copyFill asid c n 2 with
  | .ok c s =>
    match s.copyOut asid c (c.carry.take n) (c.carryBad.filter (· < n)) with
    | .ok d s => .ok { d with carry := d.carry.drop n, carryBad := (d.carryBad.filter (n ≤ ·)).map (· - n) } s
    | r => r
  | r => r

/-- Reads `n` words of a compressed stream. -/
def State.copyWords (s : State) (asid : Nat) (c : Copy) (a : Nat) : Nat → CopyRead
  | 0 => .got [] [] s
  | n + 1 =>
    match s.copyRead asid c a 8 with
    | .not r => .not r
    | .got bs bad s =>
      match s.copyWords asid c ((a + 8) % 2 ^ 64) n with
      | .not r => .not r
      | .got bs' bad' s => .got (bs ++ bs') (bad ++ bad'.map (· + 8)) s

/-- One block of a DZ copy (R251, R252): it is decompressed and checked, then written. -/
def State.copyDz (s : State) (asid : Nat) (c : Copy) : CopyStep :=
  if c.src % 8 != 0 then .fault 15 c s
  else match s.copyWords asid c c.src 1 with
    | .not r => r
    | .got hb hbad s =>
      let h := natLE hb
      if !blockHeaderOk h then .fault 4 c s
      else
        let n := blockPlen h
        match s.copyWords asid c ((c.src + 8) % 2 ^ 64) ((n + 7) / 8) with
        | .not r => r
        | .got pb pbad s =>
          match blockBytes h (pb.take n) with
          | .error _ => .fault 4 c s
          | .ok out =>
            let out := out.take (c.len - c.progress)
            let bad := if hbad.isEmpty && pbad.isEmpty then [] else List.range out.length
            match s.copyOut asid c out bad with
            | .ok d s => .ok { d with src := (c.src + 8 + (n + 7) / 8 * 8) % 2 ^ 64 } s
            | r => r

/-- No unit is moved in part where a copy stands: of a compressed stream the next block begins at a unit of the source and of the
destination. -/
def Copy.whole (c : Copy) : Bool := !c.dz || (c.src % 64 = 0 && (c.dst + c.progress) % 64 = 0)

/-- Runs a copy on until `upto` bytes, its end, or something that stops it; it stops, or waits for a page, only where no unit is
moved in part: `from_` is how things stood there last. -/
def State.copyOn (s : State) (asid : Nat) (upto : Nat) (from_ : Copy × State) : Copy → Nat → CopyStep
  | c, 0 => .ok c s
  | c, n + 1 =>
    if c.len ≤ c.progress || (upto ≤ c.progress && c.whole) then .ok c s
    else match (if c.dz then s.copyDz asid c else s.copyPart asid c) with
      | .ok c s => s.copyOn asid upto (if c.whole then (c, s) else from_) c n
      | .page _ w _ => .page from_.1 w from_.2
      | r => r

/-- The die of a copy's engine: the home of its destination; die 0 for a HOST page, or one that does not translate yet. -/
def State.copyDie (s : State) (asid : Nat) (c : Copy) : Nat :=
  match s.distPlace asid c.dst with | some (p, _) => s.homeDie p | none => 0

def State.copyAsid (s : State) (c : Copy) : Nat := match tfind s.queues c.queue with | some w => w.asid | none => 0

/-- A copy ends, with its completion word. -/
def State.endCopy (s : State) (id : Nat) (c : Copy) (status detail : Nat) : State :=
  let asid := s.copyAsid c
  let s := { s with copies := tdel s.copies id }
  (s.writeOut asid c.complAddr c.complHost (bytesLE (completionWord c.tag status detail) 8)).settlePacket c.queue 1 id

/-- PACKET_COPY: passed to its engine once that runs fewer than eight. -/
def execPacketCopy (s : State) : Result :=
  packetStep 2 s fun q w p s =>
    let bs := p.bytes
    let c : Copy :=
      { queue := q, src := pktField bs 0x08 8, dst := pktField bs 0x10 8, len := pktField bs 0x18 8,
        dz := pktField bs 0x20 1 % 2 = 1, tag := pktTag bs, complAddr := pktField bs 0x28 8,
        complHost := pktField bs 0x20 1 / 2 % 2 = 1, progress := 0, paging := none }
    let die := s.copyDie w.asid c
    if 8 ≤ (s.copies.filter fun e => s.copyDie (s.copyAsid e.2) e.2 = die).length then .next s
    else
      let id := (s.copies.map Prod.fst).foldl (fun a b => max a (b + 1)) 0
      .next ({ s with copies := tput s.copies id c }.setQ q { w.passed with outstanding := w.outstanding ++ [(1, id)] })

/-- COPY_COMPLETE of copy `a`: it runs on to byte `upto`, or to its end. -/
def execCopyComplete (s : State) : Result :=
  let id := s.inp.a
  match tfind s.copies id with
  | none => .next s
  | some c =>
    if c.paging.isSome then .next s
    else match s.copyOn (s.copyAsid c) (s.inp.upto.getD c.len) (c, s) c (c.len - c.progress) with
      | .ok d s =>
        if d.len ≤ d.progress then .next (s.endCopy id d 0 0) else .next { s with copies := tput s.copies id d }
      | .page d w s => .next (({ s with copies := tput s.copies id { d with paging := some w } }).requestPage w.asid w.va)
      | .fault x d s => .next (s.endCopy id d 5 x)

/-! ### COLL packets (R380) -/

/-- A free number for the start of a packet. -/
def State.packetId (s : State) : Nat := (s.colls.map CollStart.id).foldl (fun a b => max a (b + 1)) (2 ^ 80)

/-- PACKET_COLL: tested as a start of no launch; the die 0 walker runs at most four. One that may start has not read its
record yet: its `record` is the address, and its ring is empty. -/
def execPacketColl (s : State) : Result :=
  packetStep 3 s fun q w p s =>
    let bs := p.bytes
    let h := pktField bs 0x14 2
    let g := pktField bs 0x10 4
    let id := s.packetId
    let c : CollStart :=
      { id := id, stream := none, seq := 0, record := pktField bs 0x08 8, ring := [], gen := g, handle := h, asid := w.asid,
        next := 0, total := 1, unacked := [], failed := none, paging := none, complAddr := pktField bs 0x18 8,
        complHost := false, tag := pktTag bs, queue := q }
    if 4 ≤ (s.colls.filter fun (x : CollStart) => x.stream.isNone).length then .next s
    else match s.collTest h g none w.asid false with
      | .waits => .next s
      | .fails code _ =>
        .next ((s.writeOut w.asid c.complAddr false (bytesLE (completionWord c.tag 5 code) 8)).setQ q w.passed)
      | .go s =>
        .next ({ s with colls := s.colls ++ [c] }.setQ q { w.passed with outstanding := w.outstanding ++ [(2, id)] })

/-- A packet start that a fault stops: its generation never completes. -/
def State.packetFault (s : State) (c : CollStart) (code : Nat) : State :=
  (s.packetDone c 5 code).breakHandle c.handle

/-- A packet start suspended for a page. -/
def State.packetPage (s : State) (c : CollStart) (w : PageWait) : State :=
  let s := { s with colls := s.colls.map fun (x : CollStart) => if x.id = c.id then { x with paging := some w } else x }
  s.requestPage w.asid w.va

/-- Reads the record of a packet start, and begins it. -/
def State.packetBegin (s : State) (c : CollStart) : State :=
  let v := s.handle c.handle
  let page := fun (va : Nat) => ({ asid := c.asid, va := va, space := 0, store := false, fetch := false, f := 0 } : PageWait)
  match s.readNest c.asid c.ids none c.record c.handle (fun _ => false) (fun sub => { code := 4, sub := sub }) c.passed with
  | .stalls ps => s.startPassed c.id (c.passed ++ ps.filter fun p => !c.passed.contains p)
  | .fails x => s.packetFault c x.code
  | .page va s => s.packetPage c (page va)
  | .got r ring p s =>
    if colAkind r = 1 || (colArrive r != 0 && v.recv.isSome) then s.packetFault c 4
    else
      let s := s.dropStart c.id
      s.beginColl { c with record := r, ring := ring, total := colTotal r, passed := [] } p 0 0 0

/-- Runs a packet start on. -/
def State.packetRun (s : State) (c : CollStart) (upto : Nat) : State :=
  if c.ring = [] then s.packetBegin c
  else if c.finished then s.portWork c.handle
  else match s.sendMany c.id upto c.total with
    | .ok s => s
    | .stalls s => s
    | .page w s => s.packetPage c w
    | .fault x s => s.packetFault c x.code
    | .poison _ s => { s with dev := { s.dev with uncorrectable := s.dev.uncorrectable + 1 } }.packetFault c 24

/-! ### SIGNAL (R43) -/

/-- PACKET_SIGNAL. -/
def execPacketSignal (s : State) : Result :=
  packetStep 4 s fun q w p s => .next (s.setQ q { w.passed with waiting := w.waiting ++ [(p.bytes, w.outstanding)] })

/-- SIGNAL_COMPLETE of queue `a`: its first SIGNAL, once every earlier packet has completed. -/
def execSignalComplete (s : State) : Result :=
  let q := s.inp.a
  match tfind s.queues q with
  | none => .next s
  | some w => match w.waiting with
    | (bs, []) :: rest =>
      let host := pktField bs 0x10 1 % 2 = 1
      let s : State := if Config.workQueues ≤ q && w.outstanding.isEmpty && rest.isEmpty then { s with queues := tdel s.queues q }
        else s.setQ q { w with waiting := rest }
      .next (s.writeOut w.asid (pktField bs 0x08 8) host (bytesLE (completionWord (pktTag bs) 0 0) 8))
    | _ => .next s

end Sys2Proof.Machine
end

