-- ==== Sys2Proof/Machine/Events.lean ====
section
/-! DEFINITION. What happens to a launch's streams outside the issue of an instruction: appending to a queue (R114), the end of an
engine entry (R107), WAIT_TIMEOUT (R113), data and errors that come back (R218, R223), fault records (R392), the release
of a barrier (R53), and the answers of the page service (R398, R399). -/

namespace Sys2Proof.Machine

/-- A device step about stream `k`. -/
def State.about (s : State) (k : Nat) : State := { s with cur := k, actor := .sequencer }

/-! ### QUEUE_APPEND -/

/-- How an instruction that is appended takes its share of the format queue (R268). -/
def bindOf : Instr → Stream → Entry → Stream × Entry
  | .mma _ => bindWord
  | .mmach _ => bindWord
  | .mmai _ => bindWord
  | _ => fun t e => (t, e)

/-- The sequencer's side of a long instruction. -/
def State.appendNow (s : State) (i : Instr) : Result :=
  match i with
  | .coll f => execColl f s
  | .collstop f => execCollstop f s
  | i => match i.long? with
    | some f => longWith i f (bindOf i) s fun _ _ s => .next s
    | none => .next s

/-- QUEUE_APPEND of stream `a`: the long instruction at its PC goes through the sequencer (window check, guard, append or
stall). Another instruction there is not this step's. -/
def execQueueAppend (s : State) : Result :=
  let s := s.about s.inp.a
  let pc := s.st.pc.toNat
  let at_ := s.physOf s.cur
  match s.fetchWord at_ s.launchNo pc false with
  | (.word w0, s1) =>
    if !isLong w0 then .next s
    else match s1.fetchWord at_ s.launchNo (pc + 8) true with
      | (.word w1, s2) => match decode w0 w1 with
        | .ok i => s2.appendNow i
        | .error sub => s2.trap (illegal sub w0 w1)
      | (.cause c, s2) => s2.trap c
      | (.page w, s2) => s2.waitPage w
  | (.cause c, s1) => s1.trap c
  | (.page w, s1) => s1.waitPage w

/-! ### ENGINE_ENTRY_COMPLETE -/

/-- The new versions of a finished entry, with the writer's slot (R102). -/
def State.finishVersions (s : State) (who : Option (BitVec 3)) : List Version → State
  | [] => s
  | v :: vs => (s.finishWrite v.tile v.bytes v.quota v.skip who).finishVersions who vs

def State.takeMarks (s : State) : List Nat → State
  | [] => s
  | k :: ks => (s.takeMark k).takeMarks ks

/-- A codebook is loaded into cores of the launch (R26, R281). -/
def State.loadBook (s : State) (l n : Nat) (v : BitVec 256) : List Nat → State
  | [] => s
  | c :: cs =>
    let m := (s.launchOf l).m
    let key := (l * 512 + c / m.ncore * 8 + c % m.ncore) * 64 + n
    ({ s with codebooks := tset 0 s.codebooks key v }).loadBook l n v cs

/-- Poison of a CXFER's tile data (R403). -/
def State.poisonVersions (s : State) (bad : List Nat) : Nat → List Version → State
  | _, [] => s
  | n, v :: vs =>
    (s.poisonAll (tilePlace v.tile) ((bad.filter fun o => o / 2048 = n).map (· % 2048))).poisonVersions bad (n + 1) vs

/-- An entry with its results computed finishes (R107, R115): reads' marks, versions, codebook, flags. The appending core has had
the codebook since the start (R281). -/
def State.finishEntry (s : State) (k j : Nat) (r : Running) : State :=
  let m := (s.launchOf (k / 4096)).m
  let who := if r.entry.op = 0xEB && r.entry.opx 2 then none else some (s.writerOf k)
  let s := (s.takeMarks r.marks).finishVersions who r.versions
  let s := match r.porter with | some p => s.poisonVersions p.bad 0 r.versions | none => s
  let s := match r.codebook with
    | some (n, v) => s.loadBook (k / 4096) n v ((List.range (m.nclust * m.ncore)).filter (· != m.coreIndex (k % 4096)))
    | none => s
  (s.setRunning k j none).entryFlags k r.unit r.entry r.flags

/-- Runs the started entry at index `j` of stream `k` on: a channel entry to element `upto`, a COLL to transfer `upto`, any
other to its end. -/
def State.runEntry (s : State) (k j : Nat) (upto : Option Nat) : State :=
  match (s.stream k).running[j]? with
  | none => s
  | some r =>
    if r.paging.isSome then s
    else if r.unit = 3 && r.entry.op = 0xF8 then s.collRun k j r (upto.getD r.total)
    else match (if r.entry.recordAt.isSome && r.unit = 3 then r.porter else none) with
      | some p => s.porterRun k j r p (upto.getD r.total)
      | none => s.finishEntry k j r

/-- The unit has taken the operands of a started entry, an MMA at the end of its issue interval (R107, R276): their marks go. -/
def State.takeOperands (s : State) (k j : Nat) : State :=
  match (s.stream k).running[j]? with
  | none => s
  | some r => (s.takeMarks r.marks).setRunning k j (some { r with marks := [] })

/-- ENGINE_ENTRY_COMPLETE of the started entry `b` of stream `a`, or with `c` = 2 the end of its reads; with `c` = 1 of the packet
start numbered `b`. Entries run only while their launch does. -/
def execEngineEntryComplete (s : State) : Result :=
  let p := s.inp
  if p.c = 1 then
    match s.colls.find? fun (x : CollStart) => x.id = p.b && x.stream.isNone with
    | some x => .next (if x.paging.isSome then s else s.packetRun x (p.upto.getD x.total))
    | none => .next s
  else if !s.runs p.a then .next s
  else if p.c = 2 then .next ((s.about p.a).takeOperands p.a p.b)
  else .next ((s.about p.a).runEntry p.a p.b p.upto)

/-! ### WAIT_TIMEOUT (R113, R354) -/

/-- The measure of a wait: from its first failed test, or from the last change of a tile that it names. -/
def State.measure (s : State) (k : Nat) (w : Wait) : Nat :=
  s.aclk k - w.tiles.foldl (fun a key => max a (s.tile key).stamp) w.since

/-- The cause with its words (R391), as they stand at the timeout. A NONE operand has no expected count: that word is free (log
entry 11). -/
def State.timeoutCause (s : State) (k : Nat) (w : Wait) : Cause × State :=
  match w.tile, w.tag with
  | some t, _ =>
    let (v, s') := s.draw
    let exp := if t.mode = 0 then v.toNat % 2 ^ 16 else t.exp.toNat
    ({ code := 7, args := [t.num + exp * 2 ^ 16 + (s.tile t.key).count.toNat * 2 ^ 32, w.args.headD 0] },
     if t.mode = 0 then s' else s)
  | none, some tag =>
    let p := tget 0 (s.stream k).pend tag
    let b := (s.launchOf (k / 4096)).barTag tag
    ({ code := 7, args := [tag, (p - 1) % 2 ^ 32, if b.gen = p - 1 then b.arrived.length else 0] }, s)
  | none, none => ({ code := 7, args := w.args }, s)

/-- The write-pending marks of a waiter are gone. -/
def State.unmark (s : State) (me : Nat) : List Nat → State
  | [] => s
  | key :: ks =>
    let t := s.tile key
    let s := if t.pending = some me then { s with tiles := tset Tile.default s.tiles key { t with pending := none } } else s
    s.unmark me ks

/-- A channel return's wait for its replay turn times out: the entry stops. -/
def State.turnTimeout (s : State) (k j : Nat) : State :=
  match (s.stream k).running[j]? with
  | none => s
  | some r => match r.porter with
    | none => s
    | some p => match p.turn with
      | none => s
      | some w =>
        if s.measure k w < waitlim r.entry.ssr || s.waitOver k 3 w then s
        else s.porterEnd k j r { p with wrote := [], turn := none, fault := p.fault.or (some { code := 7, args := w.args }) }

/-- A port return's wait for its replay turn times out: the stream of the receiving start stops, and its generation never completes
(log entry 83). -/
def State.portTimeout (s : State) (h : Nat) : State :=
  match tfind s.handles h with
  | none => s
  | some v => match v.turn with
    | none => s
    | some w =>
      if !s.runs v.recvStream || s.measure v.recvStream w < waitlim v.recvSsr || s.waitOver v.recvStream 5 w then s
      else (s.setHandle h { v with wrote := [], turn := none, broken := true }).takeTrap v.recvStream 5 v.recvPc
        (s.stream v.recvStream).pc { code := 7, args := w.args }

/-- WAIT_TIMEOUT: of the sequencer of stream `a` (`b` = 0), of the head of its queue of engine `b`, with `c` = 1 of the return of
its started entry `d`, or with `c` = 2 of the returns of port handle `d`. What runs no more, is stopped, or waits for what has
come does not time out. -/
def execWaitTimeout (s : State) : Result :=
  let k := s.inp.a
  let unit := s.inp.b
  let s := s.about k
  let t := s.st
  if s.inp.c = 2 then .next (s.portTimeout s.inp.d)
  else if !s.runs k then .next s
  else if s.inp.c = 1 then .next (s.turnTimeout k s.inp.d)
  else if t.stopped || 4 < unit then .next s
  else if unit = 0 then
    match t.wait with
    | none => .next s
    | some w =>
      if t.halted || s.measure k w < waitlim t.ssr || ((w.tag.isSome || w.actor.isSome) && s.waitOver k 0 w) then .next s
      else
        let s := (s.setSt { t with wait := none }).unmark (k * 8) w.tiles
        let (c, s) := s.timeoutCause k w
        s.trap c
  else
    let q := t.queue unit
    match q.wait, q.entries with
    | some w, e :: _ =>
      if s.measure k w < waitlim e.ssr then .next s
      else
        let s := (s.setSt (t.setQueue unit { q with wait := none })).unmark (k * 8 + unit) w.tiles
        let (c, s) := s.timeoutCause k w
        s.entryTrap unit e c
    | _, _ => .next s

/-! ### LOAD_DATA_ARRIVES (R218) -/

/-- The pending access `no` of stream `k` can perform as `p`: nothing holds it back. -/
def State.mayArrive (s : State) (k no : Nat) (p : Access) : Bool := !p.failed && !(s.stream k).blocked no p && s.mayPerform k p

/-- The pending access `no` of stream `k` performs and its data lands, once nothing holds it back; then the fences that wait for
it complete (R347). -/
def State.arrive1 (s : State) (k no : Nat) (p : Access) : State :=
  if !s.mayArrive k no p then s
  else match s.perform k p with
    | .done v fl s => (s.endDone k no p v fl).settleFences k
    | .poison place => (s.settleAccess k no).consume k p.pc place
    | .waits _ => s
    | .stop c => (s.endLogged k no p c).settleFences k

/-- One 8-byte half of the pending pair `no` performs, and the other stays pending (R217). -/
def State.arriveHalf (s : State) (k no : Nat) (p : Access) (high : Bool) : State :=
  let h := p.first high
  if !s.mayArrive k no h then s
  else match s.performOne k h with
    | .done v _ s =>
      let t := (s.stream k).landed h v
      s.setStream k { t with accesses := tput t.accesses no (p.rest !high) }
    | .poison place => (s.settleAccess k no).consume k p.pc place
    | _ => s

/-- LOAD_DATA_ARRIVES of the pending access `b` of stream `a`; of a pair, with `c` 1 or 2 of its low or its high half alone. -/
def execLoadDataArrives (s : State) : Result :=
  let k := s.inp.a
  match tfind (s.stream k).accesses s.inp.b with
  | none => .next s
  | some p =>
    let s := s.about k
    .next (if p.isPair && within 1 2 s.inp.c then s.arriveHalf k s.inp.b p (s.inp.c = 2) else s.arrive1 k s.inp.b p)

/-! ### REMOTE_ERROR_RETURN (R223) -/

/-- It goes to a peer or to the host. -/
def Access.remote (p : Access) : Bool := p.space = 4 || p.space = 5

/-- The pending access `no` of stream `k` ends as a remote error; then the fences that wait for it complete (R223, R347). -/
def State.errReturn (s : State) (k no : Nat) (p : Access) : State := (s.endRemote k no p).settleFences k

/-- REMOTE_ERROR_RETURN of the pending access `b` of stream `a`, to a peer or the host; one whose party has been lost errs whatever
it follows (R386). -/
def execRemoteErrorReturn (s : State) : Result :=
  let k := s.inp.a
  let no := s.inp.b
  match tfind (s.stream k).accesses no with
  | none => .next s
  | some p =>
    if !p.remote || (!p.failed && (s.stream k).blocked no p) then .next s else .next ((s.about k).errReturn k no p)

/-! ### Accesses in flight at a cut (R61) -/

/-- The pending accesses of a stream perform, or err, in order, as far as they can. -/
def State.landStream (s : State) (k : Nat) : List Nat → State
  | [] => s
  | no :: ns =>
    (match tfind (s.stream k).accesses no with
      | none => s
      | some p => if p.failed then s.errReturn k no p else s.arrive1 k no p).landStream k ns
def State.landStreams (s : State) : List Nat → State
  | [] => s
  | k :: ks => (((s.about k).landStream k ((s.stream k).accesses.map Prod.fst)).settleFences k).landStreams ks

/-! ### FAULT_RECORD_WRITE, BARRIER_RELEASE -/

/-- FAULT_RECORD_WRITE of launch `a` (R392). -/
def execFaultRecordWrite (s : State) : Result :=
  if (tfind s.launches s.inp.a).isSome then .next (s.writeRecord s.inp.a) else .next s

/-- BARRIER_RELEASE of tag `b` of launch `a` (R53). -/
def execBarrierRelease (s : State) : Result :=
  match tfind s.launches s.inp.a with
  | none => .next s
  | some v =>
    let b := v.barTag s.inp.b
    .next (s.setLaunch s.inp.a { v with tags := tset BarTag.default v.tags s.inp.b { b with released := b.gen } })

/-! ### Page service (R398, R399) -/

/-- A wait for the answered page. -/
def PageWait.isFor (w : PageWait) (key : Nat) : Bool := pageKey w.asid w.va = key
def awaits (w : Option PageWait) (key : Nat) : Bool := match w with | some w => w.isFor key | none => false

/-- The fault that a failed request raises. -/
def PageWait.cause (w : PageWait) : Cause := accessCause 12 w.va w.space w.store w.fetch

/-- The suspended entries of a stream: BCOPY clears SUSP and goes on, or takes the fault; a walker start likewise. -/
def State.answerRunning (s : State) (k key : Nat) (fail : Bool) : Nat → State
  | 0 => s
  | n + 1 =>
    match ((s.stream k).running.mapIdx fun j r => (j, r)).find? fun (x : Nat × Running) => awaits x.2.paging key with
    | none => s
    | some (j, r) =>
      let w := r.paging
      let r := { r with paging := none }
      let s := s.setRunning k j (some r)
      let c := match w with | some w => atElem w.cause w.f | none => { code := 12 }
      let s :=
        if r.entry.op = 0xF8 then
          if fail then
            (((s.dropStart (collId k r.entry)).setRunning k j none).breakHandle (r.entry.xs2.toNat / 2 ^ 32)).takeTrap
              k 5 r.entry.pc (s.stream k).pc c
          else s
        else if fail then
          match r.porter, r.entry.fields with
          | some p, some (_, g) => s.porterFinish k j g r { p with fault := some c }
          | _, _ => s
        else
          let m := tget 0 (s.stream k).wm r.entry.channel
          s.setWm k r.entry.channel (m &&& 0xBFFFFFFFFFFFFFFF)
      s.answerRunning k key fail n

/-- One stream: its sequencer, the head of its Porter queue, its suspended entries. A sequencer that waits for the page of a NEXT
fetch tries its TRET again, which takes the answer (R401). -/
def State.answerStream (s : State) (k key : Nat) (fail : Bool) : State :=
  let s := s.about k
  let t := s.stream k
  let s :=
    match t.paging with
    | some w =>
      if w.isFor key then
        let s := s.setStream k { t with paging := none }
        if fail && !w.next then s.takeTrap k 0 t.pc t.pc w.cause else s
      else s
    | none => s
  let t := s.stream k
  let s :=
    match t.porterQ.paging with
    | some w =>
      if w.isFor key then
        let s := s.setStream k { t with porterQ := { t.porterQ with paging := none } }
        match fail, t.porterQ.entries with
        | true, e :: _ => s.takeTrap k (if e.op = 0xF8 then 5 else 3) e.pc t.pc (atElem w.cause w.f)
        | _, _ => s
      else s
    | none => s
  s.answerRunning k key fail (s.stream k).running.length

def State.answerStreams (s : State) (key : Nat) (fail : Bool) : List Nat → State
  | [] => s
  | k :: ks => (s.answerStream k key fail).answerStreams key fail ks

/-- Packet copies and packet starts. -/
def State.answerCopies (s : State) (key : Nat) (fail : Bool) : List (Nat × Copy) → State
  | [] => s
  | (id, c) :: cs =>
    let s :=
      if awaits c.paging key then
        if fail then s.endCopy id c 5 12 else { s with copies := tput s.copies id { c with paging := none } }
      else s
    s.answerCopies key fail cs
def State.answerColls (s : State) (key : Nat) (fail : Bool) : List CollStart → State
  | [] => s
  | c :: cs =>
    let s :=
      if c.stream.isNone && awaits c.paging key then
        if fail then s.packetFault c 12
        else { s with colls := s.colls.map fun (x : CollStart) => if x.id = c.id then { x with paging := none } else x }
      else s
    s.answerColls key fail cs

/-- The answer of a page service request reaches every requester of the page; one without a wait of its own finds it when it tries
again. On a halted part nothing takes it (R18). -/
def State.answerPage (s : State) (key : Nat) (fail : Bool) : State :=
  let s := { s with pageRequests := tdel s.pageRequests key, asked := s.asked.erase key,
                    failedPages := if fail && s.asked.contains key then s.failedPages ++ [key] else s.failedPages }
  if s.dev.halted then s
  else
  let s := s.answerStreams key fail ((s.streams.filter fun e => awaits e.2.paging key || awaits e.2.porterQ.paging key ||
    e.2.running.any fun r => awaits r.paging key).map Prod.fst)
  (s.answerCopies key fail s.copies).answerColls key fail s.colls

/-- PAGE_SERVICE_TIMEOUT of the page of address `b` in ASID `a`: 1 s after the request; on a halted part not (R18). -/
def execPageServiceTimeout (s : State) : Result :=
  let key := pageKey s.inp.a s.inp.b
  match tfind s.pageRequests key with
  | none => .next s
  | some t => .next (if s.dev.halted || s.dev.ns < t + 10 ^ 9 then s else s.answerPage key true)

end Sys2Proof.Machine
end

