-- ==== Sys2Proof/Machine/Distributor.lean ====
section
/-! DEFINITION. The distributor: selection (R47 to R49, R55), placement (R27 to R33, R51 to R54), displacement (R56 to R58),
checkpoint and restore (R59 to R63), kill (R64), rollback (R404 to R406) and retirement (R409 to R411). -/

namespace Sys2Proof.Machine

/-! ### Displacement (R56 to R58) -/

/-- R of a launch. -/
def State.remaining (s : State) (l : Nat) : Nat := (s.launchOf l).est - (s.dev.ns - (s.launchOf l).estNs) / 1000

inductive Decision where
  | drain | checkpoint | kill | pass
  deriving DecidableEq, Repr

/-- The decision table. -/
def State.decide (s : State) (newcomer incumbent : Nat) : Decision :=
  let n := s.launchOf newcomer
  let v := s.launchOf incumbent
  let r := s.remaining incumbent
  if s.draining.contains (newcomer * 2 ^ 14 + incumbent) || r ≤ n.drain then .drain
  else if v.m.policy.testBit 0 && v.m.ckptCost ≤ n.m.allow then .checkpoint
  else if v.m.policy.testBit 1 && v.bound + 32 ≤ s.priority newcomer then .kill
  else .pass

/-- `a` stands before `b` in the walk. -/
def State.walksBefore (s : State) (a b : Nat) : Bool :=
  let va := s.launchOf a
  let vb := s.launchOf b
  if va.bound != vb.bound then va.bound < vb.bound
  else if s.remaining a != s.remaining b then s.remaining b < s.remaining a
  else a < b

def State.insertWalk (s : State) (a : Nat) : List Nat → List Nat
  | [] => [a]
  | b :: bs => if s.walksBefore a b then a :: b :: bs else b :: s.insertWalk a bs

/-- The candidate incumbents, in the order of the walk; one that is retiring holds its cores still. -/
def State.incumbents (s : State) (newcomer : Nat) : List Nat :=
  ((s.launches.filter fun e => (e.2.phase = .placed || e.2.phase = .retiring) && !e.2.cores.isEmpty &&
    e.2.bound < s.priority newcomer).map Prod.fst).foldl
    (fun a l => s.insertWalk l a) []

/-- The walk: the decisions of the first prefix with which the newcomer fits. -/
def State.walkIncumbents (s : State) (newcomer : Nat) (skip : List Nat) (done : List (Nat × Decision)) :
    List Nat → Option (List (Nat × Decision))
  | [] => none
  | i :: is =>
    match s.decide newcomer i with
    | .pass => s.walkIncumbents newcomer skip done is
    | d =>
      let skip := i :: skip
      let done := done ++ [(i, d)]
      if (s.fit (s.launchOf newcomer).m skip (s.targetsBefore newcomer) (s.shapeFor newcomer) (s.roomFor newcomer)).isSome then
        some done
      else s.walkIncumbents newcomer skip done is

/-! ### Selection (R48, R55) -/

/-- Launches that wait to be selected: latched heads with their queues, and checkpointed launches. -/
def State.heads (s : State) : List (Nat × Nat) :=
  s.queues.filterMap fun e => match e.2.head with
    | some l => if s.newcomers.contains l then none else some (e.1, l)
    | none => none
def State.restorable (s : State) : List Nat :=
  (s.launches.filter fun e => e.2.phase = .checkpointed && e.2.cores.isEmpty && !s.newcomers.contains e.1).map Prod.fst

/-- The oldest checkpoint; of two of one instant, the launch of the lower number (log entry 22). -/
def State.oldest (s : State) (ls : List Nat) : Option Nat :=
  ls.foldl (fun a l => match a with
    | none => some l
    | some b => if (s.launchOf l).ckptNs < (s.launchOf b).ckptNs then some l else a) none

/-- Smooth weighted round-robin over the heads of one level: the queue picked, and the credits (R48). -/
def State.roundRobin (s : State) (hs : List (Nat × Nat)) : Option (Nat × Nat × State) :=
  let total : Int := (hs.map fun h => ((s.launchOf h.2).weight : Int)).sum
  let credit := fun (h : Nat × Nat) =>
    (match tfind s.queues h.1 with | some w => w.credit | none => 0) + ((s.launchOf h.2).weight : Int)
  let best := hs.foldl (fun (a : Option (Nat × Nat)) h => match a with
    | none => some h
    | some b => if credit b < credit h then some h else a) none
  best.map fun b =>
    let put := fun (s' : State) (h : Nat × Nat) => match tfind s'.queues h.1 with
      | some w => s'.setQ h.1 { w with credit := credit h - (if h.1 = b.1 then total else 0) }
      | none => s'
    (b.1, b.2, hs.foldl put s)

/-- A newcomer that fits now, outside the target sets it must leave. -/
def State.fitsNow (s : State) (l : Nat) : Option (List CorePlace) :=
  s.fit (s.launchOf l).m [] (s.targetsBefore l) (s.shapeFor l) (s.roomFor l)

/-- The cores that a newcomer is to have: those of its target set, else those that its walk would free for it. -/
def State.planFor (s : State) (l : Nat) : Option (List CorePlace) :=
  match (s.targetOf l (s.targetsBefore l)).plan with
  | some p => some p
  | none => match s.walkIncumbents l (s.leaving l) [] (s.incumbents l) with
    | some ds => s.fit (s.launchOf l).m (ds.map Prod.fst ++ s.leaving l) (s.targetsBefore l) (s.shapeFor l) (s.roomFor l)
    | none => none

/-- Dies of a list of cores. -/
def diesOf (cores : List CorePlace) : List Nat := (cores.map fun c => c.phys / 96).eraseDups

/-- Dies on which a newcomer is counted (R55): without ONEDIE every die. -/
def State.countedDies (s : State) (l : Nat) : List Nat :=
  if (s.launchOf l).m.policy / 64 % 2 = 1 then
    match s.planFor l with
    | some p => diesOf p
    | none => List.range Config.dies
  else List.range Config.dies

/-- Two newcomers that are counted on one die. -/
def State.clash (s : State) (l w : Nat) : Bool := w != l && (s.countedDies w).any (s.countedDies l).contains

/-- A candidate may be selected beside the newcomers: those that are not of lower priority leave it resources outside their target
sets, or wait on other dies (R55). -/
def State.maySelect (s : State) (l : Nat) : Bool :=
  let ahead := s.newcomers.filter fun w => s.priority l ≤ s.priority w
  let t := { s with newcomers := s.newcomers ++ [l] }
  ahead.isEmpty || (t.fitsNow l).isSome || !ahead.any (t.clash l)

/-- SELECTION: one launch at a time, of the highest priority among the candidates that may be selected; a head that may not is no
candidate, and its queue's credit stays (log entry 22). It stands before the newcomers of lower priority. -/
def execSelection (s : State) : Result :=
  if s.dev.halted || s.newcomers.any (fun l => (s.fitsNow l).isSome) then .next s
  else
    let hs := s.heads.filter fun h => s.maySelect h.2
    let rs := s.restorable.filter s.maySelect
    let lv := ((hs.map Prod.snd) ++ rs).foldl (fun a l => max a (s.priority l)) 0
    let picked :=
      match s.oldest (rs.filter fun l => s.priority l = lv) with
      | some l => some (l, s)
      | none => (s.roundRobin (hs.filter fun h => s.priority h.2 = lv)).map fun (r : Nat × Nat × State) => (r.2.1, r.2.2)
    match picked with
    | none => .next s
    | some (l, s') =>
      let before := s.newcomers.filter fun w => lv ≤ s.priority w
      .next { s' with newcomers := before ++ [l] ++ s.newcomers.filter fun w => !before.contains w }

/-! ### The first state of a stream (R27 to R30) -/

/-- SLEG. -/
def Manifest.sleg (m : Manifest) (i : Nat) : Word :=
  let leg := m.legOf i
  let first := if m.nleg = 0 then 0 else (m.legtab.take leg).sum
  BitVec.ofNat 64 ((i - first * m.ncore * m.nstrm) * 2 ^ 16 + (m.clusterRank i - first) * 2 ^ 8 + leg)

/-- X1 to X15 from the argument block: a word beyond ARGLEN is zero, of one that ARGLEN cuts the bytes below ARGLEN are kept and the
others zero (log entry 22), one that cannot be read is free (log entry 11). -/
def State.argWord (s : State) (v : Launch) (j : Nat) : Word × State :=
  if v.argAddr = 0 || v.argLen ≤ 8 * j then (0, s)
  else match s.distRead v.asid (v.argAddr + 8 * j) 1 with
    | some (bs, s) => (BitVec.ofNat 64 (natLE (bs.take (v.argLen - 8 * j))), s)
    | none => s.draw
def State.argWords (s : State) (v : Launch) : Nat → List Word × State
  | 0 => ([], s)
  | n + 1 =>
    let (ws, s) := s.argWords v n
    let (w, s) := s.argWord v n
    (ws ++ [w], s)

/-- Stream `i` as it starts. -/
def Launch.firstState (v : Launch) (args : List Word) (i : Nat) : Stream :=
  let x : Table Word := (List.range 15).foldl (fun t j => tset 0 t (j + 1) (args.getD j 0)) []
  { Stream.default with
    pc := BitVec.ofNat 64 v.m.entry, x := x, scoord := v.scoord i, sleg := v.m.sleg i,
    ssr := BitVec.ofNat 64 (v.m.waitlim * 2 ^ 32 + v.m.policy / 8 % 2) }

def State.startStreams (s : State) (l : Nat) (args : List Word) : Nat → State
  | 0 => s
  | n + 1 => (s.startStreams l args n).setStream (l * 4096 + n) ((s.launchOf l).firstState args n)

/-! ### Placement (R54) -/

/-- Die ranks of a placement's clusters. -/
def dieRanks (m : Manifest) (cores : List CorePlace) : List Nat :=
  (List.range m.nclust).map fun c =>
    (diesOf cores).idxOf (match cores[c * m.ncore]? with | some p => p.phys / 96 | none => 0)

/-- The allocations of a launch, EXCL to it. -/
def State.allocateAll (s : State) (l : Nat) : List (Nat × Nat) → State
  | [] => s
  | (p, n) :: r => (s.allocate l p n).allocateAll l r
def Manifest.allocations (m : Manifest) (l dies : Nat) : List (Nat × Nat) :=
  ((List.range (m.nclust * m.ncore)).map fun c =>
    (Place.base .spad + (l * 512 + c / m.ncore * 8 + c % m.ncore) * 2 ^ 20, m.spad)) ++
  ((List.range m.nclust).map fun c => (Place.base .serai + (l * 64 + c) * 2 ^ 22, m.serai)) ++
  ((List.range dies).map fun d => (depotPlace l d 0, m.depot))

/-- Codebooks into every core (R26). -/
def State.loadBooks (s : State) (l : Nat) : List (Nat × BitVec 256) → State
  | [] => s
  | (n, v) :: r =>
    let m := (s.launchOf l).m
    (s.loadBook l n v (List.range (m.nclust * m.ncore))).loadBooks l r

/-- The fault queue's pages are to be resident before its placement (R37, R392): those that are not are asked for, until none is open
(R398). -/
def State.askPages (s : State) (asid va : Nat) : Nat → Option State
  | 0 => none
  | n + 1 =>
    let t := s.askPages asid va n
    let u := t.getD s
    match u.translate farTlb asid (va + n * 4096) with
    | some _ => t
    | none => (u.askPage asid (va + n * 4096)).or t

/-- The header words of the waybill (R417). A count that cannot be read is free (log entry 11). -/
def State.beginWaybill (s : State) (l : Nat) : State :=
  let v := s.launchOf l
  let a := v.m.waybill
  let write := fun (ws : List (Nat × Nat)) (s : State) => match s.waybillWrite l ws with | .ok s => s | .error _ => s
  if v.m.replay = 1 then write [(a, 0), (a + 8, 0)] s
  else if v.m.replay = 2 then
    match s.waybillRead l a with
    | .ok (n, s) => write [(a + 8, 0)] (s.setLaunch l { s.launchOf l with replayCount := n })
    | .error _ =>
      let (w, s) := s.draw
      write [(a + 8, 0)] (s.setLaunch l { s.launchOf l with replayCount := w.toNat })
  else s

/-- The queue has finished with its head: the launch is placed or rejected. -/
def State.releaseHead (s : State) (l : Nat) : State :=
  match tfind s.queues (s.launchOf l).queue with
  | some w => if w.head = some l then s.setQ (s.launchOf l).queue { w with head := none, notified := true } else s
  | none => s

/-- No longer a newcomer. -/
def State.leaveNewcomers (s : State) (l : Nat) : State :=
  { s with newcomers := s.newcomers.filter (· != l), draining := s.draining.filter fun e => e / 2 ^ 14 != l,
           displacing := s.displacing.filter fun e => e / 2 ^ 14 != l }

/-- A launch that ends before it is placed. -/
def State.rejectLaunch (s : State) (l status detail : Nat) : State :=
  let s := (s.releaseHead l).finishLaunch l status detail
  { (s.leaveNewcomers l) with launches := tdel s.launches l }

/-- Clusters that are to run a launch have power. -/
def State.powerUp (s : State) (v : Launch) : State :=
  { s with dev := { s.dev with gated := s.dev.gated.filter fun e => !v.clusters.contains e.1 } }

/-- PLACEMENT's whole effect: allocations, codebooks, arguments, ranks, grants; then the streams start (R54). It waits while an access
on its way to a granted block cannot perform (R210). -/
def State.placeLaunch (s0 : State) (l : Nat) (cores : List CorePlace) : State :=
  let bound := s0.priority l
  let v := s0.launchOf l
  let v := { v with cores := cores, homes := cores.map (·.phys / 96), dies := diesOf cores, clusterDie := dieRanks v.m cores, phase := .placed, bound := bound,
                    est := v.m.estr, estNs := s0.dev.ns, resumeNs := s0.dev.ns }
  let s := (((s0.releaseHead l).clearLaunch l).setLaunch l v).powerUp v
  let s := s.allocateAll l (v.m.allocations l v.dies.length)
  let s := s.loadBooks l v.codebooks
  let (args, s) := s.argWords v 15
  let s := s.startStreams l args v.m.streams
  match s.landGrants l v.grants with
  | none => s0
  | some s => match s.grantsFrom l 0 v.grants with
    | .error i => s0.rejectLaunch l 3 i
    | .ok s => ((s.pinPages l v.m.faultPages).beginWaybill l).leaveNewcomers l

/-- A newcomer that cannot be placed now waits, alone on its dies; behind one of no lower priority there it is a candidate again,
and what it has drained stays drained for it (R55, R56). -/
def State.stillWaits (s : State) (l : Nat) : State :=
  if (s.ranked.takeWhile (· != l)).any (s.clash l) then
    { s with newcomers := s.newcomers.filter (· != l) }
  else
    let drop := s.newcomers.filter (s.clash l)
    { s with newcomers := s.newcomers.filter fun w => !drop.contains w }

/-- The waybill's first page of a launch that records or replays is asked for before its placement, until it is resident or its
request fails (R398, R418). -/
def State.waybillPage (s : State) (l : Nat) : Option State :=
  let v := s.launchOf l
  if v.m.replay = 0 then none
  else match s.translate farTlb v.asid v.m.waybill with
    | some _ => none
    | none => s.askPage v.asid v.m.waybill

/-- PLACEMENT of the selected launch `a`. -/
def execPlacement (s : State) : Result :=
  let l := s.inp.a
  if s.dev.halted || !s.newcomers.contains l || (s.launchOf l).phase != .latched then .next s
  else match s.fitsNow l with
    | some cores => match s.waybillPage l with
      | some s => .next s
      | none =>
        let v := s.launchOf l
        match s.askPages v.asid v.m.faultq v.m.faultPages with
        | some s => .next s
        | none => .next (s.placeLaunch l cores)
    | none => .next (s.stillWaits l)

/-! ### Restore (R62) -/

def State.portWorkAll (s : State) : List Nat → State
  | [] => s
  | h :: hs => (s.portWork h).portWorkAll hs

/-- RESTORE's whole effect: the saved values stand as they were saved, on the new cores, and every Rearguard copy is loaded (R119).
R58 takes E from ESTR at a restore and R62 takes the saved R: the model takes the saved R (log entry 80). -/
def State.restoreLaunch (s : State) (l : Nat) (cores : List CorePlace) : State :=
  let v := s.launchOf l
  let v := { v with cores := cores, homes := cores.map (·.phys / 96), dies := diesOf cores, phase := .placed, estNs := s.dev.ns, resumeNs := s.dev.ns }
  let s := { (s.setLaunch l v).powerUp v with shadow := s.shadow.filter fun e => e.1 / 4096 != l }
  (((s.moveStreams l v.m.streams).restartTurns l).leaveNewcomers l).portWorkAll (s.handlesOf l)

/-- RESTORE of the selected launch `a`. -/
def execRestore (s : State) : Result :=
  let l := s.inp.a
  let v := s.launchOf l
  if s.dev.halted || !s.newcomers.contains l || v.phase != .checkpointed || !v.cores.isEmpty then .next s
  else match s.fitsNow l with
    | some cores => .next (s.restoreLaunch l cores)
    | none => .next (s.stillWaits l)

/-! ### Re-evaluation (R56, R57) -/

/-- A checkpoint or kill is carried out for a newcomer. -/
def State.displaces (s : State) (newcomer incumbent : Nat) : State :=
  { s with displacing := s.displacing ++ [newcomer * 2 ^ 14 + incumbent] }

/-- Carries the decisions out: what drains is noted, what is checkpointed or killed stops; a checkpoint of a launch that is retiring
is abandoned for its retirement (R63). -/
def State.carryOut (s : State) (newcomer : Nat) : List (Nat × Decision) → State
  | [] => s
  | (i, d) :: r =>
    let s := match d with
      | .drain => { s with draining := if s.draining.contains (newcomer * 2 ^ 14 + i) then s.draining
                                       else s.draining ++ [newcomer * 2 ^ 14 + i] }
      | .checkpoint =>
        let v := s.launchOf i
        (s.displaces newcomer i).setLaunch i { v with phase := if v.phase = Phase.retiring then Phase.retiring else Phase.stopping }
      | .kill => (s.displaces newcomer i).setLaunch i { s.launchOf i with phase := .killing }
      | .pass => s
    s.carryOut newcomer r

/-- A newcomer's decisions are made again (R56). -/
def State.reevaluate (s : State) (l : Nat) : State :=
  if s.dev.halted || !s.newcomers.contains l then s
  else if (s.fit (s.launchOf l).m (s.leaving l) (s.targetsBefore l) (s.shapeFor l) (s.roomFor l)).isSome then s
  else match s.walkIncumbents l (s.leaving l) [] (s.incumbents l) with
    | some ds => s.carryOut l ds
    | none => s

/-- NEWCOMER_REEVALUATE of the newcomer `a`. -/
def execNewcomerReevaluate (s : State) : Result := .next (s.reevaluate s.inp.a)

def State.reevaluateAll (s : State) : List Nat → State
  | [] => s
  | l :: ls => (s.reevaluate l).reevaluateAll ls

/-- A launch of `s` has retired, or its checkpoint or its kill is complete, or it has a new estimate (R56). -/
def State.freed (s s' : State) : Bool :=
  s.launches.any fun e => !e.2.cores.isEmpty &&
    match tfind s'.launches e.1 with
    | some v => v.cores.isEmpty || v.est != e.2.est || v.estNs != e.2.estNs
    | none => true

/-- What a turn from state `s` has freed or estimated lets every newcomer be evaluated again (R56, R148). -/
def State.settleNewcomers (s s' : State) : State :=
  if !s'.newcomers.isEmpty && s.freed s' then s'.reevaluateAll s'.ranked else s'

/-! ### Retirement's conditions (R409) -/

def State.launchStreams (s : State) (l : Nat) : List Nat := (List.range (s.launchOf l).m.streams).map (l * 4096 + ·)

def State.retireReady (s : State) (l : Nat) : Bool :=
  ((s.launchStreams l).all fun k => let t := s.stream k; t.halted && !t.stopped && t.drained) &&
    !s.colls.any fun (c : CollStart) => match c.stream with | some k => k / 4096 = l | none => false

/-! ### Checkpoint (R61) -/

/-- The started entries of a stream go on as far as they can; a walker's start has finished the transfer it was sending. -/
def State.finishFrom (s : State) (k j : Nat) : Nat → State
  | 0 => s
  | n + 1 =>
    match (s.stream k).running[j]? with
    | none => s
    | some r =>
      let m := (s.stream k).running.length
      let s := if r.unit = 3 && r.entry.op = 0xF8 then s else s.runEntry k j none
      s.finishFrom k (if (s.stream k).running.length < m then j else j + 1) n
def State.finishStreams (s : State) : List Nat → State
  | [] => s
  | k :: ks => (((s.about k).finishFrom k 0 (s.stream k).running.length).settleFences k).finishStreams ks

/-- Steps 1 to 3: accesses in flight perform, started entries end, every cut is recorded. -/
def State.cutAll (s : State) : List Nat → State
  | [] => s
  | k :: ks =>
    let t := s.stream k
    (if t.stopped then s else s.setStream k { t with cut := t.cutAt t.pc }).cutAll ks
def State.quiesceOn (s : State) (ks : List Nat) : Nat → State
  | 0 => s
  | n + 1 => ((s.landStreams ks).finishStreams ks).quiesceOn ks n
def State.quiesceStreams (s : State) (ks : List Nat) : State :=
  s.quiesceOn ks ((ks.map fun k => (s.stream k).running.length + (s.stream k).accesses.length).sum + 1)
def State.quiesce (s : State) (l : Nat) : State := (s.quiesceStreams (s.launchStreams l)).cutAll (s.launchStreams l)

/-- Steps 1 and 2 are done (R61, R120): every access has performed and every started entry has completed, but for a BCOPY or a
walker's start, which are saved with their resume points. -/
def State.quiet (s : State) (l : Nat) : Bool :=
  (s.launchStreams l).all fun k =>
    let t := s.stream k
    t.accesses.isEmpty && t.running.all fun r => r.paging.isSome || (r.unit = 3 && r.entry.op = 0xF8)

/-- Step 4: the L1 sectors of the launch's cores are written back and invalidated, and its TLB entries removed. -/
def State.purgeCores (s : State) : List Nat → State
  | [] => s
  | c :: cs => ((s.combineAll (s.buffersOf c)).purgeAll ((s.sectorsOf c).map Prod.fst)).purgeCores cs

/-- The sectors of a part of the checkpoint area are logged: they are about to be written (R404). -/
def State.logArea (s : State) (l p : Nat) : Nat → State
  | 0 => s
  | n + 1 => (s.logArea l p n).logSector l (p + 256 * n)

/-- A part of the checkpoint area becomes the device's own (R59): whole pages from `va`. -/
def State.ownRange (s : State) (l p n : Nat) : State :=
  let s := s.logArea l p ((n + 255) / 256)
  { s with own := s.own.flatMap (cutRange p n) ++ [(p, n)], poison := s.poison.filter fun e => !(p ≤ e.1 && e.1 < p + n) }
def State.ownPages (s : State) (l asid va size : Nat) : Nat → State
  | 0 => s
  | n + 1 =>
    let s := s.ownPages l asid va size n
    match s.distPlace asid (va + n * 4096) with
    | some (p, s) => s.ownRange l p (min 4096 (size - n * 4096))
    | none => s

/-- Writes bytes into the checkpoint area. -/
def State.putHeader (s : State) (l off v n : Nat) : State :=
  let w := s.launchOf l
  match s.distPlace w.asid (w.m.ckpt + off) with
  | some (p, s) => s.putPlain p (bytesLE v n)
  | none => s

/-- Where the state word of tile `t` of the launch's core `c` stands: after the tile's data, the tiles of a core first in its
section (R59, R120, log entry 14). -/
def Manifest.tileWordAt (m : Manifest) (c t : Nat) : Nat :=
  4096 + 22528 * m.streams + c * (m.twin * 2052 + m.spad + 1024) + t * 2052 + 2048

/-- Writes the state words of a core's tiles (R120). -/
def State.putTileWords (s : State) (l c : Nat) : Nat → State
  | 0 => s
  | t + 1 =>
    let m := (s.launchOf l).m
    let key := (l * 512 + c / m.ncore * 8 + c % m.ncore) * 256 + t
    (s.putTileWords l c t).putHeader l (m.tileWordAt c t) (s.tile key).word 4
def State.putCoreWords (s : State) (l : Nat) : Nat → State
  | 0 => s
  | c + 1 => (s.putCoreWords l c).putTileWords l c (s.launchOf l).m.twin

/-- Step 5 but the completion word: the sections, of which the Depot sections of die ranks not occupied are never written. -/
def State.writeSections (s : State) (l : Nat) : State :=
  let v := s.launchOf l
  let size := v.m.ckptSize - v.m.depot * (v.m.maxDies - v.dies.length)
  let old := match s.distPlace v.asid (v.m.ckpt + 32) with | some (p, s) => natLE (s.bytes p 4) | none => 0
  let s := (s.ownPages l v.asid v.m.ckpt size ((size + 4095) / 4096)).putCoreWords l (v.m.nclust * v.m.ncore)
  ((((s.putHeader l 0 l 4).putHeader l 8 v.m.ckptSize 8).putHeader l 16 v.bound 1).putHeader l 24 (v.ckptSeq + 1) 8).putHeader
    l 32 old 4

/-- The write-pending state is not carried over, nor a measure in the old cluster's ACLK (R113, R121). -/
def State.unpend (s : State) (l : Nat) : State :=
  { s with tiles := s.tiles.map fun e => if e.1 / (256 * 512) = l then (e.1, e.2.restart) else e }

/-- Steps 1 to 5; they are not done while an entry or an access waits, or once something launch-fatal has happened on the way
(R63). -/
def State.takeCheckpoint (s : State) (l : Nat) : State × Bool :=
  let phase := (s.launchOf l).phase
  let s := s.quiesce l
  match tfind s.launches l with
  | none => (s, false)
  | some v =>
    if v.phase != phase || !s.quiet l then (s, false)
    else
      let s := (s.purgeCores (v.cores.map CorePlace.phys)).invalidate v.asid none
      let s := (s.writeSections l).unpend l
      let w := s.launchOf l
      (s.setLaunch l { w with ckptSeq := w.ckptSeq + 1, ckptNs := s.dev.ns, est := s.remaining l, estNs := s.dev.ns }, true)

/-- The completion word of the header; under ROLLBACK this is the rollback checkpoint now, and the log is empty (R404). -/
def State.sealCheckpoint (s : State) (l : Nat) : State :=
  let s := s.putHeader l 32 1 4
  let v := s.launchOf l
  if v.m.policy.testBit 2 then s.setLaunch l { v with snapshot := some (s.snapshotOf l), sectorLog := [], tokenLog := [] } else s

/-- CHECKPOINT of launch `a`, that a decision has stopped; one that meets the conditions of retirement is left to retire
(R63). -/
def execCheckpoint (s : State) : Result :=
  let l := s.inp.a
  if s.dev.halted || (s.launchOf l).phase != .stopping then .next s
  else if s.retireReady l then .next ((s.setLaunch l { s.launchOf l with phase := .placed }).undisplaced l)
  else match s.takeCheckpoint l with
    | (s, true) => .next (s.setLaunch l { s.launchOf l with phase := .checkpointed })
    | (s, false) => .next s

/-- CHECKPOINT_COMPLETE of launch `a`: the header is whole, and its cores, tags and allocations are free. -/
def execCheckpointComplete (s : State) : Result :=
  let l := s.inp.a
  let v := s.launchOf l
  if v.phase != .checkpointed || v.cores.isEmpty then .next s
  else
    let s := s.sealCheckpoint l
    .next ((s.setLaunch l { s.launchOf l with cores := [] }).undisplaced l)

/-! ### Kill (R64) -/

/-- Every unstarted entry of the listed streams is discarded. -/
def State.dropQueuesOf (s : State) : List Nat → State
  | [] => s
  | k :: ks => (s.setStream k (s.stream k).dropQueues).dropQueuesOf ks

/-- KILL (R64): sequencers and engines stop as a checkpoint stops them, unstarted entries are discarded, and what they held back
performs; the tokens are disposed of without waiting for outside borrowers, the resources are freed and the completion word is
written: FATAL where a machine check kills (R63, R397). A checkpointed launch runs nothing, nor does a lost core or a halted
part. -/
def State.kill (s : State) (l : Nat) : State :=
  let v := s.launchOf l
  let ks := s.launchStreams l
  let stop := fun (s : State) =>
    if v.cores.isEmpty || s.dev.halted then s
    else s.quiesceStreams (ks.filter fun k => !tget false s.dev.coreLost (s.physOf k))
  let s := stop (s.setLaunch l { v with phase := .killing, snapshot := none })
  let s := stop (s.dropQueuesOf ks)
  let s := (s.stopHandles (s.handlesOf l)).homeAll l
  let s := if v.cores.isEmpty then s else s.landStreams ks
  let s := ((s.dropSharesOf l).passOn l v.m.returnto).relend l v.m.returnto
  let s := s.flushRecords l 64
  (match (s.launchOf l).fatal with
    | some c => s.finishLaunch l 5 c
    | none => s.finishLaunch l 1 0).freeLaunch l

/-- KILL of launch `a`, that a decision or a machine check has stopped. -/
def execKill (s : State) : Result :=
  let l := s.inp.a
  if !s.dev.halted && (s.launchOf l).phase = .killing then .next (s.kill l) else .next s

/-! ### Rollback (R404 to R406) -/

/-- A die whose log is three-quarters full, with this launch's entries the most on it (R405). -/
def State.boundaryForced (s : State) (l : Nat) : Bool :=
  (List.range Config.dies).any fun d =>
    3 * logEntries ≤ 4 * (s.launches.map fun e => e.2.loggedOn d).sum &&
      s.launches.all fun e => e.2.loggedOn d ≤ (s.launchOf l).loggedOn d

/-- ROLLBACK_BOUNDARY of launch `a`: a checkpoint, restored at once on the same cores, with every Rearguard copy loaded (R119). -/
def execRollbackBoundary (s : State) : Result :=
  let l := s.inp.a
  let v := s.launchOf l
  if s.dev.halted || v.phase != .placed || !v.m.policy.testBit 2 || s.retireReady l ||
      !(v.resumeNs + v.m.rbint * 1000 ≤ s.dev.ns || s.boundaryForced l) then .next s
  else match s.takeCheckpoint l with
    | (s, false) => .next s
    | (s, true) =>
      let s := s.sealCheckpoint l
      let s := { s.setLaunch l { s.launchOf l with resumeNs := s.dev.ns } with shadow := s.shadow.filter fun e => e.1 / 4096 != l }
      .next (((s.moveStreams l v.m.streams).restartTurns l).portWorkAll (s.handlesOf l))

/-- ROLLBACK of launch `a`, that a machine check has stopped. -/
def execRollback (s : State) : Result :=
  let l := s.inp.a
  let v := s.launchOf l
  match v.phase, v.snapshot with
  | .rolling lost, some n =>
    let s := s.rollback l n lost
    .next (if (s.launchOf l).cores.isEmpty then s else s.portWorkAll (s.handlesOf l))
  | _, _ => .next s

/-! ### Retirement (R410, R411) -/

/-- A region that the launch lent out and that has not come home. -/
def State.lentOut (s : State) (l : Nat) : List (Nat × Region) :=
  s.regions.filter fun e => e.2.state = .lent && idOf l e.2.lender

/-- Steps 5 to 7. -/
def State.finishRetire (s : State) (l : Nat) : State :=
  let v := s.launchOf l
  let s := ((s.dropSharesOf l).passOn l v.m.returnto).flushRecords l 64
  let left := if v.m.replay = 2 && v.replay < v.replayCount then 2 ^ 15 else 0
  (s.finishLaunch l 0 (left + min v.unreturned 0x7FFF)).freeLaunch l

/-- RETIRE of launch `a`: steps 1 and 2, then the last steps once nothing that it lent is out. An access that lands may stop a stream
or the launch: then it does not retire. -/
def execRetire (s : State) : Result :=
  let l := s.inp.a
  let v := s.launchOf l
  let last := fun (s : State) => if (s.lentOut l).isEmpty then s.finishRetire l else s
  if v.phase = .retiring then .next (last s)
  else if (v.phase = .placed || v.phase = .stopping) && !s.dev.halted && s.retireReady l then
    let s := s.landStreams (s.launchStreams l)
    if (s.launchOf l).phase != v.phase || !s.retireReady l then .next s
    else
      let s := (s.stopHandles (s.handlesOf l)).homeAll l
      .next (last (s.setLaunch l { s.launchOf l with phase := .retiring, retireNs := s.dev.ns }))
  else .next s

/-- A record that concerns a launch and no stream, with its trace record, which bears the coordinates of the first (R390, R413, log
entry 13). -/
def State.reportLaunch (s : State) (l : Nat) (c : Cause) : State :=
  (s.post l (faultRecord false true 6 c 0xFFFF 0 0 0 Cut.default)).trace (l * 4096) 2 0 c.code 0 0 0 []

/-- The record of a region not returned, and its new lender. -/
def State.unreturned (s : State) (l tgt : Nat) : List (Nat × Region) → State
  | [] => s
  | (p, r) :: rs =>
    let c : Cause := { code := 21, args := [p % 2 ^ 64, stateWord r false] }
    let s := (s.reportLaunch l c).putRegion p (some { r with lender := tgt })
    let v := s.launchOf l
    (s.setLaunch l { v with unreturned := v.unreturned + 1 }).unreturned l tgt rs

/-- RETTO_EXPIRY of launch `a`, once no return of the instant of the expiry can come any more (R410). -/
def execRettoExpiry (s : State) : Result :=
  let l := s.inp.a
  let v := s.launchOf l
  if v.phase != .retiring || s.dev.ns ≤ v.retireNs + v.m.retto * 1000 || (s.lentOut l).isEmpty then .next s
  else .next ((s.unreturned l v.m.returnto (s.lentOut l)).finishRetire l)

end Sys2Proof.Machine
end

