-- ==== Sys2Proof/Machine/Mailbox.lean ====
section
/-! DEFINITION. The Factor's mailbox (R13, R14) and its commands: attestation (R15 to R17), TELEM (R21), queues (R35 to R39, R46,
R50), launches and page service (R396, R399), trace and breakpoints (R412, R415), memory (R192). A command acts once its
doorbell is accepted, on the message as the Factor reads it, and leaves its answer to MAILBOX_ANSWER. -/

namespace Sys2Proof.Machine

/-! ### The registers (R13) -/

/-- Places of the message buffer, and of the Factor's reading of it. -/
def fmAt (o : Nat) : Nat := Place.base .fmmsg + o
def seenAt (o : Nat) : Nat := Place.base .fmseen + o

/-- The command code as the Factor reads it. -/
def State.seenCode (s : State) : Nat := s.mem.readLE (seenAt 0) 2

/-- Each 8-byte word written under a command is seen as it was or as it is (log entry 10). -/
def State.raceWords (s : State) : List Nat → State
  | [] => s
  | w :: ws =>
    let s' : State := { s with draws := s.draws + 1 }
    (if Config.freeBit s.draws then { s' with mem := s'.mem.write (seenAt (8 * w)) (s'.mem.read (fmAt (8 * w)) 8) } else s').raceWords ws

/-- A write into FMMSG. -/
def State.writeMessage (s : State) (o : Nat) (bs : List Byte) : State :=
  let bs := bs.take (4096 - o)
  let s : State := { s with mem := s.mem.write (fmAt o) bs }
  if s.dev.busy && !bs.isEmpty then
    let first := o / 8
    let s := s.raceWords ((List.range ((o + bs.length - 1) / 8 - first + 1)).map (first + ·))
    { s with dev := { s.dev with command := s.dev.command.map fun _ => s.seenCode } }
  else s

/-- A write to FMDOOR: accepted, or dropped with OVERRUN. -/
def State.doorbell (s : State) (seq : Nat) : State :=
  if s.dev.busy then { s with dev := { s.dev with overrun := true } }
  else if s.dev.halted then s
  else
    let s : State := { s with mem := s.mem.write (seenAt 0) (s.mem.read (fmAt 0) 4096) }
    { s with dev := { s.dev with busy := true, done := false, overrun := false, pendingSeq := BitVec.ofNat 32 seq,
                                 command := some s.seenCode } }

/-- REGISTER_WRITE: the host writes `bytes` at offset `a` of BAR0, once READY is 1 and its link has trained. FMSTAT and DEVSTAT
are read-only. -/
def execRegisterWrite (s : State) : Result :=
  if !s.dev.ready || !s.hostReady then .next s
  else if s.inp.a < 0x1000 then .next (s.writeMessage s.inp.a s.inp.bytes)
  else if s.inp.a = 0x1000 then .next (s.doorbell (natLE (s.inp.bytes.take 8)))
  else .next s

/-- FMSTAT. -/
def State.fmstat (s : State) : Nat :=
  s.dev.fmseq.toNat * 2 ^ 32 + (if s.dev.overrun then 4 else 0) + (if s.dev.done then 2 else 0) + (if s.dev.busy then 1 else 0)

/-! ### Answers (R14) -/

/-- The command has acted: its status, and what it writes into the message. -/
def State.answer (s : State) (status : Nat) (bs : List (Nat × Byte)) : State :=
  { s with dev := { s.dev with command := none, answer := some (status, bs) } }

/-- An 8-byte word of an answer. -/
def wordAtOff (o v : Nat) : List (Nat × Byte) := (bytesLE v 8).mapIdx fun i b => (o + i, b)

/-- A QSETPRIO that is answered: its queue's heads latched from now on have the new values, and its credit is 0 (R50). -/
def State.applyPrio (s : State) : State :=
  match s.dev.setPrio with
  | some [q, prio, weight, ceil] =>
    let s := { s with dev := { s.dev with setPrio := none } }
    match tfind s.queues q with
    | some w => s.setQ q { w with prio := prio, weight := weight, ageceil := ceil, credit := 0 }
    | none => s
  | _ => s

/-- MAILBOX_ANSWER. -/
def execMailboxAnswer (s : State) : Result :=
  match s.dev.answer with
  | none => .next s
  | some (status, bs) =>
    let s := s.applyPrio
    .next { s with mem := (s.mem.write (fmAt 2) (bytesLE status 2)).patch (fmAt 0) bs,
                   dev := { s.dev with answer := none, busy := false, done := true, fmseq := s.dev.pendingSeq } }

/-- The allocated codes. -/
def commandCodes : List Nat :=
  [0x01, 0x02, 0x10, 0x11, 0x12, 0x13, 0x14, 0x20, 0x21, 0x22, 0x30, 0x31, 0x40, 0x41, 0x42, 0x43, 0x44, 0x45, 0x46]

/-- UNKNOWN_COMMAND. -/
def execUnknownCommand (s : State) : Result :=
  match s.dev.command with
  | none => .next s
  | some c => .next (if commandCodes.contains c then s else s.answer 4 [])

/-- A word of the message. -/
def State.arg (s : State) (o n : Nat) : Nat := s.mem.readLE (seenAt o) n

/-- A command of a code that is at hand: reserved bits of its first word answer 1. -/
def command (code : Nat) (s : State) (body : State → State) : Result :=
  if s.dev.command != some code then .next s
  else if s.arg 4 4 != 0 then .next (s.answer 1 [])
  else .next (body s)

/-! ### ATTEST (R15 to R17) -/

/-- Byte `i` of the LMS signature over a message: the leaf and the typecodes of RFC 8554, most significant byte first, at their
offsets, and for the rest what the keys give (log entry 12). -/
def lmsByte (keys : Bool) (message leaf i : Nat) : Byte :=
  let be := fun (v j : Nat) => BitVec.ofNat 8 (v / 256 ^ (3 - j))
  if i < 4 then be leaf i else if i < 8 then be 4 (i - 4) else if 1128 ≤ i && i < 1132 then be 8 (i - 1128)
  else Config.attestByte keys message (96 + i)

/-- Both signatures over a message, with the device's keys as they stand (R15, R17, log entry 12). -/
def signature (keys : Bool) (message leaf : Nat) : List (Nat × Byte) :=
  ((List.range 96).map fun i => (0x90 + i, Config.attestByte keys message i)) ++
    ((bytesLE 1792 4).mapIdx fun i b => (0xF0 + i, b)) ++
    ((List.range 1792).map fun i => (0xF4 + i, lmsByte keys message leaf i))

/-- The signed part: both digests, the nonce, the leaf. -/
def State.report136 (s : State) (leaf : Nat) : List (Nat × Byte) :=
  let image := match s.dev.running with | some i => i.digest.toNat | none => 0
  let nonce := (List.range 32).map fun i => (0x68 + i, s.mem.get (seenAt (8 + i)))
  ((bytesLE image 48).mapIdx fun i b => (8 + i, b)) ++
    ((bytesLE s.dev.flash.recordDigest.toNat 48).mapIdx fun i b => (0x38 + i, b)) ++ nonce ++ wordAtOff 0x88 (leaf % 2 ^ 32)

/-- ATTEST: the counter moves past the leaf before the signature is released. An exhausted counter has no leaf: its word is
free (log entry 11), and nothing past 0x8F is written. -/
def execAttest (s : State) : Result :=
  command 0x01 s fun s =>
    let leaf := s.dev.flash.lmsCounter
    if 2 ^ 20 ≤ leaf then
      let (w, s) := s.draw
      s.answer 5 (s.report136 w.toNat)
    else
      let message := s.report136 leaf
      let bs := message ++ signature s.dev.flash.attestKeys (natLE (message.map Prod.snd)) leaf
      let s : State := { s with dev := { s.dev with flash := { s.dev.flash with lmsCounter := leaf + 1 } } }
      s.answer 0 bs

/-! ### TELEM (R21) -/

/-- A counter, if the item and the index name one. -/
def State.counter (s : State) (item i : Nat) : Option Nat :=
  let d := s.dev
  if item = 0 then (if i < 48 then some (tget 0 d.sagcnt i).toNat else none)
  else if item = 1 then (if i < 1024 then some (tget 0 d.forced i * 2 ^ 48 + tget 0 d.stall i) else none)
  else if item = 2 then (if i = 0 then some d.droppedStores else none)
  else if item = 3 then (if i < 4096 then some (tget 0 d.refusedWidx i) else none)
  else if item = 4 then (if i < 32 then some (tget 0 d.lostPermits i) else none)
  else if item = 5 then (if i < 3 then some (tget 0 d.predictive i) else none)
  else if item = 6 then (if i = 0 then some d.uncorrectable else none)
  else none

/-- TELEM. -/
def execTelem (s : State) : Result :=
  command 0x02 s fun s =>
    let a := s.arg 8 8
    match (if a / 2 ^ 16 % 2 ^ 16 != 0 then none else s.counter (a % 2 ^ 16) (a / 2 ^ 32)) with
    | none => s.answer 1 []
    | some v => s.answer 0 (wordAtOff 8 v)

/-! ### Queues (R36 to R39, R46, R50) -/

/-- A descriptor within the limits of R36. -/
def descriptorOk (b : List Byte) : Bool :=
  let f := pktField b
  let log := f 0x08 1
  within 6 20 log && f 0x00 8 % min (64 * 2 ^ log) (2 ^ 21) = 0 && f 0x09 1 ≤ 127 && f 0x0A 1 != 0 &&
    within (f 0x09 1) 127 (f 0x0B 1) && f 0x0C 1 < 8 && f 0x10 8 % 64 = 0 && f 0x18 8 % 8 = 0 && f 0x20 8 % 128 = 0 &&
    f 0x38 4 ≤ 1000000 && f 0x0D 3 = 0 && f 0x2A 2 = 0 && (b.drop 0x3C).all (· = 0)

/-- The physical pages of addresses: each must be device memory that belongs to no queue and to no fault queue yet. -/
def State.queuePages (s : State) (asid : Nat) : List Nat → Option (List Nat × State)
  | [] => some ([], s)
  | a :: as =>
    match s.distPlace asid a with
    | none => none
    | some (p, s) =>
      if tget 0 s.spaces.notok (p / 4096) != 0 then none
      else (s.queuePages asid as).map fun r => (p / 4096 :: r.1, r.2)

/-- Zeroes a block of device memory. -/
def State.zeroBlock (s : State) (a n : Nat) : State :=
  { s with mem := s.mem.zero a n, own := s.own.flatMap (cutRange a n), poison := s.poison.filter fun e => !(a ≤ e.1 && e.1 < a + n) }

/-- Pages of a queue: no cached byte of them remains, and they are marked. -/
def State.markQueuePages (s : State) (tag : Nat) : List Nat → State
  | [] => s
  | p :: ps =>
    let s := s.combineAll ((s.wc.filter fun e => e.2.unit / 64 = p).map Prod.fst)
    let s := s.purgeAll ((s.l1.filter fun e => e.1 % 2 ^ 32 / 16 = p).map Prod.fst)
    ({ s with spaces := { s.spaces with notok := tput s.spaces.notok p tag } }).markQueuePages tag ps

def State.zeroPages (s : State) (n : Nat) : List Nat → State
  | [] => s
  | p :: ps => (s.zeroBlock (p * 4096) n).zeroPages n ps

/-- QREG. -/
def execQreg (s : State) : Result :=
  command 0x10 s fun s =>
    let b := s.mem.read (seenAt 8) 128
    let f := pktField b
    let log := f 0x08 1
    let ring := (List.range (64 * 2 ^ log / 4096)).map fun i => f 0x00 8 + i * 4096
    if !descriptorOk b then s.answer 1 []
    else match s.queuePages (f 0x28 2) (ring ++ [f 0x10 8, f 0x18 8, f 0x20 8]) with
      | none => s.answer 1 []
      | some (pages, s) =>
        match (List.range Config.workQueues).find? fun q => (tfind s.queues q).isNone with
        | none => s.answer 2 []
        | some q =>
          let s := s.markQueuePages (q + 1) pages.eraseDups
          let s := s.zeroPages 4096 (pages.take ring.length)
          let wpa := pages.getD ring.length 0 * 4096 + f 0x10 8 % 4096
          let rpa := pages.getD (ring.length + 1) 0 * 4096 + f 0x18 8 % 4096
          let s := (s.zeroBlock wpa 8).zeroBlock rpa 8
          let orElse := fun (v d : Nat) => if v = 0 then d else v
          let w : WorkQueue :=
            { base := f 0x00 8, logslots := log, prio := f 0x09 1, weight := f 0x0A 1, ageceil := f 0x0B 1,
              submit := BitVec.ofNat 8 (f 0x0C 1), widx := f 0x10 8, ridx := f 0x18 8, widxPa := wpa, ridxPa := rpa,
              qfault := f 0x20 8, asid := f 0x28 2, drain := f 0x2C 4, agelim := orElse (f 0x30 4) 10000,
              ageq := orElse (f 0x34 4) 1000, stalllim := orElse (f 0x38 4) 100, credit := 0, head := none, packet := none,
              stalled := false, unpublished := none, closing := false, notified := false, outstanding := [], waiting := [] }
          (s.setQ q w).answer 0 (wordAtOff 8 q)

/-- A queue number as an argument: its queue, or a status. -/
def State.namedQueue (s : State) (q : Nat) : Except Nat WorkQueue :=
  if Config.workQueues ≤ q then .error 1 else match tfind s.queues q with | some w => .ok w | none => .error 3

/-- The queue is gone; what its packets started, and its latched SIGNALs, go on under a number that names no queue (R39). -/
def State.removeQueue (s : State) (q : Nat) (w : WorkQueue) : State :=
  let pages := (s.spaces.notok.filter fun e => e.2 = q + 1).map Prod.fst
  let s := { s with queues := tdel s.queues q }.unmarkPages pages
  if w.outstanding.isEmpty && w.waiting.isEmpty then s
  else
    let t := (s.queues.map Prod.fst).foldl (fun a b => max a (b + 1)) Config.workQueues
    let s := s.setQ t { w with closing := true, widxPa := 2 ^ 70, ridxPa := 2 ^ 70 }
    { s with launches := s.launches.map fun (e : Nat × Launch) => if e.2.queue = q then (e.1, { e.2 with queue := t }) else e,
             copies := s.copies.map fun (e : Nat × Copy) => if e.2.queue = q then (e.1, { e.2 with queue := t }) else e,
             colls := s.colls.map fun (c : CollStart) => if c.stream.isNone && c.queue = q then { c with queue := t } else c }

/-- QUNREG: answered once the latched head has been placed or rejected. Until then the command stays at hand. -/
def execQunreg (s : State) : Result :=
  command 0x11 s fun s =>
    let q := s.arg 8 8
    match s.namedQueue q with
    | .error st => s.answer st []
    | .ok w =>
      if w.head.isSome || w.packet.isSome then s.setQ q { w with closing := true }
      else (s.removeQueue q w).answer 0 []

/-- QRESUME, QSKIP: of a stalled queue. -/
def stalledCommand (code : Nat) (s : State) (body : WorkQueue → State → State) : Result :=
  command code s fun s =>
    let q := s.arg 8 8
    match s.namedQueue q with
    | .error st => s.answer st []
    | .ok w =>
      if !w.stalled then s.answer 3 []
      else ((body w s).setQ q { w with stalled := false, notified := true }).answer 0 []
/-- QRESUME: the head is examined again. -/
def execQresume (s : State) : Result := stalledCommand 0x12 s fun _ s => s
/-- QSKIP: RIDX moves past the head. -/
def execQskip (s : State) : Result := stalledCommand 0x13 s fun w s => s.bumpRidx w

/-- QSETPRIO: the new values come into force with its answer (`applyPrio`). -/
def execQsetprio (s : State) : Result :=
  command 0x14 s fun s =>
    let a := s.arg 8 8
    let prio := a / 2 ^ 16 % 256
    let weight := a / 2 ^ 24 % 256
    let ceil := a / 2 ^ 32 % 256
    if 2 ^ 40 ≤ a || 127 < prio || weight = 0 || !within prio 127 ceil then s.answer 1 []
    else match s.namedQueue (a % 2 ^ 16) with
      | .error st => s.answer st []
      | .ok _ => { s with dev := { s.dev with setPrio := some [a % 2 ^ 16, prio, weight, ceil] } }.answer 0 []

/-! ### Launches (R396, R412, R415) -/

/-- A launch number that names a placed or checkpointed launch. -/
def State.named (s : State) (l : Nat) : Option Launch :=
  (tfind s.launches l).filter fun v => v.phase != .latched

/-- FRESUME, as TRET: while a NEXT fetch waits for its page the command stays at hand (R398, R401). -/
def execFresume (s : State) : Result :=
  command 0x20 s fun s =>
    let a := s.arg 8 8
    let l := a % 2 ^ 14
    if a / 2 ^ 14 % 4 != 0 || a / 2 ^ 28 % 16 != 0 || 2 ^ 34 ≤ a then s.answer 1 []
    else match s.named l with
      | none => s.answer 3 []
      | some _ =>
        match s.resumeStream l (BitVec.ofNat 64 (a / 2 ^ 16 % 2 ^ 12)) (a.testBit 32) (a.testBit 33) with
        | .status st s => s.answer 0 (wordAtOff 16 st)
        | .page _ s => s

/-- LKILL. -/
def execLkill (s : State) : Result :=
  command 0x21 s fun s =>
    let l := s.arg 8 8
    if 2 ^ 14 ≤ l then s.answer 1 []
    else match s.named l with
      | none => s.answer 3 []
      | some _ => (s.kill l).answer 0 []

/-- PGDONE. -/
def execPgdone (s : State) : Result :=
  command 0x22 s fun s =>
    let a := s.arg 8 8
    let key := pageKey (a % 2 ^ 16) (s.arg 16 8)
    if 2 ^ 17 ≤ a || 2 ^ 48 ≤ s.arg 16 8 then s.answer 1 []
    else match tfind s.pageRequests key with
      | none => s.answer 3 []
      | some _ => (s.answerPage key (a.testBit 16)).answer 0 []

/-- The Factor holds every byte of a block of device memory. -/
def State.factorHolds (s : State) (a n : Nat) : Bool :=
  usable a && usable (a + n - 1) && a / Config.dieBytes = (a + n - 1) / Config.dieBytes &&
    s.regions.all fun e => a + n ≤ e.1 || e.1 + 2 ^ e.2.ls ≤ a || (e.2.state = .excl && e.2.holder = Config.factorId)

/-- TRCSET. Its answer reports the write index of the launch's ring as the command found it (log entry 13). -/
def execTrcset (s : State) : Result :=
  command 0x30 s fun s =>
    let a := s.arg 8 8
    let l := a % 2 ^ 14
    let mask := a / 2 ^ 16 % 256
    let log := a / 2 ^ 24 % 256
    let ring := s.arg 16 8
    if a / 2 ^ 14 % 4 != 0 || 2 ^ 32 ≤ a then s.answer 1 []
    else match s.named l with
      | none => s.answer 3 []
      | some v =>
        if mask = 0 then (s.setLaunch l { v with traceMask := 0 }).answer 0 (wordAtOff 8 v.traceIdx)
        else if !within 10 24 log || ring % (32 * 2 ^ log) != 0 || !s.factorHolds ring (32 * 2 ^ log) then s.answer 1 []
        else
          (s.setLaunch l { v with traceMask := BitVec.ofNat 8 mask, traceBase := ring, traceLog := log, traceIdx := 0 }).answer 0
            (wordAtOff 8 v.traceIdx)

/-- BRKSET. -/
def execBrkset (s : State) : Result :=
  command 0x31 s fun s =>
    let a := s.arg 8 8
    let l := a % 2 ^ 14
    let n := a / 2 ^ 14 % 4
    let sidx := a / 2 ^ 16 % 2 ^ 12
    let iter := s.arg 16 8
    if 2 ^ 32 ≤ a || 2 ^ 31 ≤ iter then s.answer 1 []
    else match s.named l with
      | none => s.answer 3 []
      | some v =>
        if !a.testBit 31 then (s.setLaunch l { v with breakpoints := tdel v.breakpoints n }).answer 0 []
        else if sidx != 0xFFF && v.m.streams ≤ sidx then s.answer 1 []
        else
          let b : Breakpoint := { sidx := sidx, loop := a / 2 ^ 28 % 8, iter := iter }
          (s.setLaunch l { v with breakpoints := tput v.breakpoints n b }).answer 0 []

/-! ### Memory (R192) -/

/-- ASREG. -/
def execAsreg (s : State) : Result :=
  command 0x40 s fun s =>
    let a := s.arg 8 8
    let root := s.arg 16 8
    if 2 ^ 16 ≤ a || root % 4096 != 0 || !s.factorHolds root 4096 then s.answer 1 []
    else if (tget none s.spaces.roots a).isSome then s.answer 3 []
    else ({ s with spaces := { s.spaces with roots := tput s.spaces.roots a (some root) } }).answer 0 []

/-- Every prefix entry of an ASID is evicted (R319). -/
def State.evictAll (s : State) : List Nat → State
  | [] => s
  | n :: ns => (s.evictPrefix n).evictAll ns

/-- ASUNREG. -/
def execAsunreg (s : State) : Result :=
  command 0x41 s fun s =>
    let a := s.arg 8 8
    if 2 ^ 16 ≤ a then s.answer 1 []
    else if (tget none s.spaces.roots a).isNone || s.queues.any (fun e => e.1 < Config.workQueues && e.2.asid = a) ||
        s.launches.any (fun e => e.2.phase != .latched && e.2.asid = a) then s.answer 3 []
    else
      let s := s.evictAll ((s.prefixes.filter fun e => e.2.asid = a).map Prod.fst)
      let s := s.invalidate a none
      ({ s with spaces := { s.spaces with
          roots := tdel s.spaces.roots a, remote := s.spaces.remote.filter fun e => e.1 / 4096 != a,
          window := if s.spaces.window = some a then none else s.spaces.window } }).answer 0 []

/-- ASINV. -/
def execAsinv (s : State) : Result :=
  command 0x42 s fun s =>
    let a := s.arg 8 8
    let all := a.testBit 16
    if 2 ^ 17 ≤ a || (!all && 2 ^ 48 ≤ s.arg 16 8) then s.answer 1 []
    else (s.invalidate (a % 2 ^ 16) (if all then none else some (s.arg 16 8))).answer 0 []

/-- RMTEN. -/
def execRmten (s : State) : Result :=
  command 0x43 s fun s =>
    let a := s.arg 8 8
    let key := a % 2 ^ 16 * 4096 + a / 2 ^ 16 % 4096
    if a / 2 ^ 28 % 16 != 0 || 2 ^ 33 ≤ a then s.answer 1 []
    else ({ s with spaces := { s.spaces with remote := tset false s.spaces.remote key (a.testBit 32) } }).answer 0 []

/-- A refusal by the directory: the subcode and the state word (R14). -/
def State.refuseToken (s : State) (sub word : Nat) : State := s.answer 6 (wordAtOff 8 sub ++ wordAtOff 16 word)

/-- The region that a Factor command names: one that exists exactly, or a block of the default holding, which becomes one
(R201). -/
def State.factorRegion (s : State) (place ls : Nat) : Except Nat (Region × State) :=
  match s.exact place ls with
  | some r => .ok (r, s)
  | none =>
    if !s.factorHolds place (2 ^ ls) || s.regions.any (fun e => e.1 < place + 2 ^ ls && place < e.1 + 2 ^ e.2.ls) then .error 1
    else if !s.room place 1 then .error 5
    else .ok (defaultRegion ls, s.putRegion place (some (defaultRegion ls)))

/-- FGRANT, FRECLAIM: the region at the translated base. The accesses on their way to it perform first (R210); while one cannot, the
command stays at hand. A page outside the token system has no region, so the state word of
its refusal is free (log entry 11). -/
def tokenCommand (code : Nat) (s : State) (reclaim : Bool) (op : Bool → Nat → OwnerOp) : Result :=
  command code s fun s =>
    let a := s.arg 8 8
    let va := s.arg 16 8
    let rcv := s.arg 24 8
    let ls := a / 2 ^ 17 % 64
    if 2 ^ 23 ≤ a || !within 12 40 ls || 2 ^ 32 ≤ rcv || (reclaim && (a.testBit 16 || rcv != 0)) || 2 ^ 48 ≤ va then s.answer 1 []
    else match s.translate farTlb (a % 2 ^ 16) va with
      | none => s.answer 1 []
      | some (leaf, s) =>
        let place := leaf.pa + va % 4096
        if leaf.host || s.noToken leaf then
          let (w, s) := s.draw
          s.refuseToken 1 w.toNat
        else
          let refuse := fun (sub : Nat) => s.refuseToken sub (s.wordAt place ls)
          if place % 2 ^ ls != 0 then refuse 1
          else match s.landFor place ls with
            | none => s
            | some s => match s.factorRegion place ls with
              | .error sub => s.refuseToken sub (s.wordAt place ls)
              | .ok (r, s1) => match op (a.testBit 16) rcv s1 place r with
                | .error sub => s.refuseToken sub (s.wordAt place ls)
                | .ok (s2, _) => s2.answer 0 []

/-- FGRANT: as OGIVE or OLEND with the Factor as caller. -/
def execFgrant (s : State) : Result :=
  tokenCommand 0x44 s false fun lend rcv => lendOrGive lend [Config.factorId] rcv
/-- FRECLAIM. -/
def execFreclaim (s : State) : Result := tokenCommand 0x45 s true fun _ _ => reclaimTo Config.factorId

/-- HWIN. -/
def execHwin (s : State) : Result :=
  command 0x46 s fun s =>
    let a := s.arg 8 8
    let x := a % 2 ^ 16
    if 2 ^ 17 ≤ a then s.answer 1 []
    else if (tget none s.spaces.roots x).isNone then s.answer 3 []
    else
      let w := if a.testBit 16 then (if s.spaces.window = some x then none else s.spaces.window) else some x
      ({ s with spaces := { s.spaces with window := w } }).answer 0 []

end Sys2Proof.Machine
end

