-- ==== Sys2Proof/Machine/Reliability.lean ====
section
/-! DEFINITION. The Rearguard (R118, R119, R402), uncorrectable errors (R403), lost cores (R211), lost
peers and ports (R383, R386), corrected errors and their buckets (R407, R408), and refresh (R200). -/

namespace Sys2Proof.Machine

/-! ### The Rearguard -/

/-- What the Rearguard compares of an engine entry: its words, captured operands and expected counts. -/
def Entry.compared (e : Entry) : List Word :=
  [e.w0, e.w1, e.xs1, e.xs2, e.shape, e.ssr, e.rm.zeroExtend 64,
   BitVec.ofNat 64 (e.edt.toNat + e.eta.toNat * 2 ^ 16 + e.etb.toNat * 2 ^ 32 + e.etc.toNat * 2 ^ 48)]

/-- The format word that the head of a stream's queue of an engine has been bound to is an operand of it too (R268). -/
def Stream.boundWord (t : Stream) (unit : Nat) : List Word :=
  match (t.queue unit).entries with
  | e :: _ => if e.pops && !e.unbound then [t.fq.headD 0] else []
  | [] => []

/-- What is compared of the head of a stream's queue of an engine. -/
def Stream.headValues (t : Stream) (unit : Nat) : List Word :=
  ((t.queue unit).entries.head?.map Entry.compared).getD [] ++ t.boundWord unit

/-- An operation that leaves the core: a store, an atomic, CLAIM, an owner instruction, BAR. -/
def leavesCore : Instr → Bool
  | .sts _ | .stc _ | .std _ | .stm _ | .stx _ | .sth _ | .amc _ | .amd _ | .amm _ | .amx _ | .amh _ | .claim _ => true
  | .olend _ | .ogive _ | .ortrn _ | .osplit _ | .ojoin _ | .oshare _ | .odrop _ | .oquery _ | .oreclaim _ => true
  | .barArrive _ | .barWait _ | .barSync _ | .barLeave _ => true
  | _ => false

/-- What the Rearguard compares of an operation that a context makes: that it is made, and its address, data and operands. -/
def opValues (t : Stream) (i : Instr) : List Word :=
  let made : Word := if t.guardTrue i.guard then 1 else 0
  t.pc :: made :: match i.parts with
    | some (_, _, .fmm f) =>
      [t.xr f.xa + (t.xr f.xi <<< f.sh.toNat) + f.disp.signExtend 64, t.xr f.xi, t.xr f.xt] ++
        if f.sz = 4 then [t.xr (f.xt + 1)] else []
    | some (_, _, .fmx f) => [t.xr f.xa + f.disp.signExtend 64, t.xr f.xi, t.xr f.xt]
    | some (_, _, .fmc f) => [t.xr f.xa + f.disp.signExtend 64]
    | some (_, _, .fmt f) => [t.xr f.xa, t.xr f.xb]
    | _ => []

/-- The first word that differs, the stream's and the Rearguard's. -/
def firstDiff : List Word → List Word → Option (Word × Word)
  | [], _ => none
  | a :: as, bs => if bs.head? = some a then firstDiff as bs.tail else some (a, bs.headD 0)

/-- The words in which the operation at stream `k`'s PC, or the head of its queue of engine `unit`, differs from the Rearguard's,
with the PC that a record names. -/
def State.divergence (s : State) (k unit : Nat) : Option (Word × Word × Word) :=
  match tfind s.shadow k with
  | none => none
  | some sh =>
    let t := s.stream k
    if unit = 0 then
      match s.instrAt k with
      | some i =>
        if leavesCore i && (t.guardTrue i.guard || sh.guardTrue i.guard) then
          (firstDiff (opValues t i) (opValues sh i)).map fun d => (d.1, d.2, t.pc)
        else none
      | none => none
    else match (t.queue unit).entries with
      | e :: _ => (firstDiff (t.headValues unit) (sh.headValues unit)).map fun d => (d.1, d.2, e.pc)
      | [] => none

/-- A comparison that fails is the machine check CHECK_DIVERGE, and the compared command never issues; none where it holds. The
numbering of queue and operation kinds is not given: ARG0 is free (log entry 11). -/
def State.rearguard (s : State) (k unit : Nat) : Option State :=
  match s.divergence k unit with
  | none => none
  | some (own, other, pc) =>
    if s.checked (k / 4096) then
      let (v, s) := s.draw
      some (s.machineCheck k unit 23 pc [v.toNat, own.toNat, other.toNat] false)
    else none

/-- REARGUARD_CHECK of stream `a`: the operation at its PC (`b` = 0) or the head of its queue of engine `b`. What issues or starts
is compared then in any case (`issueWith`, `startTurn`). -/
def execRearguardCheck (s : State) : Result :=
  let k := s.inp.a
  if !s.runs k then .next s else .next (((s.about k).rearguard k s.inp.b).getD s)

/-- The registers whose values the Rearguard is handed, of an instruction that it does not compute again (R118): loads, atomics,
CLAIM, SYSR, tile instructions, and what else answers from outside the stream's context. A store hands nothing. -/
def handed (i : Instr) : Option (List (BitVec 6)) :=
  match i.parts with
  | none => none
  | some (op, fn, fs) =>
    match fs with
    | .fmm f => some (if leavesCore i then [] else if f.sz = 4 then [f.xt, f.xt + 1] else [f.xt])
    | .fmx f => some [f.xt]
    | .fmc f => some [f.xt, f.xi]
    | .fmk f => some [f.xd]
    | .fmt f => some [f.xd]
    | .fma f => if op = 0x63 && fn != 0 then some (if fn = 1 then [] else [f.xd]) else none
    | .fms f => if op = 0x6E || op = 0xA0 || (op = 0x43 && fn = 4) then some [f.xd] else none
    | .fmf _ => some []
    | _ => none

/-- The predicate that a tile instruction answers in. -/
def handedPred (i : Instr) : Nat := match i.parts with | some (_, _, .fmk f) => f.pd.toNat | _ => 0

/-- The arena register that ARNSET has loaded. -/
def handedArena (i : Instr) : Option Nat := match i with | .arnset f => some (f.xc.toNat % 4) | _ => none

/-- The flags and REMERR that a stream's SSR has got. -/
def Stream.gotFlags (before after : Stream) : Word := after.ssr &&& ~~~before.ssr &&& 0x3F04

/-- The Rearguard's copy takes the values that its stream got from `before` to `after`, and goes on behind the instruction. -/
def Stream.takeHanded (sh before after : Stream) (i : Instr) (rs : List (BitVec 6)) : Stream :=
  if sh.guardTrue i.guard then
    let sh := sh.pw (handedPred i) (after.pr (handedPred i))
    let sh := match handedArena i with | some n => { sh with arn := tset 0 sh.arn n (tget 0 after.arn n) } | none => sh
    rs.foldl (fun t x => t.xw x (after.xr x)) { sh with pc := sh.pc + 8, ssr := sh.ssr ||| before.gotFlags after }
  else { sh with pc := sh.pc + 8 }

/-- The context in which the Rearguard runs an instruction again: its own PC, X, K, P, SHAPE, FQ, SSR, ARN, loop registers and
queue entries, and for the rest what its stream holds. -/
def Stream.overlay (own sh : Stream) : Stream :=
  { own with pc := sh.pc, x := sh.x, k := sh.k, p := sh.p, shape := sh.shape, loopst := sh.loopst, fq := sh.fq, u := sh.u,
             ssr := sh.ssr, arn := sh.arn,
             matrixQ := { own.matrixQ with entries := sh.matrixQ.entries },
             vectorQ := { own.vectorQ with entries := sh.vectorQ.entries },
             porterQ := { own.porterQ with entries := sh.porterQ.entries },
             assayerQ := { own.assayerQ with entries := sh.assayerQ.entries } }

/-- The head of a queue has started, and `pops` words of FQ have gone with it: the copy's leave too. -/
def State.shadowPop (s : State) (k unit pops : Nat) : State :=
  match tfind s.shadow k with
  | none => s
  | some sh =>
    let q := sh.queue unit
    { s with shadow := tput s.shadow k ({ sh with fq := sh.fq.drop pops }.setQueue unit { q with entries := q.entries.tail }) }

/-! ### Uncorrectable errors and lost cores -/

/-- A bit error that strikes a core's L1 sector: `n` bytes of it from offset `o` on are poisoned. -/
def State.poisonSector (s : State) (key o n : Nat) : State :=
  match tfind s.l1 key with
  | none => s
  | some t => { s with l1 := tput s.l1 key { t with poison := markBits t.poison o (min n (256 - o)) } }

/-- UNCORRECTABLE_ERROR: `c` = 0, in the `d` bytes at place `a` of a store, or `c` = 3, in `d` bytes from offset `b` on of the L1
sector of key `a`: they are poisoned; `c` = 1, in control state of the core of stream `a`; `c` = 2, in control state of the
physical core `a`, where no launch runs. The numbering of a control store's rows is not given: ARG0 is free (log entry 11). -/
def execUncorrectableError (s : State) : Result :=
  let p := s.inp
  if p.c = 0 then
    .next (if p.a + p.d ≤ Place.base .host || (Place.base .tile ≤ p.a && p.a + p.d ≤ Place.base .fmmsg) then s.setPoison p.a p.d else s)
  else if p.c = 3 then .next (if p.b < 256 then s.poisonSector p.a p.b p.d else s)
  else if p.c = 1 then
    if !s.hasStream p.a || !s.checked (p.a / 4096) then .next s
    else
      let s := s.about p.a
      let (v, s) := s.draw
      .next (s.machineCheck p.a 7 24 s.st.pc [v.toNat, 7, 0] true)
  else .next (if p.a < 384 && s.streamsOn p.a = [] then s.loseCore p.a else s)

/-- CORE_LOST of the physical core `a`, as the Factor declares it. -/
def execCoreLost (s : State) : Result := .next (if s.inp.a < 384 then s.loseCore s.inp.a else s)

/-! ### Corrected errors (R407, R408) -/

/-- The bucket classes: 0 HBM banks, `pseudo-channel * 64 + bank`; 1 lanes, `port * 9 + lane`; 2 SRAM, a cluster. -/
def bucketCount (cls : Nat) : Nat := if cls = 0 then 65536 else if cls = 1 then 144 else if cls = 2 then 48 else 0
def bucketKey (cls i : Nat) : Nat := cls * 2 ^ 20 + i

/-- BKTCFG and its fields; 0 is treated as 1. -/
def State.bktcfg (s : State) (cls : Nat) : Word := tget bktReset s.dev.bktcfg cls
def State.mark (s : State) (cls : Nat) : Nat := max 1 ((s.bktcfg cls).toNat / 2 ^ 48)
def State.leakPeriod (s : State) (cls : Nat) : Nat := max 1 ((s.bktcfg cls).toNat / 2 ^ 8 % 2 ^ 24)

/-- The leaks of a class that have fallen due since the last: each lowers every bucket of it, and with class 0 clears the
filters. -/
def State.leak (s : State) (cls : Nat) : State :=
  let done := tget 0 s.dev.leaks cls
  let n := s.dev.ns / (s.leakPeriod cls * 10 ^ 6) - done
  if n = 0 then s
  else
    let of := fun (k : Nat) => k / 2 ^ 20 == cls
    let low := s.dev.buckets.map fun e => if of e.1 then (e.1, e.2 - n) else e
    let still := s.dev.disarmed.filter fun e => !(of e.1 && tget 0 low e.1 < s.mark cls / 2)
    { s with dev := { s.dev with leaks := tput s.dev.leaks cls (done + n), buckets := low,
                                 disarmed := still, blooms := if cls = 0 then [] else s.dev.blooms } }

/-- BUCKET_LEAK of class `a`. -/
def execBucketLeak (s : State) : Result := .next (s.leak s.inp.a)

/-- The two bits of a row of a bank. -/
def bloomBits (bank row : Nat) : Nat × Nat :=
  let key := bank * 2 ^ 18 + row
  (key * 0x9E37 % 4096, ((key / 4096) ^^^ key) % 4096)

/-- In Bloom-filter mode: whether the error is counted, and the filter with its bits set. -/
def State.bloom (s : State) (i row : Nat) : Bool × State :=
  let pc := i / 64
  let f := tget 0 s.dev.blooms pc
  let (a, b) := bloomBits (i % 64) row
  (!(f.getLsbD a && f.getLsbD b),
    { s with dev := { s.dev with blooms := tput s.dev.blooms pc (f ||| (1#4096 <<< a) ||| (1#4096 <<< b)) } })

/-! ### Lost peers and ports (R211, R383, R386) -/

/-- Accesses on their way to a lost party must return errors. -/
def Stream.failAccesses (t : Stream) (lost : Access → Bool) : Stream :=
  { t with accesses := t.accesses.map fun e => if lost e.2 then (e.1, { e.2 with failed := true }) else e }
def State.failAccesses (s : State) (lost : Access → Bool) : State :=
  { s with streams := s.streams.map fun (e : Nat × Stream) => (e.1, e.2.failAccesses lost) }

/-- The transfers of the device's starts to a peer that are not acknowledged. -/
def State.transfersTo (s : State) (dev : Nat) : List (Nat × Nat) :=
  s.colls.flatMap fun (c : CollStart) => (c.unacked.filter fun f => colDevice c.record c.ring f = dev).map fun f => (c.id, f)

/-- Transfers complete as remote errors. -/
def State.failTransfers (s : State) : List (Nat × Nat) → State
  | [] => s
  | (id, f) :: r => (s.acknowledge id f false).failTransfers r

/-- A port that carries nothing: its replay buffer is empty. -/
def Port.down (p : Port) : Port := { p with up := false, retraining := false, replaying := false, replay := [] }

/-- The ports when a peer is lost: one that led to it alone is down, and another leads to it no more; its flits are discarded. -/
def Port.without (p : Port) (dev : Nat) : Port :=
  if p.routes = [dev] then p.down
  else { p with routes := p.routes.filter (· != dev), replay := p.replay.filter fun f => f.dev != dev }

/-- A peer is lost: its ports are down, their permits and flits discarded, what was on its way to it errs, the regions lent to it
are ORPHANED and its shares dropped (R386). -/
def State.losePeer (s : State) (dev : Nat) : State :=
  let gone := (s.ports.filter fun e => e.2.routes = [dev]).map Prod.fst
  let s : State :=
    { s with ports := s.ports.map fun e => (e.1, e.2.without dev),
             permits := s.permits.filter fun e => !gone.contains (e.1 / 4),
             peersLost := tput s.peersLost dev true,
             sent := s.sent.filter fun o => o.dev != dev,
             resend := s.resend.filter fun f => f.dev != dev }
  let s := s.failAccesses fun p => p.space = 4 && p.addr.toNat / 2 ^ 52 = dev
  let s := (s.failTransfers (s.transfersTo dev)).orphan false (fun id => id = peerId dev) fun _ _ _ => false
  s.portWorkAll (s.handles.map Prod.fst)

/-- The peers of a port that went down: one that no route reaches any more is lost (R386). -/
def State.loseRoutes (s : State) : List Nat → State
  | [] => s
  | d :: ds => (if s.routed d || tget false s.peersLost d then s else s.losePeer d).loseRoutes ds

/-- A port goes down: its permits are discarded, and the flits of its replay buffer are sent again over another route to the same
peer (R383); a peer with no route left is lost (R386). -/
def State.portDown (s : State) (n : Nat) : State :=
  let p := tget Port.default s.ports n
  let s : State := { s with ports := tput s.ports n p.down, permits := s.permits.filter fun e => e.1 / 4 != n,
                            resend := s.resend ++ p.replay }
  if p.up then s.loseRoutes p.routes else s

/-! ### Lanes and buckets -/

/-- A lane of a port that is up fails (R383): the spare takes its place, or the port retrains with four lanes, or it has fewer
than four good lanes and goes down. -/
def State.loseLane (s : State) (n : Nat) : State :=
  let p := tget Port.default s.ports n
  if !p.up then s
  else
    let p := { p with good := p.good - 1 }
    let s : State := { s with ports := tput s.ports n p }
    if p.good < 4 then s.portDown n
    else if p.spare then { s with ports := tput s.ports n { p with retraining := true } }
    else { s with ports := tput s.ports n { p with spare := true } }

/-- An error is counted in its bucket; at MARK the bucket raises its event. -/
def State.countError (s : State) (cls i : Nat) : State :=
  let key := bucketKey cls i
  let b := min (tget 0 s.dev.buckets key + 1) 65535
  let s : State := { s with dev := { s.dev with buckets := tput s.dev.buckets key b } }
  if b < s.mark cls || tget false s.dev.disarmed key then s
  else
    let s : State := { s with dev := { s.dev with disarmed := tput s.dev.disarmed key true, events := s.dev.events ++ [2 ^ 32 + key],
                                                  predictive := tput s.dev.predictive cls (tget 0 s.dev.predictive cls + 1) } }
    if cls = 1 then s.loseLane (i / 9) else s

/-- CORRECTED_ERROR in bucket `b` of class `a`, for an HBM bank in row `c`. A leak that falls due comes first. -/
def execCorrectedError (s : State) : Result :=
  let p := s.inp
  if !s.dev.railsGood || bucketCount p.a ≤ p.b || 2 ^ 18 ≤ p.c then .next s
  else
    let s := s.leak p.a
    if p.a = 0 && (s.bktcfg 0).getLsbD 0 then
      let (counted, s) := s.bloom p.b p.c
      .next (if counted then s.countError 0 p.b else s)
    else .next (s.countError p.a p.b)

/-! ### Refresh (R200) -/

/-- REFRESH_DUE in pseudo-channel `a`: `ok` says that its bank has traffic and the controller postpones it, `d` for how many
periods of 1.25 ns an access waited on it. -/
def execRefreshDue (s : State) : Result :=
  let c := s.inp.a
  if !s.dev.railsGood || 1024 ≤ c then .next s
  else
    let wait := fun (s : State) =>
      { s with dev := { s.dev with stall := tset 0 s.dev.stall c (min (tget 0 s.dev.stall c + s.inp.d) (2 ^ 48 - 1)) } }
    let n := tget 0 s.dev.postponed c + 1
    if !s.inp.ok then .next (wait s)
    else if n < 8 then .next { s with dev := { s.dev with postponed := tput s.dev.postponed c n } }
    else
      let s := wait s
      .next { s with dev := { s.dev with postponed := tdel s.dev.postponed c,
                                         forced := tput s.dev.forced c (min (tget 0 s.dev.forced c + 1) 0xFFFF) } }

end Sys2Proof.Machine
end

