-- ==== Sys2Proof/Machine/Links.lean ====
section
/-! DEFINITION. The Veroitor ports (R381 to R383), collective chunks on them (R370 to R376), lost peers and new ones (R386), and what
peers ask of this device (R37, R38, R191). -/

namespace Sys2Proof.Machine

/-! ### Ports, flits and permits (R381 to R383) -/

def State.port (s : State) (n : Nat) : Port := tget Port.default s.ports n
def State.setPort (s : State) (n : Nat) (p : Port) : State := { s with ports := tput s.ports n p }

/-- Key of the permits of a port, virtual channel and direction: `b` is the channel, plus 2 for what this device sends. -/
def permitKey (port b : Nat) : Nat := (port * 2 + b % 2) * 2 + b / 2

/-- TOTAL. -/
def Permits.total (p : Permits) : Nat := p.held + p.inflight + p.occupied + p.returning

/-- What is at hand to be sent over some routes on a virtual channel: the first flit of a port that went down, or the next 240 bytes of
chunk `d` of those on their way, or on VC0 a flit of the memory traffic with the peer of route `d`, which the model does not tie to
an access (log entry 54); with the state that has taken it. -/
def State.nextFlit (s : State) (routes : List Nat) (vc d : Nat) : Option (Flit × State) :=
  match s.resend.find? fun f => f.vc = vc && routes.contains f.dev with
  | some f => some (f, { s with resend := s.resend.erase f })
  | none =>
    if vc = 0 then routes[d]?.map fun dev => ({ vc := 0, dev := dev, start := 0, f := 0, off := 0 }, s)
    else match s.sent[d]? with
      | none => none
      | some o =>
        if !routes.contains o.dev || o.chunk.size ≤ o.next then none
        else some ({ vc := 1, dev := o.dev, start := o.chunk.start, f := o.chunk.f, off := o.next },
                   { s with sent := s.sent.set d { o with next := o.next + 240 } })

/-- A flit of this device leaves port `n` on a virtual channel: it takes a permit, and stays in the replay buffer. -/
def State.sendFlit (s : State) (n vc d : Nat) : State :=
  let v := tget Permits.default s.permits (permitKey n (vc + 2))
  if v.held = 0 then s
  else match s.nextFlit (s.port n).routes vc d with
    | none => s
    | some (f, s) =>
      ({ s with permits := tput s.permits (permitKey n (vc + 2)) { v with held := v.held - 1, inflight := v.inflight + 1 } }).setPort
        n { s.port n with replay := (s.port n).replay ++ [f] }

/-- The peer receives the oldest flit of a virtual channel that port `n` has in its replay buffer: acknowledged, it leaves the
buffer; with a bad CRC it stays there, to be sent again. -/
def State.flitReceived (s : State) (n vc : Nat) (ok : Bool) : State :=
  let key := permitKey n (vc + 2)
  let v := tget Permits.default s.permits key
  match (s.port n).replay.find? fun f => f.vc = vc with
  | none => s
  | some f =>
    if !ok || v.inflight = 0 then s
    else
      ({ s with permits := tput s.permits key { v with inflight := v.inflight - 1, occupied := v.occupied + 1 } }).setPort n
        { s.port n with replay := (s.port n).replay.erase f }

/-- A flit for this device comes in at port `n` on a virtual channel: one that fails its CRC is sent again. -/
def State.flitIn (s : State) (n vc : Nat) (ok : Bool) : State :=
  let port := s.port n
  let v := tget Permits.default s.permits (permitKey n vc)
  let put := fun (v : Permits) (replaying : Bool) =>
    ({ s with permits := tput s.permits (permitKey n vc) v }).setPort n { port with replaying := replaying }
  if port.replaying && v.inflight != 0 then
    (if ok then put { v with inflight := v.inflight - 1, occupied := v.occupied + 1 } false else s)
  else if v.held = 0 then s
  else if ok then put { v with held := v.held - 1, occupied := v.occupied + 1 } port.replaying
  else put { v with held := v.held - 1, inflight := v.inflight + 1 } true

/-- A permit moves on: the flit leaves its receive slot (`c` = 1), the permit is back at the sender (2), it is lost on the way
(3). -/
def Permits.move (v : Permits) (c : Nat) : Permits :=
  if c = 1 then (if v.occupied = 0 then v else { v with occupied := v.occupied - 1, returning := v.returning + 1 })
  else if v.returning = 0 then v
  else if c = 2 then { v with returning := v.returning - 1, held := v.held + 1 }
  else { v with returning := v.returning - 1 }

/-- FLIT_RECEIVE on port `a`; `b` is the virtual channel, plus 2 for a flit that this device sends. With `c` = 0 a flit comes in, or
the peer receives one, good or bad as `ok` says; with 1, 2 and 3 its permit moves on; with 4 this device sends one, of chunk
`d` of those on their way or to the peer of its route `d`. -/
def execFlitReceive (s : State) : Result :=
  let p := s.inp
  let port := s.port p.a
  let key := permitKey p.a p.b
  if !port.up || port.retraining || 16 ≤ p.a || 4 ≤ p.b then .next s
  else if p.c = 0 then .next (if p.b < 2 then s.flitIn p.a p.b p.ok else s.flitReceived p.a (p.b - 2) p.ok)
  else if p.c < 4 then .next { s with permits := tput s.permits key ((tget Permits.default s.permits key).move p.c) }
  else .next (if p.b < 2 then s else s.sendFlit p.a (p.b - 2) p.d)

/-- PERMIT_AUDIT of port `a` and virtual channel and direction `b`: a sum that is not TOTAL is LOST_PERMIT, and the port
retrains. -/
def execPermitAudit (s : State) : Result :=
  let p := s.inp
  let port := s.port p.a
  let idx := p.a * 2 + p.b % 2
  if !port.up || 16 ≤ p.a || 4 ≤ p.b || (tget Permits.default s.permits (permitKey p.a p.b)).total = 256 then .next s
  else
    .next ({ s with dev := { s.dev with lostPermits := tput s.dev.lostPermits idx (tget 0 s.dev.lostPermits idx + 1),
                                        events := s.dev.events ++ [2 ^ 33 + idx] } }.setPort p.a { port with retraining := true })

/-- LANE_FAILURE on port `a`. -/
def execLaneFailure (s : State) : Result := .next (if s.inp.a < 16 then s.loseLane s.inp.a else s)

/-- TOTAL is restored on a port: the flits of its replay buffer are in flight, and every other permit is held. -/
def State.restorePermits (s : State) (n : Nat) : State :=
  let out := fun (vc : Nat) =>
    let k := min 256 ((s.port n).replay.filter fun f => f.vc = vc).length
    (permitKey n (vc + 2), ({ held := 256 - k, inflight := k, occupied := 0, returning := 0 } : Permits))
  let rest := s.permits.filter fun e => e.1 / 4 != n
  { s with permits := tput (tput rest (out 0).1 (out 0).2) (out 1).1 (out 1).2 }

/-- PORT_RETRAIN_COMPLETE of port `a`: with `ok` it runs on four lanes and TOTAL is restored; else it goes down. -/
def execPortRetrainComplete (s : State) : Result :=
  let n := s.inp.a
  let p := s.port n
  if !p.up || !p.retraining then .next s
  else if !s.inp.ok then .next (s.portDown n)
  else .next ((s.restorePermits n).setPort n { p with lanes := 4, retraining := false, replaying := false })

/-! ### Collective chunks (R370, R373, R376) -/

/-- A packet of a chunk as a walker may send it (R367): whole 64-byte units of it. -/
def chunkOk (c : Chunk) : Bool :=
  within 64 65536 c.size && c.size % 64 = 0 && c.bytes != [] && c.bytes.length % 64 = 0 && c.off % 64 = 0 &&
    c.off + c.bytes.length ≤ c.size && c.dst < 2 ^ 48 && c.handle < 65536 && c.gen < 2 ^ 32 && c.op < 4 &&
    c.ty < 8 && c.rank < 65536 && c.bad.all (· < c.bytes.length)

/-- A packet in two at byte `n`, where that is inside it and a unit begins there, at both ends: they may arrive in any order (R341,
R373). -/
def splitPacket (c : Chunk) (n : Nat) : List Chunk :=
  if n = 0 || c.bytes.length ≤ n || n % 64 != 0 || (c.dst + c.off + n) % 64 != 0 then [c]
  else [{ c with bytes := c.bytes.take n, bad := c.bad.filter (· < n) },
        { c with off := c.off + n, bytes := c.bytes.drop n, bad := (c.bad.filter (n ≤ ·)).map (· - n) }]

/-- CHUNK_ARRIVAL: of the packet `chunk`, from a peer that has a route; else of the packet `a` that this device sends itself, or
with `b` = 1 what the port has left to do for handle `a`, or with `b` = 2 the packet `a` is split at its byte `c`. -/
def execChunkArrival (s : State) : Result :=
  let p := s.inp
  match p.chunk with
  | some c => .next (if c.dev = Config.deviceNumber || !s.routed c.dev || !chunkOk c then s else s.arrive c)
  | none =>
    if p.b = 1 then .next (s.portWork p.a)
    else match s.flying[p.a]? with
      | none => .next s
      | some c =>
        let s : State := { s with flying := s.flying.eraseIdx p.a }
        .next (if p.b = 2 then { s with flying := s.flying ++ splitPacket c p.c } else s.arrive c)

/-- The flit belongs to a transfer of a start. -/
def Flit.carries (f : Flit) (start n : Nat) : Bool := f.vc = 1 && f.start = start && f.f = n

/-- Every byte of a transfer has been sent, and the peer has acknowledged every flit of it. -/
def State.delivered (s : State) (start n : Nat) : Bool :=
  !(s.sent.any fun o => o.chunk.start = start && o.chunk.f = n && o.next < o.chunk.size) &&
    !(s.resend.any fun f => f.carries start n) && !(s.ports.any fun e => e.2.replay.any fun f => f.carries start n)

/-- TRANSFER_ACKNOWLEDGED of transfer `b` of start `a`, to a peer, once it is delivered; `ok` is false when it completes as a remote
error. -/
def execTransferAcknowledged (s : State) : Result :=
  let p := s.inp
  let settled := fun (s : State) => { s with sent := s.sent.filter fun o => !(o.chunk.start = p.a && o.chunk.f = p.b) }
  match s.colls.find? fun (c : CollStart) => c.id = p.a with
  | none => .next (settled s)
  | some c =>
    if !c.unacked.contains p.b || colDevice c.record c.ring p.b = Config.deviceNumber || (p.ok && !s.delivered p.a p.b) then .next s
    else .next (((settled s).acknowledge p.a p.b p.ok).portWork c.handle)

/-- CHUNK_RESEND of the refused packet `a`, 2 µs after its refusal (R376). -/
def execChunkResend (s : State) : Result :=
  match s.refused[s.inp.a]? with
  | none => .next s
  | some (t, c) => .next (if s.dev.ns < t + 2000 then s else { s with refused := s.refused.eraseIdx s.inp.a }.arrive c)

/-! ### Lost peers and new ones (R211, R386) -/

/-- PEER_LOST of device `a`: its ports report surprise down. -/
def execPeerLost (s : State) : Result :=
  let n := s.inp.a
  .next (if 4096 ≤ n || n = Config.deviceNumber || tget false s.peersLost n then s else s.losePeer n)

/-- BLADE_INSERTED of device `a` on the ports `nums`, in stage 6: a new party, for which no remote access is enabled. -/
def execBladeInserted (s : State) : Result :=
  let n := s.inp.a
  if 4096 ≤ n || n = Config.deviceNumber || !s.climbing 6 then .next s
  else
    let s : State := { s with peersLost := tdel s.peersLost n,
                              spaces := { s.spaces with remote := s.spaces.remote.filter fun e => e.1 % 4096 != n } }
    .next (s.trainPorts (s.inp.nums.map fun p => p % 16 * 4096 + n))

/-! ### What the outside reads and writes -/

/-- A read is answered; poison that it takes along is an UNCORRECTABLE error consumed (R403). -/
def State.answerRead (s : State) (place n : Nat) : State :=
  let bad := s.badBytes place n
  { s with reply := some (.data (s.bytes place n) bad),
           dev := if bad = [] then s.dev else { s.dev with uncorrectable := s.dev.uncorrectable + 1 } }

/-- The queue whose page an address translates to. -/
def State.queuePageAt (s : State) (asid a : Nat) : Option Nat :=
  match s.translate farTlb asid a with
  | some (leaf, _) =>
    let c := tget 0 s.spaces.notok (leaf.pa / 4096)
    if !leaf.host && c != 0 && c ≤ 4096 then some (c - 1) else none
  | none => none

/-- An atomic of the outside at a place: one that reads poison changes nothing, and its answer is marked. -/
def State.outAtomic (s : State) (place n aop op cmp : Nat) : State :=
  if s.poisoned place n then s.answerRead place n
  else
    let s := s.answerRead place n
    (s.rmwAt none place n aop op cmp).2.2

/-- REMOTE_ACCESS_REQUEST: `access` of a peer, its data poisoned if `flags` says so. Whatever fails at this device completes as a
remote error. -/
def execRemoteAccessRequest (s : State) : Result :=
  match s.inp.access with
  | none => .next s
  | some x =>
    let fail := fun (s : State) => (.next { s with reply := some .remoteError } : Result)
    let load := x.kind != 1
    let store := x.kind != 0
    let n := x.size
    if !s.dev.ready || x.dev = Config.deviceNumber || !s.routed x.dev then .next s
    else if !tget false s.spaces.remote (x.asid * 4096 + x.dev) || !within 1 16 n || x.va % n != 0 then fail s
    else
      let w := if store then s.widxOf x.asid x.va n else none
      match s.outsideSpot x.asid [peerId x.dev] 2 false x.va load store with
      | (.ok place _ _, s) =>
        if x.kind = 0 then .next (s.answerRead place n)
        else if x.kind = 1 then
          match w with
          | some q => fail (s.refuseWidx q)
          | none =>
            let s := s.putBytes place (bytesLE x.value n)
            .next (if s.inp.flags.getD 0 false then s.setPoison place n else s)
        else match w with
          | some q => if x.op != 0 then fail (s.refuseWidx q) else .next ((s.outAtomic place n x.op x.value x.cmp).notifyQueue q)
          | none => .next (s.outAtomic place n x.op x.value x.cmp)
      | (_, s) => fail (s.countRefusal w)

end Sys2Proof.Machine
end

