-- ==== Sys2Proof/Machine/HostLink.lean ====
section
/-! DEFINITION. The PCI Express link: the host window of BAR2 (R385), AtomicOps (R38, R384), containment and loss (R384, R386). -/

namespace Sys2Proof.Machine

/-- The host's traffic is contained (R384): what is on its way to it errs. -/
def State.containHost (s : State) : State := ({ s with hostContained := true } : State).failAccesses fun p => p.space = 5

/-- HOST_LINK_DOWN: the host is lost, and its traffic is contained; with `b` = 1 an uncorrectable error of the link that stays up,
which is contained alike, and by which no host is lost. -/
def execHostLinkDown (s : State) : Result :=
  if !s.hostUp then .next s
  else if s.inp.b = 1 then .next s.containHost
  else
    .next (({ s with hostUp := false }.containHost).orphan false (fun id => id = Config.hostId) fun _ _ _ => false)

/-- HOST_LINK_RETRAIN: the link has trained again, on `a` lanes at `b` GT/s, and with `ok` the Factor re-enables the host's
traffic. -/
def execHostLinkRetrain (s : State) : Result :=
  .next (if s.dev.ready && s.hostContained && s.inp.ok then { s.trainHost s.inp.a s.inp.b with hostContained := false } else s)

/-- A request at an offset of BAR2: the ASID of the window. -/
def State.hostWindow (s : State) (o : Nat) : Option Nat := if o < 2 ^ 40 then s.spaces.window else none

/-- A request gets here at all: the device is ready and its link carries traffic. -/
def State.hostHears (s : State) : Bool := s.dev.ready && s.hostReady

/-- A posted write that fails is dropped and counted, against the queue whose page it names, or as a dropped store. -/
def State.dropWrite (s : State) (asid o : Nat) : State :=
  match s.queuePageAt asid o with | some q => s.refuseWidx q | none => s.dropStore

/-- One part of a posted write, in one page. -/
def State.hostWritePart (s : State) (o : Nat) (bs : List Byte) (hurt : Bool) : State :=
  match s.hostWindow o with
  | none => s.dropStore
  | some asid =>
    match s.outsideSpot asid [Config.hostId] 1 false o false true with
    | (.ok place _ _, s) =>
      match s.widxAt place bs.length with
      | some q => s.refuseWidx q
      | none =>
        let s := s.putBytes place bs
        if hurt then s.setPoison place bs.length else s
    | (_, s) => s.dropWrite asid o

/-- The parts of a posted write, page by page. -/
def State.hostWrite (s : State) (o : Nat) (bs : List Byte) (hurt : Bool) : Nat → State
  | 0 => s
  | n + 1 =>
    if bs.isEmpty then s
    else
      let k := 4096 - o % 4096
      (s.hostWritePart o (bs.take k) hurt).hostWrite (o + k) (bs.drop k) hurt n

/-- HOST_POSTED_WRITE of `bytes` at BAR2 offset `a`, at most 512 of them; `flags` says that the link marks them poisoned. -/
def execHostPostedWrite (s : State) : Result :=
  .next (if s.hostHears then s.hostWrite s.inp.a (s.inp.bytes.take 512) (s.inp.flags.getD 0 false) 2 else s)

def State.replyWith (s : State) (c : Completion) : State := { s with reply := some c }

/-- The bytes of a read, page by page, each page checked: a failing page fails the read. -/
def State.hostReadParts (s : State) (asid o len : Nat) : Nat → Option (List Byte × List Nat × State)
  | 0 => some ([], [], s)
  | n + 1 =>
    if len = 0 then some ([], [], s)
    else
      let k := min len (4096 - o % 4096)
      match s.outsideSpot asid [Config.hostId] 1 false o true false with
      | (.ok place _ _, s) =>
        (s.hostReadParts asid (o + k) (len - k) n).map fun r =>
          (s.bytes place k ++ r.1, s.badBytes place k ++ r.2.1.map (· + k), r.2.2)
      | _ => none

/-- HOST_READ of `c` bytes at BAR2 offset `a`, at most 4,096. -/
def execHostRead (s : State) : Result :=
  let p := s.inp
  if !s.hostHears then .next s
  else match s.hostWindow p.a with
    | none => .next (s.replyWith .abort)
    | some asid =>
      if 2 ^ 40 < p.a + p.c then .next (s.replyWith .abort)
      else match s.hostReadParts asid p.a (min p.c 4096) 2 with
        | none => .next (s.replyWith .abort)
        | some (bs, bad, s) =>
          let s := s.replyWith (.data bs bad)
          .next (if bad = [] then s else { s with dev := { s.dev with uncorrectable := s.dev.uncorrectable + 1 } })

/-- HOST_ATOMICOP at BAR2 offset `a`, of `c` bytes: `b` is 0 for FetchAdd, 1 for Swap, 2 for CAS, `w0` the operand and `w1` the
compare value. A CAS of 128 bits is not supported. -/
def execHostAtomicop (s : State) : Result :=
  let p := s.inp
  let n := p.c
  let aop := if p.b = 0 then 0 else if p.b = 1 then 8 else 9
  if !s.hostHears then .next s
  else if n != 4 && n != 8 then .next (s.replyWith .unsupported)
  else match s.hostWindow p.a with
    | none => .next (s.replyWith .abort)
    | some asid =>
      let w := s.widxOf asid p.a n
      if p.a % n != 0 then .next (s.replyWith .abort)
      else match s.outsideSpot asid [Config.hostId] 1 false p.a true true with
        | (.ok place _ _, s) =>
          let go := fun (s : State) => s.outAtomic place n aop (p.w0.toNat % 2 ^ (8 * n)) (p.w1.toNat % 2 ^ (8 * n))
          match w with
          | none => .next (go s)
          | some q => .next (if p.b = 0 then (go s).notifyQueue q else (s.refuseWidx q).replyWith .abort)
        | (_, s) => .next ((s.countRefusal w).replyWith .abort)

/-! ### Trace and power (R412, R416) -/

/-- TRACE_DRAIN of cluster `a`: its first `c` records go to their rings. -/
def execTraceDrain (s : State) : Result := .next (s.drainTrace s.inp.a (min s.inp.c 2048))

/-- A cluster on which a core of a launch stands. -/
def State.busyCluster (s : State) (c : Nat) : Bool := s.launches.any fun e => e.2.clusters.contains c

/-- CLUSTER_POWER_GATE of cluster `a`, where no launch stands: `c` records of its trace buffer drain in the wait, the rest are
discarded and counted. -/
def execClusterPowerGate (s : State) : Result :=
  let c := s.inp.a
  if 48 ≤ c || s.busyCluster c then .next s
  else
    let s := s.drainTrace c (min s.inp.c 2048)
    let b := tget TraceBuf.default s.traceBufs c
    let s := s.purgeCores ((List.range 8).map (c * 8 + ·))
    .next { s with traceBufs := tput s.traceBufs c { b with recs := [], lost := min (b.lost + b.size) 0xFFFFFFFF },
                   dev := { s.dev with gated := tput s.dev.gated c true } }

end Sys2Proof.Machine
end

