-- ==== Sys2Proof/Machine/Dispatch.lean ====
section
/-! DEFINITION. One arm per constructor of Instr: its meaning. -/

namespace Sys2Proof.Machine

def exec (i : Instr) (s : State) : Host.Outcome State Fault Refusal :=
  match i with
  | .add f => Sys2Proof.Machine.execAdd f s
  | .sub f => Sys2Proof.Machine.execSub f s
  | .mul f => Sys2Proof.Machine.execMul f s
  | .mulh f => Sys2Proof.Machine.execMulh f s
  | .mulhn f => Sys2Proof.Machine.execMulhn f s
  | .div f => Sys2Proof.Machine.execDiv f s
  | .divn f => Sys2Proof.Machine.execDivn f s
  | .rem f => Sys2Proof.Machine.execRem f s
  | .remn f => Sys2Proof.Machine.execRemn f s
  | .andR f => Sys2Proof.Machine.execAndR f s
  | .orR f => Sys2Proof.Machine.execOrR f s
  | .xor f => Sys2Proof.Machine.execXor f s
  | .andn f => Sys2Proof.Machine.execAndn f s
  | .shl f => Sys2Proof.Machine.execShl f s
  | .shr f => Sys2Proof.Machine.execShr f s
  | .sra f => Sys2Proof.Machine.execSra f s
  | .rol f => Sys2Proof.Machine.execRol f s
  | .min f => Sys2Proof.Machine.execMin f s
  | .max f => Sys2Proof.Machine.execMax f s
  | .minn f => Sys2Proof.Machine.execMinn f s
  | .maxn f => Sys2Proof.Machine.execMaxn f s
  | .clz f => Sys2Proof.Machine.execClz f s
  | .ctz f => Sys2Proof.Machine.execCtz f s
  | .popc f => Sys2Proof.Machine.execPopc f s
  | .brev f => Sys2Proof.Machine.execBrev f s
  | .sext f => Sys2Proof.Machine.execSext f s
  | .zext f => Sys2Proof.Machine.execZext f s
  | .sel f => Sys2Proof.Machine.execSel f s
  | .abs f => Sys2Proof.Machine.execAbs f s
  | .neg f => Sys2Proof.Machine.execNeg f s
  | .addi f => Sys2Proof.Machine.execAddi f s
  | .muli f => Sys2Proof.Machine.execMuli f s
  | .andi f => Sys2Proof.Machine.execAndi f s
  | .ori f => Sys2Proof.Machine.execOri f s
  | .xori f => Sys2Proof.Machine.execXori f s
  | .shli f => Sys2Proof.Machine.execShli f s
  | .shri f => Sys2Proof.Machine.execShri f s
  | .srai f => Sys2Proof.Machine.execSrai f s
  | .movi f => Sys2Proof.Machine.execMovi f s
  | .movhi f => Sys2Proof.Machine.execMovhi f s
  | .cmpeq f => Sys2Proof.Machine.execCmpeq f s
  | .cmpne f => Sys2Proof.Machine.execCmpne f s
  | .cmplt f => Sys2Proof.Machine.execCmplt f s
  | .cmple f => Sys2Proof.Machine.execCmple f s
  | .cmpltn f => Sys2Proof.Machine.execCmpltn f s
  | .cmplen f => Sys2Proof.Machine.execCmplen f s
  | .cmpeqi f => Sys2Proof.Machine.execCmpeqi f s
  | .cmpnei f => Sys2Proof.Machine.execCmpnei f s
  | .cmplti f => Sys2Proof.Machine.execCmplti f s
  | .cmplei f => Sys2Proof.Machine.execCmplei f s
  | .cmpltni f => Sys2Proof.Machine.execCmpltni f s
  | .cmpleni f => Sys2Proof.Machine.execCmpleni f s
  | .fadd f => Sys2Proof.Machine.execFadd f s
  | .fsub f => Sys2Proof.Machine.execFsub f s
  | .fmul f => Sys2Proof.Machine.execFmul f s
  | .ffma f => Sys2Proof.Machine.execFfma f s
  | .fdiv f => Sys2Proof.Machine.execFdiv f s
  | .fsqrt f => Sys2Proof.Machine.execFsqrt f s
  | .fmin f => Sys2Proof.Machine.execFmin f s
  | .fmax f => Sys2Proof.Machine.execFmax f s
  | .fcvti f => Sys2Proof.Machine.execFcvti f s
  | .fcvtf f => Sys2Proof.Machine.execFcvtf f s
  | .fcmplt f => Sys2Proof.Machine.execFcmplt f s
  | .fcmpeq f => Sys2Proof.Machine.execFcmpeq f s
  | .br f => Sys2Proof.Machine.execBr f s
  | .call f => Sys2Proof.Machine.execCall f s
  | .jr f => Sys2Proof.Machine.execJr f s
  | .jlr f => Sys2Proof.Machine.execJlr f s
  | .loop f => Sys2Proof.Machine.execLoop f s
  | .breakl f => Sys2Proof.Machine.execBreakl f s
  | .pset f => Sys2Proof.Machine.execPset f s
  | .pclr f => Sys2Proof.Machine.execPclr f s
  | .pand f => Sys2Proof.Machine.execPand f s
  | .por f => Sys2Proof.Machine.execPor f s
  | .pxor f => Sys2Proof.Machine.execPxor f s
  | .pnot f => Sys2Proof.Machine.execPnot f s
  | .halt f => Sys2Proof.Machine.execHalt f s
  | .yield f => Sys2Proof.Machine.execYield f s
  | .nop f => Sys2Proof.Machine.execNop f s
  | .estim f => Sys2Proof.Machine.execEstim f s
  | .sysr f => Sys2Proof.Machine.execSysr f s
  | .sysw f => Sys2Proof.Machine.execSysw f s
  | .twait f => Sys2Proof.Machine.execTwait f s
  | .tskip f => Sys2Proof.Machine.execTskip f s
  | .tsig f => Sys2Proof.Machine.execTsig f s
  | .tstat f => Sys2Proof.Machine.execTstat f s
  | .tdone f => Sys2Proof.Machine.execTdone f s
  | .tquota f => Sys2Proof.Machine.execTquota f s
  | .treset f => Sys2Proof.Machine.execTreset f s
  | .tget f => Sys2Proof.Machine.execTget f s
  | .tins f => Sys2Proof.Machine.execTins f s
  | .kset f => Sys2Proof.Machine.execKset f s
  | .kadd f => Sys2Proof.Machine.execKadd f s
  | .kmovx f => Sys2Proof.Machine.execKmovx f s
  | .fqpush f => Sys2Proof.Machine.execFqpush f s
  | .fqpushi f => Sys2Proof.Machine.execFqpushi f s
  | .fqclr f => Sys2Proof.Machine.execFqclr f s
  | .shapeset f => Sys2Proof.Machine.execShapeset f s
  | .shapei f => Sys2Proof.Machine.execShapei f s
  | .kvaddr f => Sys2Proof.Machine.execKvaddr f s
  | .arnset f => Sys2Proof.Machine.execArnset f s
  | .pfxfind f => Sys2Proof.Machine.execPfxfind f s
  | .pfxpin f => Sys2Proof.Machine.execPfxpin f s
  | .pfxunpin f => Sys2Proof.Machine.execPfxunpin f s
  | .pfxins f => Sys2Proof.Machine.execPfxins f s
  | .bhash f => Sys2Proof.Machine.execBhash f s
  | .claim f => Sys2Proof.Machine.execClaim f s
  | .fence f => Sys2Proof.Machine.execFence f s
  | .barArrive f => Sys2Proof.Machine.execBarArrive f s
  | .barWait f => Sys2Proof.Machine.execBarWait f s
  | .barSync f => Sys2Proof.Machine.execBarSync f s
  | .barLeave f => Sys2Proof.Machine.execBarLeave f s
  | .amh f => Sys2Proof.Machine.execAmh f s
  | .lds f => Sys2Proof.Machine.execLds f s
  | .sts f => Sys2Proof.Machine.execSts f s
  | .ldc f => Sys2Proof.Machine.execLdc f s
  | .stc f => Sys2Proof.Machine.execStc f s
  | .ldd f => Sys2Proof.Machine.execLdd f s
  | .std f => Sys2Proof.Machine.execStd f s
  | .ldm f => Sys2Proof.Machine.execLdm f s
  | .stm f => Sys2Proof.Machine.execStm f s
  | .ldx f => Sys2Proof.Machine.execLdx f s
  | .stx f => Sys2Proof.Machine.execStx f s
  | .ldh f => Sys2Proof.Machine.execLdh f s
  | .sth f => Sys2Proof.Machine.execSth f s
  | .amc f => Sys2Proof.Machine.execAmc f s
  | .amd f => Sys2Proof.Machine.execAmd f s
  | .amm f => Sys2Proof.Machine.execAmm f s
  | .amx f => Sys2Proof.Machine.execAmx f s
  | .olend f => Sys2Proof.Machine.execOlend f s
  | .ogive f => Sys2Proof.Machine.execOgive f s
  | .ortrn f => Sys2Proof.Machine.execOrtrn f s
  | .osplit f => Sys2Proof.Machine.execOsplit f s
  | .ojoin f => Sys2Proof.Machine.execOjoin f s
  | .oshare f => Sys2Proof.Machine.execOshare f s
  | .odrop f => Sys2Proof.Machine.execOdrop f s
  | .oquery f => Sys2Proof.Machine.execOquery f s
  | .oreclaim f => Sys2Proof.Machine.execOreclaim f s
  | .trap f => Sys2Proof.Machine.execTrap f s
  | .tret f => Sys2Proof.Machine.execTret f s
  | .dbgbrk f => Sys2Proof.Machine.execDbgbrk f s
  | .trcmark f => Sys2Proof.Machine.execTrcmark f s
  | .cntsave f => Sys2Proof.Machine.execCntsave f s
  | .cntload f => Sys2Proof.Machine.execCntload f s
  | .tlbinv f => Sys2Proof.Machine.execTlbinv f s
  | .vadd f => Sys2Proof.Machine.execVadd f s
  | .vsub f => Sys2Proof.Machine.execVsub f s
  | .vmul f => Sys2Proof.Machine.execVmul f s
  | .vfma f => Sys2Proof.Machine.execVfma f s
  | .vfms f => Sys2Proof.Machine.execVfms f s
  | .vmin f => Sys2Proof.Machine.execVmin f s
  | .vmax f => Sys2Proof.Machine.execVmax f s
  | .vabs f => Sys2Proof.Machine.execVabs f s
  | .vneg f => Sys2Proof.Machine.execVneg f s
  | .vscale f => Sys2Proof.Machine.execVscale f s
  | .vaddx f => Sys2Proof.Machine.execVaddx f s
  | .vand f => Sys2Proof.Machine.execVand f s
  | .vor f => Sys2Proof.Machine.execVor f s
  | .vxor f => Sys2Proof.Machine.execVxor f s
  | .vnot f => Sys2Proof.Machine.execVnot f s
  | .vshl f => Sys2Proof.Machine.execVshl f s
  | .vshr f => Sys2Proof.Machine.execVshr f s
  | .vsra f => Sys2Proof.Machine.execVsra f s
  | .vcmpeq f => Sys2Proof.Machine.execVcmpeq f s
  | .vcmplt f => Sys2Proof.Machine.execVcmplt f s
  | .vcmple f => Sys2Proof.Machine.execVcmple f s
  | .vsel f => Sys2Proof.Machine.execVsel f s
  | .vclamp f => Sys2Proof.Machine.execVclamp f s
  | .vcvt f => Sys2Proof.Machine.execVcvt f s
  | .vquant f => Sys2Proof.Machine.execVquant f s
  | .vdeq f => Sys2Proof.Machine.execVdeq f s
  | .vrcp f => Sys2Proof.Machine.execVrcp f s
  | .vrsqrt f => Sys2Proof.Machine.execVrsqrt f s
  | .vsqrt f => Sys2Proof.Machine.execVsqrt f s
  | .vexp2 f => Sys2Proof.Machine.execVexp2 f s
  | .vexp f => Sys2Proof.Machine.execVexp f s
  | .vlog2 f => Sys2Proof.Machine.execVlog2 f s
  | .vlog f => Sys2Proof.Machine.execVlog f s
  | .vsin f => Sys2Proof.Machine.execVsin f s
  | .vcos f => Sys2Proof.Machine.execVcos f s
  | .vtanh f => Sys2Proof.Machine.execVtanh f s
  | .vsigm f => Sys2Proof.Machine.execVsigm f s
  | .verf f => Sys2Proof.Machine.execVerf f s
  | .vmov f => Sys2Proof.Machine.execVmov f s
  | .vfill f => Sys2Proof.Machine.execVfill f s
  | .viota f => Sys2Proof.Machine.execViota f s
  | .vtrans f => Sys2Proof.Machine.execVtrans f s
  | .vshuf f => Sys2Proof.Machine.execVshuf f s
  | .vbcrow f => Sys2Proof.Machine.execVbcrow f s
  | .vbccol f => Sys2Proof.Machine.execVbccol f s
  | .mma f => Sys2Proof.Machine.execMma f s
  | .mmach f => Sys2Proof.Machine.execMmach f s
  | .mmai f => Sys2Proof.Machine.execMmai f s
  | .mdrain f => Sys2Proof.Machine.execMdrain f s
  | .mzero f => Sys2Proof.Machine.execMzero f s
  | .mldacc f => Sys2Proof.Machine.execMldacc f s
  | .cbload f => Sys2Proof.Machine.execCbload f s
  | .tload f => Sys2Proof.Machine.execTload f s
  | .tstore f => Sys2Proof.Machine.execTstore f s
  | .bcopy f => Sys2Proof.Machine.execBcopy f s
  | .cxfer f => Sys2Proof.Machine.execCxfer f s
  | .wmwait f => Sys2Proof.Machine.execWmwait f s
  | .sinit f => Sys2Proof.Machine.execSinit f s
  | .qadd f => Sys2Proof.Machine.execQadd f s
  | .qmerge f => Sys2Proof.Machine.execQmerge f s
  | .qquant f => Sys2Proof.Machine.execQquant f s
  | .qrank f => Sys2Proof.Machine.execQrank f s
  | .hadd f => Sys2Proof.Machine.execHadd f s
  | .hmerge f => Sys2Proof.Machine.execHmerge f s
  | .htop f => Sys2Proof.Machine.execHtop f s
  | .dadd f => Sys2Proof.Machine.execDadd f s
  | .dmerge f => Sys2Proof.Machine.execDmerge f s
  | .dcest f => Sys2Proof.Machine.execDcest f s
  | .msum f => Sys2Proof.Machine.execMsum f s
  | .msmerge f => Sys2Proof.Machine.execMsmerge f s
  | .msrow f => Sys2Proof.Machine.execMsrow f s
  | .lserow f => Sys2Proof.Machine.execLserow f s
  | .lsemerge f => Sys2Proof.Machine.execLsemerge f s
  | .sread f => Sys2Proof.Machine.execSread f s
  | .coll f => Sys2Proof.Machine.execColl f s
  | .collstop f => Sys2Proof.Machine.execCollstop f s
  | .railsGood => Sys2Proof.Machine.execRailsGood s
  | .railsLost => Sys2Proof.Machine.execRailsLost s
  | .firmwareVerify => Sys2Proof.Machine.execFirmwareVerify s
  | .selfCalibration => Sys2Proof.Machine.execSelfCalibration s
  | .memoryInitialisation => Sys2Proof.Machine.execMemoryInitialisation s
  | .applyConfiguration => Sys2Proof.Machine.execApplyConfiguration s
  | .linkTraining => Sys2Proof.Machine.execLinkTraining s
  | .securityAlarm => Sys2Proof.Machine.execSecurityAlarm s
  | .supplySag => Sys2Proof.Machine.execSupplySag s
  | .supplyRecover => Sys2Proof.Machine.execSupplyRecover s
  | .sagStretchEnd => Sys2Proof.Machine.execSagStretchEnd s
  | .registerWrite => Sys2Proof.Machine.execRegisterWrite s
  | .mailboxAnswer => Sys2Proof.Machine.execMailboxAnswer s
  | .unknownCommand => Sys2Proof.Machine.execUnknownCommand s
  | .attest => Sys2Proof.Machine.execAttest s
  | .telem => Sys2Proof.Machine.execTelem s
  | .qreg => Sys2Proof.Machine.execQreg s
  | .qunreg => Sys2Proof.Machine.execQunreg s
  | .qresume => Sys2Proof.Machine.execQresume s
  | .qskip => Sys2Proof.Machine.execQskip s
  | .qsetprio => Sys2Proof.Machine.execQsetprio s
  | .fresume => Sys2Proof.Machine.execFresume s
  | .lkill => Sys2Proof.Machine.execLkill s
  | .pgdone => Sys2Proof.Machine.execPgdone s
  | .trcset => Sys2Proof.Machine.execTrcset s
  | .brkset => Sys2Proof.Machine.execBrkset s
  | .asreg => Sys2Proof.Machine.execAsreg s
  | .asunreg => Sys2Proof.Machine.execAsunreg s
  | .asinv => Sys2Proof.Machine.execAsinv s
  | .rmten => Sys2Proof.Machine.execRmten s
  | .fgrant => Sys2Proof.Machine.execFgrant s
  | .freclaim => Sys2Proof.Machine.execFreclaim s
  | .hwin => Sys2Proof.Machine.execHwin s
  | .queueExamine => Sys2Proof.Machine.execQueueExamine s
  | .headerPoll => Sys2Proof.Machine.execHeaderPoll s
  | .stalledSlot => Sys2Proof.Machine.execStalledSlot s
  | .packetNop => Sys2Proof.Machine.execPacketNop s
  | .packetLaunch => Sys2Proof.Machine.execPacketLaunch s
  | .packetCopy => Sys2Proof.Machine.execPacketCopy s
  | .copyComplete => Sys2Proof.Machine.execCopyComplete s
  | .packetColl => Sys2Proof.Machine.execPacketColl s
  | .packetSignal => Sys2Proof.Machine.execPacketSignal s
  | .signalComplete => Sys2Proof.Machine.execSignalComplete s
  | .selection => Sys2Proof.Machine.execSelection s
  | .placement => Sys2Proof.Machine.execPlacement s
  | .newcomerReevaluate => Sys2Proof.Machine.execNewcomerReevaluate s
  | .checkpoint => Sys2Proof.Machine.execCheckpoint s
  | .checkpointComplete => Sys2Proof.Machine.execCheckpointComplete s
  | .restore => Sys2Proof.Machine.execRestore s
  | .kill => Sys2Proof.Machine.execKill s
  | .rollbackBoundary => Sys2Proof.Machine.execRollbackBoundary s
  | .rollback => Sys2Proof.Machine.execRollback s
  | .retire => Sys2Proof.Machine.execRetire s
  | .rettoExpiry => Sys2Proof.Machine.execRettoExpiry s
  | .queueAppend => Sys2Proof.Machine.execQueueAppend s
  | .engineEntryComplete => Sys2Proof.Machine.execEngineEntryComplete s
  | .waitTimeout => Sys2Proof.Machine.execWaitTimeout s
  | .loadDataArrives => Sys2Proof.Machine.execLoadDataArrives s
  | .remoteErrorReturn => Sys2Proof.Machine.execRemoteErrorReturn s
  | .faultRecordWrite => Sys2Proof.Machine.execFaultRecordWrite s
  | .pageServiceTimeout => Sys2Proof.Machine.execPageServiceTimeout s
  | .rearguardCheck => Sys2Proof.Machine.execRearguardCheck s
  | .uncorrectableError => Sys2Proof.Machine.execUncorrectableError s
  | .coreLost => Sys2Proof.Machine.execCoreLost s
  | .barrierRelease => Sys2Proof.Machine.execBarrierRelease s
  | .chunkArrival => Sys2Proof.Machine.execChunkArrival s
  | .transferAcknowledged => Sys2Proof.Machine.execTransferAcknowledged s
  | .chunkResend => Sys2Proof.Machine.execChunkResend s
  | .flitReceive => Sys2Proof.Machine.execFlitReceive s
  | .permitAudit => Sys2Proof.Machine.execPermitAudit s
  | .laneFailure => Sys2Proof.Machine.execLaneFailure s
  | .peerLost => Sys2Proof.Machine.execPeerLost s
  | .hostLinkDown => Sys2Proof.Machine.execHostLinkDown s
  | .hostPostedWrite => Sys2Proof.Machine.execHostPostedWrite s
  | .hostRead => Sys2Proof.Machine.execHostRead s
  | .hostAtomicop => Sys2Proof.Machine.execHostAtomicop s
  | .remoteAccessRequest => Sys2Proof.Machine.execRemoteAccessRequest s
  | .correctedError => Sys2Proof.Machine.execCorrectedError s
  | .bucketLeak => Sys2Proof.Machine.execBucketLeak s
  | .refreshDue => Sys2Proof.Machine.execRefreshDue s
  | .clusterPowerGate => Sys2Proof.Machine.execClusterPowerGate s
  | .traceDrain => Sys2Proof.Machine.execTraceDrain s
  | .hostLinkRetrain => Sys2Proof.Machine.execHostLinkRetrain s
  | .bladeInserted => Sys2Proof.Machine.execBladeInserted s
  | .portRetrainComplete => Sys2Proof.Machine.execPortRetrainComplete s

end Sys2Proof.Machine
end

