-- ==== Sys2Proof/Machine/Turns.lean ====
section
/-! DEFINITION. What each kind of turn does (log entry 5): a stream issues the instruction at its PC (R67, R68, R79, R146), an engine
starts the head of a queue (R114), each in its round (R65, R234) and behind the Rearguard (R118), a device step happens, time passes, a cache or a TLB lets something go (R189, R193), the
outside writes its own memory. Also the order of the device's own turns where the tape gives none, and the placing of an
instruction where the next step fetches it. -/

namespace Sys2Proof.Machine

/-! ### Arbitration (R65, R234) -/

/-- The slot that a stream runs in. -/
def State.slotOf (s : State) (k : Nat) : Nat := (s.launchOf (k / 4096)).slot (k % 4096)

/-- Key of an arbiter of stream `k`'s core: 0 its sequencer, an engine's number, 3 the Porter's walker, 8 to 11 its channels. -/
def State.arbiter (s : State) (k n : Nat) : Nat := s.physOf k * 16 + n

/-- How many slots come before stream `k`'s in the round of an arbiter. -/
def State.turnsAhead (s : State) (k n : Nat) : Nat := (s.slotOf k + 8 - tget 0 s.served (s.arbiter k n)) % 8

/-- No stream of the core that is ready comes before stream `k` in the round (log entry 5). -/
def State.firstAmong (s : State) (k n : Nat) (ready : Nat → Bool) : Bool :=
  (s.streamsOn (s.physOf k)).all fun j => j = k || s.turnsAhead k n ≤ s.turnsAhead j n || !ready j

/-- The arbiter serves stream `k`: its slot is the last of the round now. -/
def State.serve (s : State) (k n : Nat) : State := { s with served := tset 0 s.served (s.arbiter k n) (s.slotOf k + 1) }

/-- The arbiter of the head of a queue: its engine, or in the Porter its channel. -/
def Entry.arbiter (e : Entry) (unit : Nat) : Nat := if unit = 3 && e.onChannel then 8 + e.channel else unit

/-- The head of stream `k`'s queue of an engine is ready, under an arbiter. -/
def State.headReady (s : State) (unit n k : Nat) : Bool :=
  let t := s.stream k
  let q := t.queue unit
  match q.entries with
  | [] => false
  | e :: _ =>
    unit != 0 && unit ≤ 4 && e.arbiter unit = n && s.runs k && !t.stopped && q.paging.isNone &&
      (match q.wait with | some w => s.waitOver k unit w || s.mayPend k unit | none => true) &&
      e.names.all (fun key => !s.didNow key 1) &&
      (unit != 3 || (!s.entryHeld k e && s.channelFree k e))

/-- The stream may issue now, or try a write again that becomes pending. -/
def State.mayIssue (s : State) (k : Nat) : Bool := (s.ready k && s.firstAmong k 0 s.ready) || (s.runs k && s.mayPend k 0)

/-! ### Fetch and issue (R67, R68, R79) -/

/-- What the fetch and the decode at a PC give. -/
inductive FetchedInstr where
  | instr (i : Instr)
  | trap (c : Cause)
  | page (w : PageWait)
  deriving DecidableEq, Repr

/-- The checks of R68, then the decode (R79, 1 to 6). -/
def State.fetchInstr (s : State) : FetchedInstr × State :=
  let pc := s.st.pc.toNat
  match s.fetchWord (s.physOf s.cur) s.launchNo pc false with
  | (.cause c, s) => (.trap c, s)
  | (.page w, s) => (.page w, s)
  | (.word w0, s) =>
    if isLong w0 then
      match s.fetchWord (s.physOf s.cur) s.launchNo (pc + 8) true with
      | (.cause c, s) => (.trap c, s)
      | (.page w, s) => (.page w, s)
      | (.word w1, s) => match decode w0 w1 with
        | .ok i => (.instr i, s)
        | .error sub => (.trap (illegal sub w0 w1), s)
    else match decode w0 0 with
      | .ok i => (.instr i, s)
      | .error sub => (.trap (illegal sub w0 0), s)

/-- Stream `k` acts, with its fences settled. -/
def State.acting (s : State) (k : Nat) (a : Actor) (late : Bool) : State :=
  ({ s with cur := k, actor := a, late := late }).settleFences k

/-- A stream that issues has done with its own YIELD (R146). -/
def State.endYield (s : State) (k : Nat) : State := s.setStream k { s.stream k with yielded := [], yieldLeft := 0 }

/-- The stream has issued: no yielded stream waits for it (R146). -/
def State.noteIssue (s : State) (k : Nat) : State :=
  { s with streams := s.streams.map fun e =>
      if e.2.yielded.contains k then (e.1, { e.2 with yielded := e.2.yielded.erase k }) else e }

/-- An instruction that may leave the PC as it was though it has issued. -/
def jumps : Instr → Bool
  | .br _ | .call _ | .jr _ | .jlr _ | .loop _ | .breakl _ => true
  | _ => false

/-- The instruction at a stream's PC has issued: it was neither held up nor stopped by a trap at it. -/
def hasIssued (i : Instr) (before after : Stream) : Bool := after.pc != before.pc || (jumps i && !after.stopped)

/-- The Rearguard runs again, in its copy of stream `k`'s context, the instruction that the stream has issued (R118): the context
after it, from the state before. A copy that has left its stream's path runs the instruction at its own PC. -/
def State.shadowRun (s : State) (k : Nat) (i : Instr) (sh own : Stream) : Stream :=
  let t := s.stream k
  let s := s.setStream k (t.overlay sh)
  match (if sh.pc = t.pc then some i else s.instrAt k) with
  | none => sh
  | some j => match handed j with
    | some rs => sh.takeHanded t own j rs
    | none => match exec j s with
      | .next s' => s'.stream k
      | _ => sh

/-- TQUOTA or TRESET has acted on a tile in this cycle (R153). -/
def State.noteSet (s : State) (k : Nat) (i : Instr) : State :=
  match i with
  | .tquota f | .treset f =>
    let key := s.tileKey k (topTile f.top)
    { s with orders := tput s.orders (key * 2 + 1) (s.aclkAt key + 1) }
  | _ => s

/-- What the issue of an instruction brings besides its own effect: YIELDs of other streams, the Rearguard's copy, its place in a
tile's order. -/
def State.afterIssue (s : State) (k : Nat) (i : Instr) (s' : State) : State :=
  if hasIssued i (s.stream k) (s'.stream k) then
    let t := (s'.noteIssue k).noteSet k i
    let t := if (t.stream k).passed = [] then t else t.setStream k { t.stream k with passed := [] }
    match tfind s.shadow k, tfind t.shadow k with
    | some sh, some _ => { t with shadow := tput t.shadow k (s.shadowRun k i sh (s'.stream k)) }
    | _, _ => t
  else s'

/-- Stream `k` issues instruction `i` through `run`, unless the Rearguard stops it. -/
def issueInstr (k : Nat) (i : Instr) (run : Instr → State → Result) (s : State) : Result :=
  match s.rearguard k 0 with
  | some s => .next s
  | none => match run i (s.endYield k) with
    | .next s' => .next (s.afterIssue k i s')
    | r => r

/-- The acting stream issues, through `run`, if it is its turn. -/
def issueWith (k : Nat) (s : State) (run : Instr → State → Result) : Result :=
  if !s.mayIssue k then .next s
  else match (s.serve k 0).fetchInstr with
    | (.trap c, s) => s.trap c
    | (.page w, s) => s.waitPage w
    | (.instr i, s) => issueInstr k i run s

/-- A turn of stream `k`'s sequencer. -/
def issueTurn (k : Nat) (late : Bool) (s : State) : Result := issueWith k (s.acting k .sequencer late) exec

/-- The head of a queue has started: it has left the Rearguard's copy of the queue too. -/
def State.afterStart (s : State) (k unit : Nat) (s' : State) : State :=
  if ((s'.stream k).queue unit).entries.length < ((s.stream k).queue unit).entries.length then
    s'.shadowPop k unit ((s.stream k).fq.length - (s'.stream k).fq.length)
  else s'

/-- A turn of an engine, at the head of stream `k`'s queue, if it is its turn and the Rearguard's copy agrees. -/
def startTurn (k unit : Nat) (s : State) : Result :=
  let s := s.acting k (.engine unit) false
  match (s.st.queue unit).entries with
  | [] => .next s
  | e :: _ =>
    let n := e.arbiter unit
    if !s.headReady unit n k || !s.firstAmong k n (s.headReady unit n) then .next s
    else
      let s := s.serve k n
      match s.rearguard k unit with
      | some s => .next s
      | none => match decode e.w0 e.w1 with
        | .ok i => match exec i s with
          | .next s' => .next (s.afterStart k unit s')
          | r => r
        | .error _ => .next s

/-! ### Device steps -/

/-- Steps of sequencers and engines, the walkers among them: a halted part makes none (R18). -/
def haltStops : Instr → Bool
  | .queueAppend => true
  | .engineEntryComplete => true
  | .waitTimeout => true
  | .copyComplete => true
  | .transferAcknowledged => true
  | _ => false

/-- A device step with its particulars; an instruction word is none. The fences that wait for an engine entry complete with it
(R347). -/
def eventTurn (i : Instr) (p : Input) (s : State) : Result :=
  let s := { s with inp := p, late := false }
  if i.parts.isSome || (s.dev.halted && haltStops i) then .next s
  else match i with
    | .queueAppend => issueWith p.a (s.acting p.a .sequencer false) fun _ s => exec .queueAppend s
    | .engineEntryComplete => match exec .engineEntryComplete s with
      | .next s' => .next (if (s'.stream p.a).fences = [] then s' else s'.settleFences p.a)
      | r => r
    | i => exec i s

/-! ### Time -/

/-- Nanoseconds pass. -/
def State.elapse (s : State) (n : Nat) : State :=
  if s.dev.railsGood then { s with dev := { s.dev with ns := s.dev.ns + n } } else s

/-- ACLK cycles of a cluster pass, at two SCLK each: a stretch runs down unless the supply sags, and yields run out. -/
def State.cyclesPass (s : State) (c n : Nat) : State :=
  if !s.poweredCluster c then s
  else
    let left := tget 0 s.dev.stretch c
    let left := if left = 0 || tget false s.dev.sagging c then left else max 1 (left - n)
    { s with
      dev := { s.dev with acyc := tset 0 s.dev.acyc c (tget 0 s.dev.acyc c + n), stretch := tset 0 s.dev.stretch c left },
      streams := s.streams.map fun e =>
        if s.clusterOf e.1 = c && e.2.yieldLeft != 0 then
          (e.1, { e.2 with yieldLeft := e.2.yieldLeft - 2 * n, yielded := if e.2.yieldLeft ≤ 2 * n then [] else e.2.yielded })
        else e }

/-! ### Turns -/

/-- What the outside may write by itself: host memory, and the peers'. -/
def ownMemory (place n : Nat) : Bool := Place.base .host ≤ place && place + n ≤ Place.base .tile

/-- The registers in which accesses of a stream, or halves of pairs, have landed since. -/
def landedRegs (before after : Stream) : List (BitVec 6) :=
  before.accesses.flatMap fun e => match tfind after.accesses e.1 with
    | none => e.2.regs
    | some p => e.2.regs.filter fun x => !p.regs.contains x

/-- The stream that issues in a turn. -/
def Turn.issuer : Turn → Option Nat
  | .issue k _ => some k
  | .event .queueAppend p => some p.a
  | _ => none

/-- The Rearguard's copies are handed what has landed in a turn from state `s` on, and the flags that a stream got but by its own
issue (R118). -/
def State.handLanded (s s' : State) (issuer : Option Nat) : State :=
  if s'.shadow = [] then s'
  else
    { s' with shadow := s'.shadow.map fun e =>
        let t := s.stream e.1
        let own := s'.stream e.1
        let sh := (landedRegs t own).foldl (fun t x => t.xw x (own.xr x)) e.2
        (e.1, if issuer = some e.1 then sh else { sh with ssr := sh.ssr ||| t.gotFlags own }) }

/-- A write of a tile has started, from one state of the tile to the next. -/
def Tile.started (before after : Tile) : Bool := !before.wip && (after.wip || after.count != before.count)

/-- The starts of writes in a turn from state `s` on are noted with their cycle (R153). -/
def State.noteStarts (s s' : State) : State :=
  if s'.tiles = s.tiles then s'
  else { s' with orders := s'.tiles.foldl (fun o e =>
      if (s.tile e.1).started e.2 then tput o (e.1 * 2) (s'.aclkAt e.1 + 1) else o) s'.orders }

/-- A stream that a YIELD counts and that is not ready any more leaves its set (R146). -/
def State.settleYields (s : State) : State :=
  if s.streams.all fun e => e.2.yielded = [] then s
  else { s with streams := s.streams.map fun e => (e.1, { e.2 with yielded := e.2.yielded.filter s.ready }) }

/-- The Rearguard's copy of stream `k` comes to hold `v` in X register `x`. -/
def State.upset (s : State) (k : Nat) (x : BitVec 6) (v : Word) : State :=
  { s with shadow := tput s.shadow k (((tfind s.shadow k).getD (s.stream k)).xw x v) }

/-- What a turn does by itself. -/
def turnBody (t : Turn) (s : State) : Result :=
  match t with
  | .issue k late => if s.hasStream k then issueTurn k late s else .fault .unschedulable
  | .start k unit => if s.hasStream k then startTurn k unit s else .fault .unschedulable
  | .event i p => eventTurn i p s
  | .elapse n => .next (s.elapse n)
  | .cycles c n => .next (s.cyclesPass c n)
  | .evict key => .next ((s.writeBack key).dropSector key)
  | .untranslate key => .next { s with spaces := { s.spaces with tlb := tdel s.spaces.tlb key } }
  | .combine key => .next (s.combine key)
  | .conflict key n => .next { s with conflicts := tset 0 s.conflicts key (min (tget 0 s.conflicts key + n) 0xFFFF) }
  | .outside place bytes => .next (if ownMemory place bytes.length then s.putBytes place bytes else s)
  | .upset k x v => .next (if s.hasStream k then s.upset k x v else s)

/-- What follows a turn that led from state `s` to `s'`: the Rearguard's copies, the order of the tiles, the newcomers and the YIELDs
take note of it. -/
def State.afterTurn (s s' : State) (issuer : Option Nat) : State :=
  (s.settleNewcomers (s.noteStarts (s.handLanded s' issuer))).settleYields

/-- One turn. -/
def runTurn (t : Turn) (s : State) : Result :=
  match turnBody t s with
  | .next s' => .next (s.afterTurn s' t.issuer)
  | r => r

/-! ### The order of turns -/

/-- The climb's stages. -/
def climbTurns : List Turn :=
  [.event .firmwareVerify {}, .event .selfCalibration {}, .event .memoryInitialisation {}, .event .applyConfiguration {},
   .event .linkTraining {}]

/-- The Factor's commands. -/
def commandTurns : List Turn :=
  [.event .mailboxAnswer {}, .event .unknownCommand {}, .event .attest {}, .event .telem {}, .event .qreg {}, .event .qunreg {},
   .event .qresume {}, .event .qskip {}, .event .qsetprio {}, .event .fresume {}, .event .lkill {}, .event .pgdone {},
   .event .trcset {}, .event .brkset {}, .event .asreg {}, .event .asunreg {}, .event .asinv {}, .event .rmten {},
   .event .fgrant {}, .event .freclaim {}, .event .hwin {}]

def queueTurns (q : Nat) : List Turn :=
  [.event .queueExamine { a := q }, .event .headerPoll { a := q }, .event .stalledSlot { a := q }, .event .packetNop { a := q },
   .event .packetLaunch { a := q }, .event .packetCopy { a := q }, .event .packetColl { a := q }, .event .packetSignal { a := q },
   .event .signalComplete { a := q }]

def newcomerTurns (l : Nat) : List Turn :=
  [.event .placement { a := l }, .event .restore { a := l }, .event .newcomerReevaluate { a := l }]

def State.streamTurns (s : State) (k : Nat) : List Turn :=
  let t := s.stream k
  [.issue k false, .start k 1, .start k 2, .start k 3, .start k 4] ++
    ((List.range t.running.length).map fun j => .event .engineEntryComplete { a := k, b := j }) ++
    (t.accesses.map fun e => .event .loadDataArrives { a := k, b := e.1 }) ++
    ((List.range 5).map fun u => .event .waitTimeout { a := k, b := u })

def State.launchTurns (s : State) (l : Nat) (v : Launch) : List Turn :=
  [.event .checkpoint { a := l }, .event .checkpointComplete { a := l }, .event .kill { a := l },
   .event .rollbackBoundary { a := l }, .event .rollback { a := l }, .event .retire { a := l }, .event .rettoExpiry { a := l },
   .event .faultRecordWrite { a := l }] ++ ((List.range v.m.nbar).map fun b => .event .barrierRelease { a := l, b := b }) ++
    (v.clusters.map fun c => .cycles c 1) ++ (List.range v.m.streams).flatMap fun i => s.streamTurns (l * 4096 + i)

/-- Every turn that the device can take by itself now, and the passing of time. -/
def State.ownTurns (s : State) : List Turn :=
  (if s.dev.ready && (s.hostUp || s.hostContained) then [] else climbTurns) ++ (if s.dev.busy then commandTurns else []) ++
    s.queues.flatMap (fun e => queueTurns e.1) ++ s.copies.map (fun e => Turn.event .copyComplete { a := e.1 }) ++
    [.event .selection {}] ++ s.newcomers.flatMap newcomerTurns ++ s.launches.flatMap (fun e => s.launchTurns e.1 e.2) ++
    (if s.flying.isEmpty then [] else [.event .chunkArrival {}]) ++ (if s.refused.isEmpty then [] else [.event .chunkResend {}]) ++
    (s.ports.flatMap fun e => (List.range s.sent.length).map fun d => Turn.event .flitReceive { a := e.1, b := 3, c := 4, d := d }) ++
    s.traceBufs.map (fun e => Turn.event .traceDrain { a := e.1, c := 1 }) ++
    s.pageRequests.map (fun e => Turn.event .pageServiceTimeout { a := e.1 / 2 ^ 36, b := e.1 % 2 ^ 36 * 4096 }) ++
    [.event .bucketLeak { a := 0 }, .event .bucketLeak { a := 1 }, .event .bucketLeak { a := 2 }, .elapse 1]

/-- The turn that comes next, and the state that has taken it off the tape: the tape's first, or the device's own turns one
after another. -/
def State.nextTurn (s : State) : Turn × State :=
  match s.tape with
  | t :: ts => (t, { s with tape := ts })
  | [] =>
    let ts := s.ownTurns
    (ts.getD (s.rota % ts.length) (.elapse 1), { s with rota := s.rota + 1 })

/-- The next step of the machine. -/
def State.turn (s : State) : Result := runTurn s.nextTurn.1 s.nextTurn.2

/-! ### An instruction placed where the next step fetches it -/

/-- Where the acting stream's next instruction stands: its PC, or 0 where nothing can be fetched there. -/
def State.fetchPc (s : State) : Word := if s.st.pc.toNat < 2 ^ 47 && s.st.pc.toNat % 8 = 0 then s.st.pc else 0

/-- Makes a page executable for a requester and an ASID: as it is translated already, or at physical page 0. -/
def State.mapPage (s : State) (at_ asid va : Nat) : Nat × State :=
  let put := fun (leaf : Leaf) =>
    let e : Leaf := { leaf with pa := va % 8192 / 4096 * 4096, ls := 12, host := false, x := true, rights := none }
    { s with spaces := { s.spaces with tlb := tput s.spaces.tlb (tlbKey at_ asid va) e } }
  match s.translate at_ asid va with
  | some (leaf, s') => if leaf.x && !leaf.host then (leaf.pa + va % 4096, s') else (va % 8192, put leaf)
  | none => (va % 8192, put { pa := 0, ls := 12, key := 0, host := false, notok := false, mt := 0, x := true, w := true })

/-- Stores words at the acting stream's PC, each in a page that it can fetch from. -/
def State.placeWords (s : State) (pc : Nat) : List Nat → State
  | [] => s
  | w :: ws =>
    let (p, s) := s.mapPage (s.physOf s.cur) s.launch.asid pc
    (s.putBytes p (bytesLE w 8)).placeWords (pc + 8) ws

/-- The instruction of bits `w` stands at the acting stream's PC; the stream, its launch (placed on core 0 if it has no place)
and the part are such that it issues, it is first in its sequencer's round, and its turn is the next. -/
def State.placeInstr (s : State) (w : Nat) : State :=
  let k := s.cur
  let v := s.launch
  let cores := if v.cores.isEmpty then [{ phys := 0, slots := [0], baseg := 0 }] else v.cores
  let s := s.setLaunch s.launchNo { v with phase := .placed, cores := cores }
  let s := s.setSt { s.st with pc := s.fetchPc, halted := false, stopped := false, wait := none, paging := none, yielded := [] }
  let s : State :=
    { s with dev := { s.dev with railsGood := true, ready := true, halted := false, coreLost := tdel s.dev.coreLost (s.physOf k),
                                 gated := tdel s.dev.gated (s.clusterOf k) },
             served := tset 0 s.served (s.arbiter k 0) (s.slotOf k), orders := [], shadow := tdel s.shadow k, tape := .issue k false :: s.tape }
  s.placeWords s.st.pc.toNat [w % 2 ^ 64, w / 2 ^ 64 % 2 ^ 64]

end Sys2Proof.Machine
end

