-- ==== Sys2Proof/Machine/Step.lean ====
section
/-! DEFINITION. One step of the machine: the next turn (log entry 5). -/

namespace Sys2Proof.Machine

def step (s : State) : Host.Outcome State Fault Refusal := s.turn

/-- `s` with the instruction of bits `w`, the first word the lowest, where `step` fetches next. The bits of `w` above
`nbits` are 0. -/
def State.withFetchWord (s : State) (_nbits w : Nat) : State := s.placeInstr w

end Sys2Proof.Machine
end

