-- ==== Sys2Proof/Safety.lean ====
section
/-! DEFINITION. The terms that statements about runs use: what a step keeps, which part of the state it may change, and the
circumstances in which an instruction acts. -/

namespace Sys2Proof

/-- The destination field of a format that has one. -/
def Fields.dest : Fields → BitVec 6
  | .fma f => f.xd
  | .fmi f => f.xd
  | .fms f => f.xd
  | .fmk f => f.xd
  | .fmt f => f.xd
  | _ => 0

namespace Machine

/-! ### What must hold in every state -/

/-- The byte stores and the poison marks are in their canonical form, so that equal memories are equal data. -/
def State.Inv (s : State) : Prop := s.mem.wf = true ∧ twf false s.poison = true

/-! ### Frames -/

/-- Every byte of every store reads as before. -/
def SameMemory (s t : State) : Prop := ∀ place, t.mem.get place = s.mem.get place

/-- Every byte outside `n` bytes from a place reads as before. -/
def SameOutside (s t : State) (place n : Nat) : Prop :=
  ∀ a, a < place ∨ place + n ≤ a → t.mem.get a = s.mem.get a

/-- Only stream `k` may have changed. -/
def OnlyStream (s t : State) (k : Nat) : Prop :=
  t = { s with streams := t.streams } ∧ ∀ j, j ≠ k → t.stream j = s.stream j

/-- Of the acting stream only the PC, the X registers, the predicates and SSR may have changed. -/
def OnlyRegisters (s t : State) : Prop :=
  OnlyStream s t s.cur ∧ t.st = { s.st with pc := t.st.pc, x := t.st.x, p := t.st.p, ssr := t.st.ssr }

/-! ### Circumstances -/

/-- Engine `unit` acts at the head `e` of the acting stream's queue. -/
def State.AtHead (s : State) (unit : Nat) (e : Entry) : Prop :=
  s.actor = .engine unit ∧ ∃ rest, (s.st.queue unit).entries = e :: rest

/-- The sequencer acts for the acting stream. -/
def State.AtIssue (s : State) : Prop := s.actor = .sequencer

/-- A run is safe: its next step is no fault and no refusal. -/
def State.Safe (s : State) : Prop := ∃ t, step s = .next t

/-- The tile checks of R76 pass: every tile that a sequencer instruction names lies in the launch's window. -/
def State.InWindow (s : State) (i : Instr) : Prop :=
  match i.parts with
  | some (_, _, .fmk f) => topTile f.top < s.launch.m.twin
  | some (0xA0, fn, .fms f) => (fn = 4 ∨ fn = 5) → f.imm.toNat % 256 + f.imm.toNat / 256 % 256 + 1 ≤ s.launch.m.twin
  | _ => True

end Machine

end Sys2Proof
end

