-- ==== Sys2Proof/Certificates/Slice0/Obligations.lean ====
section
/-! DEFINITION. The statements about the machine that the provers settle: what the spec's rules say of each family of
instructions, of the steps of the device, and of every step. A statement named after several parts is their conjunction. -/

open Sys2Proof Sys2Proof.Machine

/-! ### Encoding and the step -/

/-- R67 to R79: the words of a well-formed instruction decode to it, whatever its operands. -/
def Obligations.DecodeOfEncode : Prop :=
  ∀ i : Instr, i.isWord = true → i.WellFormed = true → decode i.word0 i.word1 = .ok i

/-- R70 to R79: what decodes is well formed, and its words are exactly the words it was read from, so that no bit of an
accepted word is ignored. -/
def DecodedWordsAreExact : Prop :=
  ∀ (w0 w1 : Word) (i : Instr), decode w0 w1 = .ok i →
    i.isWord = true ∧ i.WellFormed = true ∧ i.word0 = w0 ∧ i.word1 = (if isLong w0 then w1 else 0)

/-- R80: the subcode of ILLEGAL is that of the first check that fails: OP, G, FN, unused fields, used fields. -/
def DecodeRefusesInOrder : Prop :=
  ∀ (w0 w1 : Word),
    let op := (w0.setWidth 8).toNat
    let g := w0.extractLsb' 8 4
    (opcode op = none → decode w0 w1 = .error 1) ∧
    (opcode op ≠ none → g = 8 → decode w0 w1 = .error 2) ∧
    (∀ fm n, opcode op = some (fm, n) → g ≠ 8 → n ≠ 0 → n ≤ fnOf fm (wide w0 w1) → decode w0 w1 = .error 3) ∧
    (∀ fm n, opcode op = some (fm, n) → g ≠ 8 → (n = 0 ∨ fnOf fm (wide w0 w1) < n) →
      match instrOf op (fnOf fm (wide w0 w1)) (fieldsOf fm (wide w0 w1)) with
      | none => decode w0 w1 = .error 3
      | some i =>
        (reservedZero fm (wide w0 w1) = false ∨ i.unusedZero = false → decode w0 w1 = .error 4) ∧
        (reservedZero fm (wide w0 w1) = true → i.unusedZero = true → i.valuesOk = false → decode w0 w1 = .error 5) ∧
        (reservedZero fm (wide w0 w1) = true → i.unusedZero = true → i.valuesOk = true → decode w0 w1 = .ok i)) ∧
    (∀ e, decode w0 w1 = .error e → 1 ≤ e ∧ e ≤ 5)

/-- Only exact words decode, and a refusal names its first failed check: `DecodedWordsAreExact`, `DecodeRefusesInOrder`. -/
def Obligations.DecodingIsExact : Prop :=
  DecodedWordsAreExact ∧ DecodeRefusesInOrder

/-- The spec's own worked words (R136, R144, R146, R149 and the reference entries) decode to the instructions they stand for. -/
def Obligations.WorkedWordsDecode : Prop :=
  decode 0x0000004004341003 0 = .ok (.cmpltni { g := 0, xd := 1, xa := 13, imm := 0x40 }) ∧
  decode 0xFFFFFFFE00006041 0 = .ok (.loop { g := 0, xa := 6, xb := 0, aux := 0, off := 0xFFFFFFFE }) ∧
  decode 0x0000000000000043 0 = .ok (.halt { g := 0, xd := 0, xa := 0, sreg := 0, imm := 0 }) ∧
  decode 0x0000001000000043 0 = .ok (.yield { g := 0, xd := 0, xa := 0, sreg := 0, imm := 0 }) ∧
  decode 0x0000002000000043 0 = .ok (.nop { g := 0, xd := 0, xa := 0, sreg := 0, imm := 0 }) ∧
  decode 0x0000004001005043 0 = .ok (.sysr { g := 0, xd := 5, xa := 0, sreg := 1, imm := 0 })

/-- R67, R68, R79, R118, R146: at the turn of a stream that may issue, and whose context the Rearguard's copy matches, the words at
its PC are fetched, and the step is exec of the instruction that they decode to, with what issuing brings besides around it. -/
def StreamTurnRunsInstruction : Prop :=
  ∀ (s : State) (k : Nat) (late : Bool) (ts : List Turn) (w0 w1 : Word) (s1 s2 t : State) (i : Instr),
    s.tape = .issue k late :: ts →
    let b : State := { s with tape := ts }
    let a := b.acting k .sequencer late
    let c := a.serve k 0
    b.hasStream k = true → a.mayIssue k = true →
    c.fetchWord (c.physOf c.cur) c.launchNo c.st.pc.toNat false = (.word w0, s1) →
    (if isLong w0 then s1.fetchWord (s1.physOf s1.cur) s1.launchNo (c.st.pc.toNat + 8) true = (.word w1, s2)
     else s2 = s1 ∧ w1 = 0) →
    decode w0 w1 = .ok i → s2.rearguard k 0 = none → exec i (s2.endYield k) = .next t →
    step s = .next (b.afterTurn (s2.afterIssue k i t) (some k))

/-- R118, R146, R153: where no Rearguard holds a copy, no stream has yielded and no newcomer waits, nothing is added around exec but the
note of the cycle in which a tile has been written or set. -/
def IssueAddsNothing : Prop :=
  ∀ (s b t : State) (k : Nat) (i : Instr), t.shadow = [] → (∀ e ∈ t.streams, e.2.yielded = []) → t.newcomers = [] →
    (t.stream k).passed = [] →
    let u := b.afterTurn (s.afterIssue k i t) (some k)
    u = { t with orders := u.orders } ∧
    (b.tiles = t.tiles → (∀ f, i ≠ .tquota f ∧ i ≠ .treset f) → u = t)

/-- R65, R115, R131, R146: a stream that is not ready, or that is not the next of its core's round, does not issue at its turn. A turn of
a stream that no launch has is none: such a turn is the model's tape's, its choice (log entry 5). -/
def TurnsOfStreamsThatMayNotIssue : Prop :=
  ∀ (s : State) (k : Nat) (late : Bool) (ts : List Turn), s.tape = .issue k late :: ts →
    let b : State := { s with tape := ts }
    let a := b.acting k .sequencer late
    (b.hasStream k = true → a.mayIssue k = false → step s = .next (b.afterTurn a (some k))) ∧
    (b.hasStream k = false → step s = .fault .unschedulable)

/-- R68: a fetch reads eight little-endian bytes of an executable page of the launch's ASID; a page that is mapped without
execute gives PERMISSION for the first word and TRANSLATION for a second one. That it reads the page's home, whatever stands dirty in an
L1, is the model's choice (log entry 39). -/
def FetchReadsExecutablePage : Prop :=
  ∀ (s s1 : State) (at_ l va : Nat) (second : Bool) (leaf : Leaf),
    va < 2 ^ 48 → s.translate at_ (s.launchOf l).asid va = some (leaf, s1) → leaf.host = false →
    s.fetchWord at_ l va second =
      (if leaf.x then .word (BitVec.ofNat 64 (natLE (s1.bytes (leaf.pa + va % 4096) 8)))
       else .cause { code := if second then 12 else 13, args := [va, 2] }, s1)

/-- R106, R114, R117, R118, R234: at the turn of an engine whose head is ready and first in its arbiter's round, and whose copy of
the queue matches, the step is exec of that entry's instruction. -/
def EngineTurnRunsHead : Prop :=
  ∀ (s t : State) (k unit : Nat) (ts : List Turn) (e : Entry) (rest : List Entry) (i : Instr),
    s.tape = .start k unit :: ts →
    let b : State := { s with tape := ts }
    let a := b.acting k (.engine unit) false
    let n := e.arbiter unit
    let c := a.serve k n
    b.hasStream k = true → (a.st.queue unit).entries = e :: rest → a.headReady unit n k = true →
    a.firstAmong k n (a.headReady unit n) = true → c.rearguard k unit = none → decode e.w0 e.w1 = .ok i →
    exec i c = .next t → step s = .next (b.afterTurn (c.afterStart k unit t) none)

/-- A step fetches, decodes and runs exec of the instruction, of a stream that may issue and of a head that may start:
`StreamTurnRunsInstruction`, `IssueAddsNothing`, `TurnsOfStreamsThatMayNotIssue`, `FetchReadsExecutablePage`, `EngineTurnRunsHead`. -/
def Obligations.StepRunsDecodedInstruction : Prop :=
  StreamTurnRunsInstruction ∧ IssueAddsNothing ∧ TurnsOfStreamsThatMayNotIssue ∧ FetchReadsExecutablePage ∧ EngineTurnRunsHead

/-- Every instruction has an effect in every state: exec never stops. -/
def ExecNeverStops : Prop := ∀ (i : Instr) (s : State), ∃ t, exec i s = .next t

/-- A step stops only where the tape names a stream that no launch has; it never refuses. -/
def StepNeverRefuses : Prop :=
  ∀ s : State, (∃ t, step s = .next t) ∨
    (step s = .fault .unschedulable ∧ ∃ k, (s.nextTurn).2.hasStream k = false ∧
      ((∃ late, s.nextTurn.1 = .issue k late) ∨ ∃ unit, s.nextTurn.1 = .start k unit))

/-- exec always answers a next state and a step never refuses: `ExecNeverStops`, `StepNeverRefuses`. -/
def Obligations.NothingIsRefused : Prop :=
  ExecNeverStops ∧ StepNeverRefuses

/-- Every step keeps the canonical form of the byte stores and of the poison marks. -/
def Obligations.StepKeepsMemoryCanonical : Prop :=
  ∀ s t : State, s.Inv → step s = .next t → t.Inv

/-- The canonical form holds at reset. -/
def Obligations.ResetIsCanonical : Prop := State.reset.Inv

/-- R8, R9: after reset DEVSTAT shows no READY, stage 0 and no failure, every tile has count 0, quota 0 and skip 0, and the token
directory is empty, so that the Factor holds every region EXCL. That every byte of every store reads as zero then is the model's
choice: of the device's stores (log entry 1; R8 says it of memory initialisation), of FMMSG (log entry 3), of host and peer
memory (log entry 4). -/
def Obligations.ResetValues : Prop :=
  let s := State.reset
  s.dev.ready = false ∧ s.dev.stage = 0 ∧ s.dev.failcode = 0 ∧ s.dev.erased = false ∧ s.dev.alVolt = false ∧
  s.dev.alClk = false ∧ s.dev.alTemp = false ∧ s.dev.alMesh = false ∧ (∀ place, s.mem.get place = 0) ∧
  (∀ key, (s.tile key).count = 0 ∧ (s.tile key).quota = 0 ∧ (s.tile key).skip = false) ∧ s.regions = [] ∧
  ∀ place ids launch store, s.rightAt place none ids launch store =
    (if ids.contains Config.factorId then .ok else .deny (if store then 9 else 8))

/-! ### Scalar instructions -/

/-- R132, R133: the results of the two's-complement ALU functions at width n, sign-extended into XD; ZEXT alone is not. -/
def AluArithmetic : Prop :=
  ∀ (f : FA) (s : State), s.st.guardTrue f.g = true →
    let n := 64 >>> f.sz.toNat
    let a : BitVec n := (s.xr f.xa).setWidth n
    let b : BitVec n := (s.xr f.xb).setWidth n
    let gives : BitVec n → Result := fun v => .next ((s.xw f.xd (v.signExtend 64)).advance 8)
    exec (.add f) s = gives (a + b) ∧ exec (.sub f) s = gives (a - b) ∧ exec (.mul f) s = gives (a * b) ∧
    exec (.mulh f) s = gives ((a.signExtend (2 * n) * b.signExtend (2 * n)).extractLsb' n n) ∧
    exec (.mulhn f) s = gives ((a.setWidth (2 * n) * b.setWidth (2 * n)).extractLsb' n n) ∧
    exec (.andR f) s = gives (a &&& b) ∧ exec (.orR f) s = gives (a ||| b) ∧ exec (.xor f) s = gives (a ^^^ b) ∧
    exec (.andn f) s = gives (a &&& ~~~b) ∧
    exec (.min f) s = gives (if a.slt b then a else b) ∧ exec (.max f) s = gives (if a.slt b then b else a) ∧
    exec (.minn f) s = gives (if a.ult b then a else b) ∧ exec (.maxn f) s = gives (if a.ult b then b else a) ∧
    exec (.abs f) s = gives (if a.msb then -a else a) ∧ exec (.neg f) s = gives (-a) ∧ exec (.sext f) s = gives a ∧
    exec (.sel f) s = gives (if s.pr (f.xc.toNat % 8) then a else b) ∧
    exec (.zext f) s = .next ((s.xw f.xd (a.setWidth 64)).advance 8)

/-- R133: shifts and rotations by b mod n, and the bit counts within n bits. -/
def AluShiftsAndCounts : Prop :=
  ∀ (f : FA) (s : State), s.st.guardTrue f.g = true →
    let n := 64 >>> f.sz.toNat
    let a : BitVec n := (s.xr f.xa).setWidth n
    let k := (s.xr f.xb).toNat % n
    let gives : BitVec n → Result := fun v => .next ((s.xw f.xd (v.signExtend 64)).advance 8)
    exec (.shl f) s = gives (a <<< k) ∧ exec (.shr f) s = gives (a >>> k) ∧ exec (.sra f) s = gives (a.sshiftRight k) ∧
    exec (.rol f) s = gives (a.rotateLeft k) ∧ exec (.clz f) s = gives a.clz ∧ exec (.ctz f) s = gives a.ctz ∧
    exec (.popc f) s = gives a.cpop ∧ exec (.brev f) s = gives a.reverse

/-- R134: the table of division results. -/
def AluDivision : Prop :=
  ∀ (f : FA) (s : State), s.st.guardTrue f.g = true →
    let n := 64 >>> f.sz.toNat
    let a : BitVec n := (s.xr f.xa).setWidth n
    let b : BitVec n := (s.xr f.xb).setWidth n
    let gives : BitVec n → Result := fun v => .next ((s.xw f.xd (v.signExtend 64)).advance 8)
    exec (.div f) s = gives (if b = 0 then BitVec.allOnes n else a.sdiv b) ∧
    exec (.rem f) s = gives (if b = 0 then a else a.srem b) ∧
    exec (.divn f) s = gives (if b = 0 then BitVec.allOnes n else a / b) ∧
    exec (.remn f) s = gives (if b = 0 then a else a % b)

/-- R135: the immediate forms at 64 bits. -/
def ImmediateArithmetic : Prop :=
  ∀ (f : FI) (s : State), s.st.guardTrue f.g = true →
    let a := s.xr f.xa
    let simm := f.imm.signExtend 64
    let zimm := f.imm.setWidth 64
    let gives : Word → Result := fun v => .next ((s.xw f.xd v).advance 8)
    exec (.addi f) s = gives (a + simm) ∧ exec (.muli f) s = gives (a * simm) ∧ exec (.andi f) s = gives (a &&& simm) ∧
    exec (.ori f) s = gives (a ||| zimm) ∧ exec (.xori f) s = gives (a ^^^ zimm) ∧
    exec (.shli f) s = gives (a <<< f.imm.toNat) ∧ exec (.shri f) s = gives (a >>> f.imm.toNat) ∧
    exec (.srai f) s = gives (a.sshiftRight f.imm.toNat) ∧ exec (.movi f) s = gives simm ∧
    exec (.movhi f) s = gives (zimm <<< 32 ||| (s.xr f.xd &&& 0xFFFFFFFF))

/-- Results of the integer instructions: `AluArithmetic`, `AluShiftsAndCounts`, `AluDivision`, `ImmediateArithmetic`. -/
def Obligations.IntegerResults : Prop :=
  AluArithmetic ∧ AluShiftsAndCounts ∧ AluDivision ∧ ImmediateArithmetic

/-- R136: a comparison writes the predicate that XD[2:0] names. -/
def Comparisons : Prop :=
  ∀ (f : FA) (g : FI) (s : State), s.st.guardTrue f.g = true → s.st.guardTrue g.g = true →
    let n := 64 >>> f.sz.toNat
    let a : BitVec n := (s.xr f.xa).setWidth n
    let b : BitVec n := (s.xr f.xb).setWidth n
    let x := s.xr g.xa
    let y := g.imm.signExtend 64
    let sets : Bool → Result := fun v => .next ((s.pw (f.xd.toNat % 8) v).advance 8)
    let setsI : Bool → Result := fun v => .next ((s.pw (g.xd.toNat % 8) v).advance 8)
    exec (.cmpeq f) s = sets (a == b) ∧ exec (.cmpne f) s = sets (a != b) ∧ exec (.cmplt f) s = sets (a.slt b) ∧
    exec (.cmple f) s = sets (a.sle b) ∧ exec (.cmpltn f) s = sets (a.ult b) ∧ exec (.cmplen f) s = sets (a.ule b) ∧
    exec (.cmpeqi g) s = setsI (x == y) ∧ exec (.cmpnei g) s = setsI (x != y) ∧ exec (.cmplti g) s = setsI (x.slt y) ∧
    exec (.cmplei g) s = setsI (x.sle y) ∧ exec (.cmpltni g) s = setsI (x.ult y) ∧ exec (.cmpleni g) s = setsI (x.ule y)

/-- R137, R82: predicate logic; P0 reads as 1 and ignores the write, and nothing else of the machine changes. -/
def PredicateLogic : Prop :=
  ∀ (f : FA) (s : State), s.st.guardTrue f.g = true →
    let a := s.pr (f.xa.toNat % 8)
    let b := s.pr (f.xb.toNat % 8)
    let d := f.xd.toNat % 8
    ∀ (i : Instr) (v : Bool),
      (i, v) ∈ [(Instr.pset f, true), (.pclr f, false), (.pand f, a && b), (.por f, a || b), (.pxor f, a != b), (.pnot f, !a)] →
      ∃ t, exec i s = .next t ∧ t.st.pc = s.st.pc + 8 ∧ t.pr d = (d = 0 || v) ∧
        (∀ j < 8, j ≠ d → t.pr j = s.pr j) ∧ t.st = { s.st with pc := t.st.pc, p := t.st.p } ∧ OnlyStream s t s.cur

/-- Comparisons and predicate logic: `Comparisons`, `PredicateLogic`. -/
def Obligations.ComparisonsAndPredicates : Prop :=
  Comparisons ∧ PredicateLogic

/-- The exact number that a finite value stands for. -/
def exactly : Val → Rat
  | .fin neg n e => (if neg then -1 else 1) * (n : Rat) * (2 : Rat) ^ e
  | _ => 0

/-- What a binary32 instruction answers: its result in XD, its flags in SSR, and ARITH after it where a flag's trap is on. -/
def fpsAnswer (s : State) (xd : BitVec 6) (r : Nat × BitVec 6) : Result :=
  let t := s.xw xd (BitVec.ofNat 64 r.1)
  let t := (t.setSt { t.st with ssr := setFlags t.st.ssr r.2 }).advance 8
  if tef t.st.ssr &&& r.2 = 0 then .next t
  else .next (t.takeTrap t.cur 0 s.st.pc t.st.pc { code := 16, args := [r.2.toNat, t.st.ssr.toNat] })

/-- R138, R139: the binary32 functions on the low halves of their sources, rounded once under SHAPE's mode. -/
def ScalarFloatResults : Prop :=
  ∀ (f : FA) (s : State), s.st.guardTrue f.g = true →
    let m := s.st.shape.extractLsb' 24 2
    let a := f32.val (s.xr f.xa).toNat
    let b := f32.val (s.xr f.xb).toNat
    let c := f32.val (s.xr f.xc).toNat
    exec (.fadd f) s = fpsAnswer s f.xd (f32.add m a b) ∧ exec (.fsub f) s = fpsAnswer s f.xd (f32.add m a b.negate) ∧
    exec (.fmul f) s = fpsAnswer s f.xd (f32.mul m a b) ∧ exec (.ffma f) s = fpsAnswer s f.xd (f32.fma m a b c) ∧
    exec (.fdiv f) s = fpsAnswer s f.xd (f32.div m a b) ∧ exec (.fsqrt f) s = fpsAnswer s f.xd (f32.sqrt m a) ∧
    exec (.fcvtf f) s = fpsAnswer s f.xd (f32.round m (Val.ofInt (s.xr f.xa).toInt)) ∧
    exec (.fmin f) s = .next ((s.xw f.xd (BitVec.ofNat 64 (f32.minmax false (s.xr f.xa).toNat (s.xr f.xb).toNat))).advance 8) ∧
    exec (.fmax f) s = .next ((s.xw f.xd (BitVec.ofNat 64 (f32.minmax true (s.xr f.xa).toNat (s.xr f.xb).toNat))).advance 8)

/-- R139, R140: FCVTI saturates and sets INV outside the signed 64-bit range and for a NaN, which gives 0. -/
def FloatToIntegerSaturates : Prop :=
  ∀ (f : FA) (s : State), s.st.guardTrue f.g = true →
    let m := s.st.shape.extractLsb' 24 2
    let a := f32.val (s.xr f.xa).toNat
    ∃ v fl, exec (.fcvti f) s = fpsAnswer s f.xd (v, fl) ∧
      (a = .nan → v % 2 ^ 64 = 0 ∧ fl = flagInv) ∧
      (∀ neg, a = .inf neg → v % 2 ^ 64 = (if neg then 2 ^ 63 else 2 ^ 63 - 1) ∧ fl = flagInv) ∧
      (∀ neg n e, a = .fin neg n e →
        let r := (roundInt m neg n e).1
        if r < -2 ^ 63 then v % 2 ^ 64 = 2 ^ 63 ∧ fl = flagInv
        else if 2 ^ 63 - 1 < r then v % 2 ^ 64 = 2 ^ 63 - 1 ∧ fl = flagInv
        else (v : Int) % 2 ^ 64 = r % 2 ^ 64 ∧ fl = (if (roundInt m neg n e).2 then flagInx else 0))

/-- R140: a NaN operand compares false; FCMPLT then sets INV and FCMPEQ no flag; +0 equals −0. -/
def FloatComparisons : Prop :=
  ∀ (f : FA) (s : State), s.st.guardTrue f.g = true → tef s.st.ssr &&& flagInv = 0 →
    let a := f32.val (s.xr f.xa).toNat
    let b := f32.val (s.xr f.xb).toNat
    let d := f.xd.toNat % 8
    (exec (.fcmpeq f) s = .next ((s.pw d (a.eq b)).advance 8)) ∧
    (∃ t, exec (.fcmplt f) s = .next t ∧ t.st = { (s.st.pw d (a.lt b)).advance 8 with ssr := t.st.ssr } ∧ OnlyStream s t s.cur ∧
      t.st.ssr = (if a = .nan ∨ b = .nan then s.st.ssr ||| 0x100 else s.st.ssr)) ∧
    (a = .nan ∨ b = .nan → a.lt b = false ∧ a.eq b = false) ∧ (a.isZero = true → b.isZero = true → a.eq b = true ∧ a.lt b = false)

/-- R140: finite values are ordered as their numbers are, between the infinities. Of a minimum and a maximum, which FMIN, FMAX, VMIN, VMAX
and VCLAMP take, a NaN operand gives the other operand and two NaNs the canonical one; else the result is the operand that is least, or
greatest, where −0 lies below +0. -/
def MinimaAndMaxima : Prop :=
  (∀ (p q : Bool) (n m : Nat) (e g : Int),
    let a := Val.fin p n e
    let b := Val.fin q m g
    (a.lt b = true ↔ exactly a < exactly b) ∧ (a.eq b = true ↔ exactly a = exactly b) ∧
    (Val.inf true).lt a = true ∧ a.lt (.inf false) = true ∧ (Val.inf false).lt a = false ∧ a.lt (.inf true) = false ∧
    (Val.inf true).lt (.inf false) = true ∧ (Val.inf false).lt (.inf true) = false ∧ (Val.inf p).lt (.inf p) = false) ∧
  ∀ t ∈ [f32, bf16], ∀ (most : Bool) (a b : Nat), a < 2 ^ t.width → b < 2 ^ t.width →
    let x := t.val a
    let y := t.val b
    let r := t.minmax most a b
    (x = .nan → y = .nan → r = t.nanBits) ∧ (x = .nan → y ≠ .nan → r = b) ∧ (x ≠ .nan → y = .nan → r = a) ∧
    (x ≠ .nan → y ≠ .nan → (r = a ∨ r = b) ∧
      (if most then (t.val r).lt x = false ∧ (t.val r).lt y = false else x.lt (t.val r) = false ∧ y.lt (t.val r) = false) ∧
      (x.isZero = true → y.isZero = true → ((t.val r).neg = true ↔ if most then x.neg = true ∧ y.neg = true else x.neg = true ∨ y.neg = true)))

/-- Results of the binary32 instructions: `ScalarFloatResults`, `FloatToIntegerSaturates`, `FloatComparisons`, `MinimaAndMaxima`. -/
def Obligations.ScalarFloats : Prop :=
  ScalarFloatResults ∧ FloatToIntegerSaturates ∧ FloatComparisons ∧ MinimaAndMaxima

/-- R140: a NaN operand of FADD, FSUB, FMUL, FDIV or FSQRT gives the canonical NaN and no flag; ∞ − ∞, 0 · ∞, 0 ÷ 0, ∞ ÷ ∞ and
the root of a negative value give it with INV; a finite nonzero value over zero gives an infinity with DZ. -/
def FloatSpecials : Prop :=
  ∀ (m : Mode) (a b : Val) (n : Nat) (e : Int) (p q : Bool),
    (a = .nan ∨ b = .nan →
      f32.add m a b = (0x7FC00000, 0) ∧ f32.sub m a b = (0x7FC00000, 0) ∧ f32.mul m a b = (0x7FC00000, 0) ∧
      f32.div m a b = (0x7FC00000, 0)) ∧ f32.sqrt m .nan = (0x7FC00000, 0) ∧
    f32.add m (.inf p) (.inf (!p)) = (0x7FC00000, flagInv) ∧ f32.sub m (.inf p) (.inf p) = (0x7FC00000, flagInv) ∧
    f32.mul m (.fin p 0 e) (.inf q) = (0x7FC00000, flagInv) ∧ f32.mul m (.inf q) (.fin p 0 e) = (0x7FC00000, flagInv) ∧
    f32.div m (.fin p 0 e) (.fin q 0 e) = (0x7FC00000, flagInv) ∧ f32.div m (.inf p) (.inf q) = (0x7FC00000, flagInv) ∧
    (n ≠ 0 → f32.div m (.fin p n e) (.fin q 0 e) = (if p = q then 0x7F800000 else 0xFF800000, flagDz)) ∧
    (n ≠ 0 → f32.sqrt m (.fin true n e) = (0x7FC00000, flagInv)) ∧ f32.sqrt m (.fin true 0 e) = (0x80000000, 0)

/-- R83: rounding a binary32 value that a register holds gives its own bits and sets no flag, in every mode. -/
def RoundingIsExactOnValues : Prop :=
  ∀ (m : Mode) (bits : BitVec 32), f32.val bits.toNat ≠ .nan → f32.round m (f32.val bits.toNat) = (bits.toNat, 0)

/-- R83: the magnitude that the bits `k` of a format stand for; at the bits of infinity, the power of two above the largest finite
magnitude. -/
def magnitude (t : Fmt) (k : Nat) : Rat :=
  match t.val k with
  | .fin _ n e => (n : Rat) * (2 : Rat) ^ e
  | _ => (2 : Rat) ^ ((t.bias : Int) + 1)

/-- R83: rounding a fraction `q` to binary32 or BF16 keeps its sign and gives the one of its two neighbouring magnitudes that the mode
names, a tie going to the even one; INX is set exactly where the result differs from `q`, OVF where the rounding reaches infinity, UNF
where it is inexact and `q` rounded to the precision alone stays below 2^−126. Past the largest magnitude the result is an infinity
or the largest finite number, by the mode and the sign, with OVF and INX. -/
def FractionsRoundOnce : Prop :=
  ∀ t ∈ [f32, bf16], ∀ (m : Mode) (neg : Bool) (num den : Nat), num ≠ 0 → den ≠ 0 →
    let q : Rat := (num : Rat) / (den : Rat)
    let r := t.roundFrac m neg num den
    let mag := r.1 % t.signBit
    let away := (m = 2 ∧ neg = false) ∨ (m = 3 ∧ neg = true)
    let least : Rat := (2 : Rat) ^ (1 - (t.bias : Int))
    let ulp : Rat := least / (2 : Rat) ^ t.p
    r.1 / t.signBit = (if neg then 1 else 0) ∧
    (∀ k < t.infBits, magnitude t k = q → mag = k ∧ r.2 = 0) ∧
    (∀ k < t.infBits, magnitude t k < q → q < magnitude t (k + 1) →
      let mid := (magnitude t k + magnitude t (k + 1)) / 2
      let up := (m = 0 ∧ (mid < q ∨ (q = mid ∧ k % 2 = 1))) ∨ away
      let full := least ≤ q ∨ (m = 0 ∧ least - ulp / 2 ≤ q) ∨ (away ∧ least - ulp < q)
      (up → mag = k + 1) ∧ (¬ up → mag = k) ∧ r.2.getLsbD 3 = true ∧ (r.2.getLsbD 1 = true ↔ mag = t.infBits) ∧
      (r.2.getLsbD 2 = true ↔ ¬ full) ∧ r.2.getLsbD 0 = false ∧ r.2.getLsbD 4 = false ∧ r.2.getLsbD 5 = false) ∧
    (magnitude t t.infBits ≤ q → r.2 = flagOvf ||| flagInx ∧
      (m = 0 ∨ away → mag = t.infBits) ∧ (¬ (m = 0 ∨ away) → mag = t.infBits - 1))

/-- `r` is the number `x`, which is not 0, rounded once to a format under a mode. -/
def RoundsOnce (t : Fmt) (m : Mode) (x : Rat) (r : Nat × BitVec 6) : Prop :=
  x ≠ 0 → ∃ num den : Nat, num ≠ 0 ∧ den ≠ 0 ∧ (if x < 0 then -x else x) = (num : Rat) / (den : Rat) ∧
    r = t.roundFrac m (decide (x < 0)) num den

/-- R83, R140: the sum, difference, product, quotient, fused product and sum, and rounding of finite values are the exact result
rounded once; a zero sum is −0 where both terms are, or where their signs differ and the mode is RD, and a zero product or quotient
has the signs' exclusive or, with no flag. A square root is the rounding of a fraction that lies on the root's side of every
magnitude and of every midpoint of two neighbours. -/
def OperationsRoundOnce : Prop :=
  ∀ t ∈ [f32, bf16], ∀ (m : Mode) (sa sb sc : Bool) (na nb nc : Nat) (ea eb ec : Int),
    let a := Val.fin sa na ea
    let b := Val.fin sb nb eb
    let c := Val.fin sc nc ec
    let x := exactly a
    let y := exactly b
    let zero : Bool → Bool → Nat × BitVec 6 := fun p q => (t.signed (if p = q then p else decide (m = 3)) 0, 0)
    RoundsOnce t m x (t.round m a) ∧ (x = 0 → t.round m a = (t.signed sa 0, 0)) ∧
    RoundsOnce t m (x + y) (t.add m a b) ∧ (x + y = 0 → t.add m a b = zero sa sb) ∧
    RoundsOnce t m (x - y) (t.sub m a b) ∧ (x - y = 0 → t.sub m a b = zero sa (!sb)) ∧
    RoundsOnce t m (x * y) (t.mul m a b) ∧ (x * y = 0 → t.mul m a b = (t.signed (sa != sb) 0, 0)) ∧
    RoundsOnce t m (x * y + exactly c) (t.fma m a b c) ∧ (x * y + exactly c = 0 → t.fma m a b c = zero (sa != sb) sc) ∧
    (y ≠ 0 → RoundsOnce t m (x / y) (t.div m a b) ∧ (x = 0 → t.div m a b = (t.signed (sa != sb) 0, 0))) ∧
    (0 < x → ∃ num den : Nat, num ≠ 0 ∧ den ≠ 0 ∧ t.sqrt m a = t.roundFrac m false num den ∧
      ∀ k ≤ t.infBits, ∀ g : Rat, g = magnitude t k ∨ g = (magnitude t k + magnitude t (k + 1)) / 2 ∧ k < t.infBits →
        ((num : Rat) / (den : Rat) < g ↔ x < g * g) ∧ ((num : Rat) / (den : Rat) = g ↔ x = g * g))

/-- Special operands of binary32, exact results, correct rounding, and that each operation rounds its exact result once:
`FloatSpecials`, `RoundingIsExactOnValues`, `FractionsRoundOnce`, `OperationsRoundOnce`. -/
def Obligations.RoundingIsCorrect : Prop :=
  FloatSpecials ∧ RoundingIsExactOnValues ∧ FractionsRoundOnce ∧ OperationsRoundOnce

/-- The frame of the integer, comparison and predicate instructions: nothing but the acting stream's PC and the destination
(a register, or a predicate) changes; X0 and P0 keep reading as they do. -/
def ScalarFrame : Prop :=
  ∀ (i : Instr) (s t : State) (op fn : Nat) (F : Fields), i.parts = some (op, fn, F) → op ∈ [0x00, 0x01, 0x02, 0x03, 0x42] →
    exec i s = .next t →
    OnlyStream s t s.cur ∧ t.st = { s.st with pc := t.st.pc, x := t.st.x, p := t.st.p } ∧ SameMemory s t ∧
    (∀ r, op ∉ [0x00, 0x01] ∨ r ≠ F.dest → t.xr r = s.xr r) ∧
    (∀ j < 8, op ∈ [0x00, 0x01] ∨ j ≠ F.dest.toNat % 8 → t.pr j = s.pr j)

/-- The frame of the binary32 instructions where no trap is enabled: the PC, the destination and SSR.FLAGS. -/
def ScalarFloatFrame : Prop :=
  ∀ (i : Instr) (s t : State) (fn : Nat) (F : Fields), i.parts = some (0x04, fn, F) → tef s.st.ssr = 0 → exec i s = .next t →
    OnlyRegisters s t ∧ SameMemory s t ∧ (∀ r, r ≠ F.dest → t.xr r = s.xr r) ∧ (∀ j < 8, j ≠ F.dest.toNat % 8 → t.pr j = s.pr j) ∧
    (fn < 10 → ∀ j < 8, t.pr j = s.pr j) ∧ (10 ≤ fn → ∀ r, t.xr r = s.xr r) ∧
    t.st.ssr &&& ~~~0x3F00#64 = s.st.ssr &&& ~~~0x3F00#64

/-- R69: under a false guard a short instruction has no effect but the advance of the PC by 8. -/
def FalseGuardOnlyAdvances : Prop :=
  ∀ (i : Instr) (s : State), i.isWord = true → i.long? = none → s.InWindow i → s.st.guardTrue i.guard = false →
    exec i s = .next (s.advance 8)

/-- What scalar instructions leave unchanged, and what a false guard does: `ScalarFrame`, `ScalarFloatFrame`,
`FalseGuardOnlyAdvances`. -/
def Obligations.ScalarFrames : Prop :=
  ScalarFrame ∧ ScalarFloatFrame ∧ FalseGuardOnlyAdvances

/-! ### Control -/

/-- R141, R142: BR and CALL go to PC + 8·OFF32; JR and JLR to the register as it was read before the link was written; a
register target that is no multiple of 8 raises ALIGN and has no effect. -/
def Obligations.BranchesAndCalls : Prop :=
  ∀ (f : FJ) (s : State), s.st.guardTrue f.g = true →
    let target := s.st.pc + f.off.signExtend 64 * 8
    let link := s.st.pc + 8
    let dest := s.xr f.xa
    exec (.br f) s = .next (s.setSt { s.st with pc := target }) ∧
    exec (.call f) s = .next (s.setSt { s.st.xw f.xa link with pc := target }) ∧
    (dest.toNat % 8 = 0 → exec (.jr f) s = .next (s.setSt { s.st with pc := dest }) ∧
      exec (.jlr f) s = .next (s.setSt { s.st.xw f.xb link with pc := dest })) ∧
    (dest.toNat % 8 ≠ 0 → ∃ c : Cause, c.code = 15 ∧ c.args.head? = some dest.toNat ∧
      exec (.jr f) s = .next (s.takeTrap s.cur 0 s.st.pc s.st.pc c) ∧
      exec (.jlr f) s = .next (s.takeTrap s.cur 0 s.st.pc s.st.pc c))

/-- R143, R144: LOOP counts an iteration, enters with max(1, min(XA, 2^32)) − 1 branches to take, branches back while some
remain and else leaves; BREAKL leaves. No breakpoint stands at the boundary. -/
def LoopsAndBreaks : Prop :=
  ∀ (f : FJ) (s : State), s.st.guardTrue f.g = true →
    let l := f.aux.toNat
    let w := tget 0 s.st.loopst l
    let entered := w.getLsbD 63
    let iter := if entered then w.extractLsb' 32 31 + 1 else 1
    let remain : BitVec 32 := if entered then w.extractLsb' 0 32 else BitVec.ofNat 32 (max 1 (min (s.xr f.xa).toNat (2 ^ 32)) - 1)
    let target := s.st.pc + f.off.signExtend 64 * 8
    ((∀ b ∈ s.launch.breakpoints, ¬ (b.2.loop = l ∧ b.2.iter = iter.toNat)) →
      ∃ t, exec (.loop f) s = .next t ∧
        t = { s with streams := t.streams, traceBufs := t.traceBufs, conflicts := t.conflicts } ∧
        (∀ k ≠ s.cur, t.stream k = s.stream k) ∧ t.st = { s.st with pc := t.st.pc, loopst := t.st.loopst } ∧
        (∀ j ≠ l, tget 0 t.st.loopst j = tget 0 s.st.loopst j) ∧
        (remain ≠ 0 → t.st.pc = target ∧ tget 0 t.st.loopst l = BitVec.ofBool true ++ iter ++ (remain - 1)) ∧
        (remain = 0 → t.st.pc = s.st.pc + 8 ∧ tget 0 t.st.loopst l = BitVec.ofBool false ++ iter ++ 0#32)) ∧
    ∃ t, exec (.breakl f) s = .next t ∧ OnlyStream s t s.cur ∧ t.st = { s.st with pc := target, loopst := t.st.loopst } ∧
      tget 0 t.st.loopst l = w &&& ~~~(1#64 <<< 63) ∧ ∀ j ≠ l, tget 0 t.st.loopst j = tget 0 s.st.loopst j

/-- R415: a LOOP at whose boundary a breakpoint fires completes, and then raises DEBUG with its cut at the next instruction. -/
def BreakpointStopsAtBoundary : Prop :=
  ∀ (f : FJ) (s : State) (b : Nat) (p : Breakpoint), s.st.guardTrue f.g = true → s.st.stopped = false →
    let w := tget 0 s.st.loopst f.aux.toNat
    let iter := if w.getLsbD 63 then w.extractLsb' 32 31 + 1 else 1
    (b, p) ∈ s.launch.breakpoints → (p.sidx = 0xFFF ∨ p.sidx = s.sidx) → p.loop = f.aux.toNat → p.iter = iter.toNat →
    ∃ t, exec (.loop f) s = .next t ∧ t.st.stopped = true ∧ t.st.cut.pc = t.st.pc ∧
      (t.st.pc = s.st.pc + 8 ∨ t.st.pc = s.st.pc + f.off.signExtend 64 * 8) ∧
      (tget 0 t.st.loopst f.aux.toNat).extractLsb' 32 31 = iter

/-- LOOP, BREAKL and a breakpoint at a boundary: `LoopsAndBreaks`, `BreakpointStopsAtBoundary`. -/
def Obligations.HardwareLoops : Prop :=
  LoopsAndBreaks ∧ BreakpointStopsAtBoundary

/-- R146, R147: NOP only advances; YIELD waits for the other streams of its core that are ready now, at most 8 SCLK; HALT
halts and leaves every barrier group of the launch. -/
def NopYieldHalt : Prop :=
  ∀ (f : FS) (s : State), s.st.guardTrue f.g = true →
    exec (.nop f) s = .next (s.advance 8) ∧
    (∃ t, exec (.yield f) s = .next t ∧ OnlyStream s t s.cur ∧
      t.st = { s.st with pc := s.st.pc + 8, yielded := t.st.yielded, yieldLeft := 8 } ∧
      ∀ k, k ∈ t.st.yielded ↔ k ∈ s.streamsOn (s.physOf s.cur) ∧ k ≠ s.cur ∧ s.ready k = true) ∧
    ∃ t, exec (.halt f) s = .next t ∧ t = { s with streams := t.streams, launches := t.launches } ∧
      t.st = { s.st with pc := s.st.pc + 8, halted := true, wait := t.st.wait } ∧
      ∀ tag < 8, (t.launchOf s.launchNo).isMember tag s.sidx = false

/-- R148: ESTIM makes min(XA, 2^32 − 1) the launch's remaining estimate, received now. -/
def EstimateIsSent : Prop :=
  ∀ (f : FS) (s : State), s.st.guardTrue f.g = true →
    exec (.estim f) s = .next ((s.setLaunch s.launchNo
      { s.launch with est := min (s.xr f.xa).toNat (2 ^ 32 - 1), estNs := s.dev.ns }).advance 8)

/-- NOP, YIELD, HALT and ESTIM: `NopYieldHalt`, `EstimateIsSent`. -/
def Obligations.StreamControl : Prop :=
  NopYieldHalt ∧ EstimateIsSent

/-- R98, R99, R149: SYSR reads a system register into XD and SYSW writes the writable fields of SSR, or LOOPST whole; an access
to SSR while an entry of the stream's has not completed leaves everything as it is. -/
def Obligations.SystemRegisters : Prop :=
  ∀ (f : FS) (s : State), s.st.guardTrue f.g = true →
    let n := f.sreg.toNat
    let drained := s.st.matrixQ.entries = [] ∧ s.st.vectorQ.entries = [] ∧ s.st.porterQ.entries = [] ∧
      s.st.assayerQ.entries = [] ∧ s.st.running = []
    let reads : Word → Prop := fun v => exec (.sysr f) s = .next ((s.xw f.xd v).advance 8)
    (n = 0 → drained → reads s.st.ssr ∧
      exec (.sysw f) s = .next ((s.setSt { s.st with ssr := s.xr f.xa &&& 0xFFFFFFFF007F3F07 }).advance 8)) ∧
    (n = 0 → ¬ drained → exec (.sysr f) s = .next s ∧ exec (.sysw f) s = .next s) ∧
    (n = 1 → reads s.st.scoord) ∧ (n = 2 → reads s.st.sleg) ∧
    (n = 3 → reads (BitVec.ofNat 64 ((s.launch.corePlace s.sidx).baseg * 2 ^ 16 + s.launch.m.twin))) ∧ (n = 4 → reads s.st.shape) ∧
    (n = 5 → reads (BitVec.ofNat 64 (streamId s.cur))) ∧ (n = 6 → reads (BitVec.ofNat 64 (launchId s.launchNo))) ∧
    (8 ≤ n → n ≤ 11 → reads (BitVec.ofNat 64 (channelId s.cur (n - 8)))) ∧
    (n = 0x10 → reads (BitVec.ofNat 64 (if s.dev.ready then s.dev.ns - s.dev.readyAt else 0))) ∧
    (n = 0x11 → reads (BitVec.ofNat 64 (s.aclk s.cur))) ∧
    (n = 0x18 → s.st.fq.length ≤ 16 → reads (BitVec.ofNat 64 (s.st.fq.length * 2 ^ 32 + s.st.fqpos.toNat))) ∧
    (0x20 ≤ n → n ≤ 0x27 → reads (tget 0 s.st.loopst (n - 0x20)) ∧
      exec (.sysw f) s = .next ((s.setSt { s.st with loopst := tset 0 s.st.loopst (n - 0x20) (s.xr f.xa) }).advance 8)) ∧
    (0x30 ≤ n → n ≤ 0x33 → reads (tget 0 s.st.wm (n - 0x30)))

/-! ### Traps -/

/-- R116, R390, R393: taking a trap stops the stream, records its cut and posts a record that names the cause; a stream that
has stopped already keeps its cut. A launch that holds 64 records drops the new one and counts it. -/
def TrapStopsStream : Prop :=
  ∀ (s : State) (k unit : Nat) (pc cutpc : Word) (c : Cause), unit < 256 → c.code < 256 → c.sub < 256 →
    let t := s.takeTrap k unit pc cutpc c
    let l := k / 4096
    (t.stream k).stopped = true ∧ (∀ j ≠ k, t.stream j = s.stream j) ∧ SameMemory s t ∧ t.tiles = s.tiles ∧ t.regions = s.regions ∧
    ((s.stream k).stopped = true → t.stream k = s.stream k) ∧
    ((s.stream k).stopped = false →
      t.stream k = { s.stream k with stopped := true, wait := none, passed := [], cut := t.stream k |>.cut } ∧
      (t.stream k).cut.pc = cutpc ∧ (t.stream k).cut.fqpos = (s.stream k).fqpos ∧
      (t.stream k).cut.qseq = [(s.stream k).matrixQ, (s.stream k).vectorQ, (s.stream k).porterQ, (s.stream k).assayerQ].map
        fun q => q.appended - BitVec.ofNat 32 q.entries.length) ∧
    ((s.launchOf l).held.length < 64 → ∃ r : BitVec 1024, (t.launchOf l).held = (s.launchOf l).held ++ [r] ∧
      (t.launchOf l).faultSeq = (s.launchOf l).faultSeq + 1 ∧
      r.extractLsb' 0 8 = BitVec.ofNat 8 c.code ∧ r.extractLsb' 8 8 = BitVec.ofNat 8 unit ∧
      r.extractLsb' 16 8 = BitVec.ofNat 8 c.sub ∧ r.getLsbD 31 = true ∧ r.getLsbD 29 = false ∧
      r.extractLsb' 32 16 = BitVec.ofNat 16 (k % 4096) ∧ r.extractLsb' 64 64 = BitVec.ofNat 64 ((s.launchOf l).faultSeq + 1) ∧
      r.extractLsb' 192 64 = pc ∧ r.extractLsb' 256 64 = (t.stream k).cut.pc ∧
      r.extractLsb' 512 64 = BitVec.ofNat 64 (c.args.getD 0 0) ∧ r.extractLsb' 576 64 = BitVec.ofNat 64 (c.args.getD 1 0)) ∧
    (64 ≤ (s.launchOf l).held.length → (t.launchOf l).held = (s.launchOf l).held ∧
      (t.launchOf l).faultLost = min ((s.launchOf l).faultLost + 1) 0xFFFFFFFF)

/-- R401: TRAP and DBGBRK take their traps with ARG0 the immediate and the cut at the next instruction; TRCMARK only appends
a mark record, and nothing where the launch does not trace marks. -/
def TrapInstructions : Prop :=
  ∀ (f : FS) (s : State), s.st.guardTrue f.g = true →
    let after := s.advance 8
    exec (.trap f) s = .next (after.takeTrap s.cur 0 s.st.pc (s.st.pc + 8) { code := 26, args := [f.imm.toNat] }) ∧
    exec (.dbgbrk f) s = .next (after.takeTrap s.cur 0 s.st.pc (s.st.pc + 8) { code := 27, args := [f.imm.toNat] }) ∧
    (∃ t, exec (.trcmark f) s = .next t ∧ t = { after with traceBufs := t.traceBufs } ∧
      (s.launch.traceMask.getLsbD 3 = false → t = after))

/-- R401: TRET answers 2 for a stream the launch does not have, 1 for one that is not stopped, and 0 for a stopped one, which
resumes at its cut, with its queues and FQ emptied when DROPQ is set; one that has halted stays halted. -/
def ReturnFromTrap : Prop :=
  ∀ (f : FS) (s : State), s.st.guardTrue f.g = true →
    let i := (s.xr f.xa).toNat
    let k := s.launchNo * 4096 + i
    let u := s.stream k
    let answers : Word → State → Prop := fun v t => exec (.tret f) s = .next ((t.xw f.xd v).advance 8)
    (s.launch.m.streams ≤ i → answers 2 s) ∧
    (i < s.launch.m.streams → u.stopped = false → answers 1 s) ∧
    (i < s.launch.m.streams → u.stopped = true → f.imm.getLsbD 1 = false ∨ u.halted = true →
      ∃ v, answers 0 { s.setStream k v with shadow := tdel s.shadow k } ∧ v.stopped = false ∧ v.halted = u.halted ∧
        (u.halted = false → v.pc = u.cut.pc) ∧ (u.halted = true → v.pc = u.pc) ∧
        (f.imm.getLsbD 0 = false → v.matrixQ = u.matrixQ ∧ v.vectorQ = u.vectorQ ∧ v.porterQ = u.porterQ ∧
          v.assayerQ = u.assayerQ ∧ v.fq = u.fq ∧ v.u = u.u) ∧
        (f.imm.getLsbD 0 = true → v.matrixQ.entries = [] ∧ v.vectorQ.entries = [] ∧ v.porterQ.entries = [] ∧
          v.assayerQ.entries = [] ∧ v.fq = [] ∧ v.u = 0) ∧
        v.x = u.x ∧ v.k = u.k ∧ v.p = u.p ∧ v.ssr = u.ssr ∧ v.acc = u.acc ∧ v.running = u.running)

/-- Taking a trap, the trap instructions, and TRET: `TrapStopsStream`, `TrapInstructions`, `ReturnFromTrap`. -/
def Obligations.TrapsAndReturns : Prop :=
  TrapStopsStream ∧ TrapInstructions ∧ ReturnFromTrap

/-! ### Counts and tiles -/

/-- R105, R106, R107: a sequencer source may be read: NONE finds no write under way, a counted operand has been reached and no
write is under way or, by another instruction that still waits, pending on the tile. -/
def SourceReady (s : State) (o : Operand) : Prop :=
  let x := s.tile o.key
  x.wip = false ∧ (o.mode ≠ 0 → (x.count - o.exp).toNat < 32768 ∧ s.writePending o.key (s.cur * 8) = false)

/-- R105, R106, R107: a sequencer destination may be written; no read that waits for it has become able to in this cycle. -/
def DestReady (s : State) (o : Operand) : Prop :=
  let x := s.tile o.key
  x.wip = false ∧ x.inflight = 0 ∧ (x.quota = 0 ∨ x.quota = 15) ∧ (o.mode ≠ 0 → (x.count - o.exp).toNat < 32768) ∧
    s.readFirst o.key (s.cur * 8) = false

/-- Only tile `key`, stream `k` and the poison marks may have changed. -/
def OnlyTile (s t : State) (k key : Nat) : Prop :=
  t = { s with streams := t.streams, tiles := t.tiles, mem := t.mem, poison := t.poison } ∧
    (∀ j ≠ k, t.stream j = s.stream j) ∧ ∀ j ≠ key, t.tile j = s.tile j

/-- R104, R107, R110, R151: TWAIT and TDONE admit the version their operand names: a CUR or XREG operand that is current retires
one read of the quota, or sets OVERREAD where the quota is 0; TWAIT gives the version's skip flag to PD. -/
def VersionsAreAdmitted : Prop :=
  ∀ (f : FK) (s : State) (i : Instr), i = .twait f ∨ i = .tdone f → s.InWindow i → s.st.guardTrue f.g = true →
    s.st.ssr.getLsbD 0 = false →
    let o := s.operand f.top false
    let x := s.tile o.key
    let retires := (o.mode = 1 ∨ o.mode = 2) ∧ x.count = o.exp
    SourceReady s o →
    ∃ t, exec i s = .next t ∧ OnlyTile s t s.cur o.key ∧ SameMemory s t ∧ t.st.pc = s.st.pc + 8 ∧
      (t.tile o.key).count = x.count ∧ (t.tile o.key).skip = x.skip ∧ (t.tile o.key).inflight = x.inflight ∧
      (retires → x.quota ≠ 0 → x.quota ≠ 15 → (t.tile o.key).quota = x.quota - 1) ∧
      (¬ retires ∨ x.quota = 0 ∨ x.quota = 15 → (t.tile o.key).quota = x.quota) ∧
      t.st.ssr = (if retires ∧ x.quota = 0 then s.st.ssr ||| 2 else s.st.ssr) ∧ (∀ r, t.xr r = s.xr r) ∧
      (i = .twait f → t.pr f.pd.toNat = (f.pd = 0 || x.skip)) ∧ (∀ j < 8, i = .tdone f ∨ j ≠ f.pd.toNat → t.pr j = s.pr j)

/-- R107, R109, R152: TSKIP and TSIG make the next version of their tile, its data unchanged: the count advances, also for a
NONE operand, the quota is Q and the writer is the stream's slot rank. -/
def VersionsAreSignalled : Prop :=
  ∀ (f : FK) (s : State) (i : Instr), i = .tskip f ∨ i = .tsig f → s.InWindow i → s.st.guardTrue f.g = true →
    s.st.ssr.getLsbD 0 = false →
    let o := s.operand f.top false
    DestReady s o →
    ∃ t, exec i s = .next t ∧ OnlyTile s t s.cur o.key ∧ SameMemory s t ∧
      t.st = { s.st with pc := s.st.pc + 8, wait := none } ∧
      (t.tile o.key).count = (s.tile o.key).count + 1 ∧ (t.tile o.key).quota = f.q ∧ ((t.tile o.key).skip = true ↔ i = .tskip f) ∧
      (t.tile o.key).writer = some (s.writerOf s.cur) ∧ (t.tile o.key).wip = false ∧ (t.tile o.key).inflight = 0

/-- TWAIT, TDONE, TSKIP and TSIG: `VersionsAreAdmitted`, `VersionsAreSignalled`. -/
def Obligations.VersionsMove : Prop :=
  VersionsAreAdmitted ∧ VersionsAreSignalled

/-- R105, R106, R112: a TWAIT whose operand is not reached, and a TSIG whose version still has quota, change no tile and no
register, and the stream waits at its instruction. That a TSIG on another count waits under STRICT too, before it raises
STALE_VERSION, is the model's choice (log entry 23). -/
def OperandsWait : Prop :=
  ∀ (f : FK) (s : State), s.InWindow (.twait f) → s.st.guardTrue f.g = true →
    let o := s.operand f.top false
    let x := s.tile o.key
    (o.mode ≠ 0 → 32768 ≤ (x.count - o.exp).toNat → ∃ t w, exec (.twait f) s = .next t ∧ OnlyStream s t s.cur ∧
      t.st = { s.st with wait := some w } ∧ w.tiles = [o.key]) ∧
    (x.quota ≠ 0 → x.quota ≠ 15 → ∃ t w, exec (.tsig f) s = .next t ∧ OnlyStream s t s.cur ∧ t.st = { s.st with wait := some w } ∧
      w.tiles = [o.key])

/-- R108: under STRICT an overtaken TWAIT raises STALE_VERSION subcode 1 and a TSIG on another count subcode 3; the tile is
unchanged. -/
def StrictRefusesStaleVersions : Prop :=
  ∀ (f : FK) (s : State), s.InWindow (.twait f) → s.st.guardTrue f.g = true → s.st.ssr.getLsbD 0 = true →
    let o := s.operand f.top false
    o.mode ≠ 0 → (s.tile o.key).count ≠ o.exp →
    (SourceReady s o → ∃ c : Cause, c.code = 6 ∧ c.sub = 1 ∧ exec (.twait f) s = .next (s.takeTrap s.cur 0 s.st.pc s.st.pc c)) ∧
    (DestReady s o → ∃ c : Cause, c.code = 6 ∧ c.sub = 3 ∧ exec (.tsig f) s = .next (s.takeTrap s.cur 0 s.st.pc s.st.pc c))

/-- Unready tile operands wait; STRICT refuses stale versions: `OperandsWait`, `StrictRefusesStaleVersions`. -/
def Obligations.UnreadyOperandsWait : Prop :=
  OperandsWait ∧ StrictRefusesStaleVersions

/-- R110, R153, R154: TQUOTA by the version's writer or of an unknown one sets the quota; TRESET of a tile that is at rest sets
count, quota and skip and forgets the writer; TSTAT reads count, quota and skip. -/
def QuotaResetAndState : Prop :=
  ∀ (f : FK) (s : State), s.InWindow (.tstat f) → s.st.guardTrue f.g = true →
    let o := s.operand f.top false
    let x := s.tile o.key
    (x.writer = none ∨ x.writer = some (s.writerOf s.cur) →
      exec (.tquota f) s = .next ((s.setTile o.key { x with quota := f.q }).advance 8)) ∧
    (x.inflight = 0 → x.quota = 0 ∨ x.quota = 15 →
      (∀ j < s.launch.m.streams, (s.stream (s.launchNo * 4096 + j)).waitsOn o.key = false) →
      exec (.treset f) s = .next ((s.setTile o.key
        { x with count := if o.mode = 0 then 0 else o.exp, quota := f.q, skip := false, writer := none }).advance 8)) ∧
    (x.quota ≠ 0 → x.quota ≠ 15 → ∃ c : Cause, c.code = 6 ∧ c.sub = 4 ∧
      exec (.treset f) s = .next (s.takeTrap s.cur 0 s.st.pc s.st.pc c)) ∧
    exec (.tstat f) s = .next ((s.xw f.xd (BitVec.ofNat 64
      (x.count.toNat + x.quota.toNat * 2 ^ 16 + (if x.skip then 1 else 0) * 2 ^ 20))).advance 8)

/-- R155: under a SHAPE of element type `c` whose view holds the index, TGET reads the element, extended as its type says, and
TINS makes a version in which it, and no other bit of the tile, is changed. -/
def ElementMoves : Prop :=
  ∀ (f : FK) (s : State), s.InWindow (.tget f) → s.st.guardTrue f.g = true → s.st.ssr.getLsbD 0 = false →
    let o := s.operand f.top true
    let c := shapeType s.st.shape
    let i := (s.xr f.xa).toNat
    let place := tilePlace o.key
    shapeReserved s.st.shape = false → c < 9 → rowsOk (shapeRows s.st.shape) = true → colsOk (shapeCols s.st.shape) = true →
    viewBytes c (shapeRows s.st.shape * shapeCols s.st.shape) ≤ 2048 → i < shapeRows s.st.shape * shapeCols s.st.shape →
    (SourceReady s o → (∀ a, place ≤ a → a < place + 2048 → tget false s.poison a = false) → s.poison.all (·.2) = true →
      ∃ t, exec (.tget f) s = .next t ∧ OnlyTile s t s.cur o.key ∧ SameMemory s t ∧ t.st.pc = s.st.pc + 8 ∧
        (f.xd ≠ 0 → t.xr f.xd = elemWord c (elemAt s.mem place c i)) ∧ (∀ r, r ≠ f.xd → t.xr r = s.xr r) ∧
        (t.tile o.key).inflight = (s.tile o.key).inflight ∧ (t.tile o.key).count = (s.tile o.key).count) ∧
    (DestReady s { o with mark := false } →
      ∃ t, exec (.tins f) s = .next t ∧ OnlyTile s t s.cur o.key ∧ t.st = { s.st with pc := s.st.pc + 8, wait := none } ∧
        elemAt t.mem place c i = (s.xr f.xd).toNat % 2 ^ typeBits c ∧
        (∀ b < 8 * 2048, b < i * typeBits c ∨ (i + 1) * typeBits c ≤ b →
          (t.mem.get (place + b / 8)).getLsbD (b % 8) = (s.mem.get (place + b / 8)).getLsbD (b % 8)) ∧
        SameOutside s t place 2048 ∧ (t.tile o.key).count = (s.tile o.key).count + 1 ∧ (t.tile o.key).quota = f.q ∧
        (t.tile o.key).skip = false)

/-- TQUOTA, TRESET, TSTAT, TGET and TINS: `QuotaResetAndState`, `ElementMoves`. -/
def Obligations.TileStateAndElements : Prop :=
  QuotaResetAndState ∧ ElementMoves

/-- R156, R158, R162, R268, R269: cursors, SHAPE and the format queue; a push onto 16 words stalls. -/
def Obligations.CursorsShapeAndFormatQueue : Prop :=
  ∀ (f : FI) (s : State), s.st.guardTrue f.g = true →
    let does : Instr → Stream → Prop := fun i t => exec i s = .next ((s.setSt t).advance 8)
    let kd := f.xd.toNat % 16
    does (.kset f) (s.st.kw kd (f.imm.setWidth 16)) ∧ does (.kadd f) (s.st.kw kd (s.st.kr kd + f.imm.setWidth 16)) ∧
    (f.imm = 0 → does (.kmovx f) (s.st.xw f.xd ((s.st.kr (f.xa.toNat % 16)).setWidth 64))) ∧
    (f.imm ≠ 0 → does (.kmovx f) (s.st.kw kd ((s.xr f.xa).setWidth 16))) ∧
    does (.shapeset f) { s.st with shape := s.xr f.xa } ∧ does (.shapei f) { s.st with shape := f.imm.setWidth 64 } ∧
    (s.st.fq.length < 16 → does (.fqpush f) { s.st with fq := s.st.fq ++ [s.xr f.xa], u := s.st.u + 1 } ∧
      does (.fqpushi f) { s.st with fq := s.st.fq ++ [f.imm.setWidth 64], u := s.st.u + 1 }) ∧
    (16 ≤ s.st.fq.length → exec (.fqpush f) s = .next s ∧ exec (.fqpushi f) s = .next s) ∧
    ((∀ e ∈ s.st.matrixQ.entries, e.w0.extractLsb' 0 8 ≠ 0xE0 ∧ e.w0.extractLsb' 0 8 ≠ 0xE1) →
      does (.fqclr f) { s.st with fq := [], u := 0 })

/-! ### Loads, stores, atomics and CLAIM -/

/-- Nothing holds up an access that the acting stream's instruction makes: it performs as the instruction issues (R218, R326, R347). -/
def PerformsNow (s : State) (p : Access) : Prop := s.late = false ∧ s.st.blocked s.st.accessNo p = false

/-- What a load of value `v` leaves in the registers: XT, and XT + 1 for a pair, the value extended by its sign when SX is 1. -/
def LoadLands (s t : State) (f : FM) (v : Nat) : Prop :=
  let n := 2 ^ f.sz.toNat
  ∀ r, t.xr r = if r = 0 then 0 else if n = 16 ∧ r = f.xt + 1 then BitVec.ofNat 64 (v / 2 ^ 64)
    else if r ≠ f.xt then s.xr r
    else if n < 16 ∧ f.sx = 1 then (BitVec.ofNat (8 * n) v).signExtend 64 else BitVec.ofNat 64 v

/-- R216 to R219: a load at a multiple of its size whose checks pass, and that nothing holds up, reads its bytes, little-endian,
into XT; device memory (whose place is aligned as the address is, as pages are) is read where its sector is in no L1 of the core.
Nothing else changes but the caches and the translation. -/
def LoadsReadHome : Prop :=
  ∀ (f : FM) (s s1 : State) (i : Instr) (sp place : Nat) (leaf : Option Leaf),
    (i, sp) ∈ [(Instr.ldm f, 0), (.lds f, 1), (.ldc f, 2), (.ldd f, 3), (.ldx f, 4), (.ldh f, 5)] →
    s.st.guardTrue f.g = true →
    let a := s.xr f.xa + (s.xr f.xi <<< f.sh.toNat) + f.disp.signExtend 64
    let n := 2 ^ f.sz.toNat
    PerformsNow s (memAccess f sp a s.st.pc [place] leaf (.load none)) →
    f.sz.toNat ≤ 4 → a.toNat % n = 0 → s.locate (seqWho s.cur) sp a.toNat n true false = (.ok place leaf none, s1) →
    s1.loadPoisoned s.cur place n false = false →
    (∀ lf, leaf = some lf → place < Place.base .spad → place % n = 0 ∧
      s1.buffersAt (s1.physOf s.cur) place = [] ∧ tfind s1.l1 (l1Key (s1.physOf s.cur) place) = none) →
    ∃ t, exec i s = .next t ∧
      t = { s1 with streams := t.streams, l1 := t.l1, mem := t.mem, wc := t.wc, own := t.own, poison := t.poison, draws := t.draws } ∧
      (∀ k ≠ s.cur, t.stream k = s.stream k) ∧ t.st = { s.st with pc := s.st.pc + 8, x := t.st.x } ∧
      LoadLands s t f (natLE (s1.bytes place n)) ∧
      (f.sem.getLsbD 0 = false ∨ f.scope.toNat < 2 → (s1.linesOf (s1.physOf s.cur)).length < 256 → SameMemory s t)

/-- R193, R195, R219: a load of device memory through a WB page whose sector its core's L1 holds takes its bytes from that sector,
dirty or stale; no byte of memory changes where it does not acquire. -/
def LoadsHitL1 : Prop :=
  ∀ (f : FM) (s s1 : State) (place : Nat) (leaf : Leaf) (x : Sector), s.st.guardTrue f.g = true →
    let a := s.xr f.xa + (s.xr f.xi <<< f.sh.toNat) + f.disp.signExtend 64
    let n := 2 ^ f.sz.toNat
    PerformsNow s (memAccess f 0 a s.st.pc [place] (some leaf) (.load none)) →
    f.sz.toNat ≤ 4 → a.toNat % n = 0 → s.locate (seqWho s.cur) 0 a.toNat n true false = (.ok place (some leaf) none, s1) →
    leaf.mt = 0 → place < Place.base .spad → place % n = 0 → s1.buffersAt (s1.physOf s.cur) place = [] →
    tfind s1.l1 (l1Key (s1.physOf s.cur) place) = some x → x.poison = 0 →
    ∃ t, exec (.ldm f) s = .next t ∧ (∀ k ≠ s.cur, t.stream k = s.stream k) ∧
      t.st = { s.st with pc := s.st.pc + 8, x := t.st.x } ∧
      LoadLands s t f (x.data.extractLsb' (8 * (place % 256)) (8 * n)).toNat ∧
      (f.sem.getLsbD 0 = false ∨ f.scope.toNat < 2 → SameMemory s t ∧
        t = { s1 with streams := t.streams, l1 := t.l1 } ∧
        ∃ y, tfind t.l1 (l1Key (s1.physOf s.cur) place) = some y ∧ y.data = x.data ∧ y.dirty = x.dirty)

/-- What a load reads, from its home and from L1: `LoadsReadHome`, `LoadsHitL1`. -/
def Obligations.LoadsReadTheirBytes : Prop :=
  LoadsReadHome ∧ LoadsHitL1

/-- R219, R193, R195: a store at a multiple of its size whose checks pass, and that nothing holds up, writes the low bytes of XT
(of a pair XT and XT + 1), little-endian, to exactly its own bytes; the stream's registers, the tiles and the tokens stay. Where
its page is cached elsewhere than at its home, or the store releases, see CoreSeesItsOwnStores. -/
def StoresWrite : Prop :=
  ∀ (f : FM) (s s1 : State) (i : Instr) (sp place : Nat) (leaf : Option Leaf),
    (i, sp) ∈ [(Instr.stm f, 0), (.sts f, 1), (.stc f, 2), (.std f, 3), (.stx f, 4), (.sth f, 5)] →
    s.st.guardTrue f.g = true → (sp = 2 → f.sx = 0) →
    let a := s.xr f.xa + (s.xr f.xi <<< f.sh.toNat) + f.disp.signExtend 64
    let n := 2 ^ f.sz.toNat
    let d := if n = 16 then (s.xr f.xt).toNat + (s.xr (f.xt + 1)).toNat * 2 ^ 64 else (s.xr f.xt).toNat % 2 ^ (8 * n)
    PerformsNow s (memAccess f sp a s.st.pc [place] leaf (.store (s.st.storeData f.xt n))) →
    f.sz.toNat ≤ 4 → a.toNat % n = 0 → s.locate (seqWho s.cur) sp a.toNat n false true = (.ok place leaf none, s1) →
    (sp = 0 → s1.widxAt place n = none) → s1.logFull s.launchNo place = false →
    let home := ∀ lf, leaf = some lf → place < Place.base .spad → lf.mt ≠ 1 ∧ s1.buffersAt (s1.physOf s.cur) place = [] ∧
      tfind s1.l1 (l1Key (s1.physOf s.cur) place) = none
    ∃ t, exec i s = .next t ∧ (∀ k ≠ s.cur, t.stream k = s.stream k) ∧ t.st = { s.st with pc := s.st.pc + 8 } ∧
      t.tiles = s.tiles ∧ t.regions = s.regions ∧
      (home → f.sem.getLsbD 1 = false ∨ (s1.l1 = [] ∧ s1.wc = []) → t.mem.readLE place n = d ∧ SameOutside s1 t place n)

/-- R193, R195, R329: whatever the page type, the caching field and the scope, and whatever its L1 and its combining buffers
hold, a load of a core finds the bytes that the core has just stored there. -/
def Obligations.CoreSeesItsOwnStores : Prop :=
  ∀ (s : State) (l phys place : Nat) (bs : List Byte) (leaf : Leaf) (cp cp' : BitVec 2) (scope : BitVec 3) (cls : BitVec 4),
    s.dev.memoryKeys = true → leaf.mt < 3 → bs.length ∈ [1, 2, 4, 8, 16] → place % bs.length = 0 → place < Place.base .spad →
    ((s.storeHbm l phys place bs leaf cp scope cls).loadHbm phys place bs.length leaf cp' false).1 = bs

/-- R222: a multicast store writes its data to the same byte of the 2 KiB unit of every slice that the mask names in the row
of its address, once every target passes, and to no other byte; an empty mask writes nothing. -/
def MulticastStores : Prop :=
  ∀ (f : FM) (s : State), f.sx = 1 → f.sz.toNat ≤ 4 → s.st.guardTrue f.g = true → f.sem.getLsbD 1 = false → s.late = false →
    s.st.accesses = [] → s.st.fences = [] →
    let a := (s.xr f.xa + f.disp.signExtend 64).toNat
    let n := 2 ^ f.sz.toNat
    let row := a / 2 ^ 14 * 2 ^ 14 + a % 2 ^ 11
    let named : Nat → Prop := fun i => i < 8 ∧ (s.xr f.xi).getLsbD i = true
    (∀ i, named i → a % n = 0 ∧
      (s.locate (seqWho s.cur) 2 (row + i * 2 ^ 11) n false true).1 = .ok (s.seraiPlace s.cur (row + i * 2 ^ 11)) none none) →
    ∃ t, exec (.stc f) s = .next t ∧ (∀ k ≠ s.cur, t.stream k = s.stream k) ∧ t.st = { s.st with pc := s.st.pc + 8 } ∧
      (∀ i, named i → ∀ j < n, t.mem.get (s.seraiPlace s.cur (row + i * 2 ^ 11) + j) =
        (if j < 8 then ((s.xr f.xt).extractLsb' (8 * j) 8) else ((s.xr (f.xt + 1)).extractLsb' (8 * (j - 8)) 8))) ∧
      ∀ p, (∀ i, named i → p < s.seraiPlace s.cur (row + i * 2 ^ 11) ∨ s.seraiPlace s.cur (row + i * 2 ^ 11) + n ≤ p) →
        t.mem.get p = s.mem.get p

/-- What a store writes, and its frame: `StoresWrite`, `MulticastStores`. -/
def Obligations.StoresWriteTheirBytes : Prop :=
  StoresWrite ∧ MulticastStores

/-- R217, R218: a load, store or atomic at no multiple of its size raises ALIGN with its address, before every other check. -/
def MisalignedAccessesTrap : Prop :=
  ∀ (f : FM) (g : FX) (s : State) (i : Instr),
    i ∈ [Instr.ldm f, .lds f, .ldc f, .ldd f, .ldx f, .ldh f, .stm f, .sts f, .stc f, .std f, .stx f, .sth f] →
    (i = .stc f → f.sx = 0) →
    (s.st.guardTrue f.g = true →
      let a := s.xr f.xa + (s.xr f.xi <<< f.sh.toNat) + f.disp.signExtend 64
      a.toNat % 2 ^ f.sz.toNat ≠ 0 →
      ∃ c : Cause, c.code = 15 ∧ c.args.head? = some a.toNat ∧ exec i s = .next (s.takeTrap s.cur 0 s.st.pc s.st.pc c)) ∧
    ∀ j, j ∈ [Instr.amm g, .amc g, .amd g, .amx g, .amh g] → s.st.guardTrue g.g = true →
      let a := s.xr g.xa + g.disp.signExtend 64
      a.toNat % 2 ^ g.sz.toNat ≠ 0 →
      ∃ c : Cause, c.code = 15 ∧ c.args.head? = some a.toNat ∧ exec j s = .next (s.takeTrap s.cur 0 s.st.pc s.st.pc c)

/-- What an access that ends as a remote error leaves (R223): REMERR is set, and REMOTE with the address, the cut at the next
instruction, traps only where TEREM is 1. -/
def EndsRemote (s t : State) (i : Instr) (a : Word) : Prop :=
  t.st = { s.st with pc := s.st.pc + 8, x := t.st.x, ssr := s.st.ssr ||| 4 } ∧ (∀ k ≠ s.cur, t.stream k = s.stream k) ∧
    (s.st.ssr.getLsbD 22 = false → exec i s = .next t) ∧
    (s.st.ssr.getLsbD 22 = true → ∃ c : Cause, c.code = 17 ∧ c.args.head? = some a.toNat ∧
      exec i s = .next (t.takeTrap s.cur 0 s.st.pc (s.st.pc + 8) c))

/-- R223: an access to a peer or the host that is not answered is no fault: a load or atomic writes all ones to XT, a store is
dropped and counted, REMERR is set, and REMOTE traps only where TEREM is 1. -/
def RemoteErrorsAreNoFaults : Prop :=
  ∀ (f : FM) (g : FX) (s s1 : State) (i : Instr) (sp : Nat),
    (s.st.guardTrue f.g = true →
      let a := s.xr f.xa + (s.xr f.xi <<< f.sh.toNat) + f.disp.signExtend 64
      let n := 2 ^ f.sz.toNat
      a.toNat % n = 0 →
      ((i, sp) ∈ [(Instr.ldx f, 4), (.ldh f, 5)] → s.locate (seqWho s.cur) sp a.toNat n true false = (.remote, s1) →
        ∃ t, EndsRemote s t i a ∧ OnlyStream s1 t s.cur ∧
          ∀ r, t.xr r = if r = 0 then 0 else if r = f.xt ∨ (n = 16 ∧ r = f.xt + 1) then BitVec.allOnes 64 else s.xr r) ∧
      ((i, sp) ∈ [(Instr.stx f, 4), (.sth f, 5)] → s.locate (seqWho s.cur) sp a.toNat n false true = (.remote, s1) →
        ∃ t, EndsRemote s t i a ∧ SameMemory s1 t ∧ (∀ r, t.xr r = s.xr r) ∧
          t.dev = { s1.dev with droppedStores := s1.dev.droppedStores + 1 })) ∧
    (s.st.guardTrue g.g = true →
      let a := s.xr g.xa + g.disp.signExtend 64
      let n := 2 ^ g.sz.toNat
      a.toNat % n = 0 → n < 16 → (i, sp) ∈ [(Instr.amx g, 4), (.amh g, 5)] →
      s.locate (seqWho s.cur) sp a.toNat n true true = (.remote, s1) →
        ∃ t, EndsRemote s t i a ∧ OnlyStream s1 t s.cur ∧
          ∀ r, t.xr r = if r = 0 then 0 else if r = g.xt then BitVec.allOnes 64 else s.xr r)

/-- Misaligned accesses trap; remote errors are no faults: `MisalignedAccessesTrap`, `RemoteErrorsAreNoFaults`. -/
def Obligations.AccessFaultsAndRemoteErrors : Prop :=
  MisalignedAccessesTrap ∧ RemoteErrorsAreNoFaults

/-- R355, R356: an atomic whose checks pass replaces the word by the value of its AOP's row and gives the old word,
zero-extended, to XT; a compare that fails writes nothing. Only the float addition sets flags. -/
def AtomicsReplaceTheWord : Prop :=
  ∀ (f : FX) (s s1 : State) (i : Instr) (sp place : Nat) (leaf : Option Leaf),
    (i, sp) ∈ [(Instr.amm f, 0), (.amc f, 2), (.amd f, 3), (.amx f, 4), (.amh f, 5)] →
    s.st.guardTrue f.g = true → (f.sem = 0 ∨ (s1.l1 = [] ∧ s1.wc = [])) → (f.sz = 2 ∨ f.sz = 3) →
    f.aop.toNat < 12 →
    let a := s.xr f.xa + f.disp.signExtend 64
    let n := 2 ^ f.sz.toNat
    PerformsNow s (s.atomicAccess f sp n a s.st.pc place) → s1.logFull s.launchNo place = false → s1.dev.memoryKeys = true →
    a.toNat % n = 0 → s.locate (seqWho s.cur) sp a.toNat n true true = (.ok place leaf none, s1) →
    (sp = 0 → s1.widxAt place n = none) → s1.poison = [] → s1.own = [] →
    (place < Place.base .spad → s1.buffersAt (s1.physOf s.cur) place = [] ∧ tfind s1.l1 (l1Key (s1.physOf s.cur) place) = none) →
    let m : BitVec (8 * n) := BitVec.ofNat (8 * n) (s1.mem.readLE place n)
    let o : BitVec (8 * n) := (s.xr f.xi).setWidth (8 * n)
    let c : BitVec (8 * n) := (s.xr f.xt).setWidth (8 * n)
    let news : List (BitVec (8 * n)) :=
      [m + o, m &&& o, m ||| o, m ^^^ o, if o.slt m then o else m, if m.slt o then o else m, if m.ult o then m else o,
       if m.ult o then o else m, o, if m = c then o else m,
       BitVec.ofNat (8 * n) (f32.add 0 (f32.val m.toNat) (f32.val o.toNat)).1, if o.ule m then 0 else m + 1]
    let fl := if f.aop = 10 then (f32.add 0 (f32.val m.toNat) (f32.val o.toNat)).2 else 0
    (f.aop = 10 → f.sz = 2) → tef s.st.ssr &&& fl = 0 →
    ∃ t, exec i s = .next t ∧ (∀ k ≠ s.cur, t.stream k = s.stream k) ∧
      t.st = { s.st with pc := s.st.pc + 8, x := t.st.x, ssr := s.st.ssr ||| (fl.setWidth 64 <<< 8) } ∧
      (∀ r, t.xr r = if r = 0 then 0 else if r = f.xt then m.setWidth 64 else s.xr r) ∧
      news[f.aop.toNat]? = some (BitVec.ofNat (8 * n) (t.mem.readLE place n)) ∧ SameOutside s1 t place n ∧
      t.tiles = s.tiles ∧ t.regions = s.regions

/-- R359 to R361: a CLAIM of a good record gives the first item that is not claimed and the length of its chunk, and moves NEXT
past it; a record whose MINC or DIV is 0 raises FORMAT subcode 64. -/
def ClaimTakesAChunk : Prop :=
  ∀ (f : FC) (s s1 : State) (place : Nat) (leaf : Option Leaf), s.st.guardTrue f.g = true →
    (f.sem = 0 ∨ (s1.l1 = [] ∧ s1.wc = [])) → f.cspace ≠ 3 → f.xt ≠ f.xi ∨ f.xt = 0 → s.launch.m.replay = 0 →
    let sp := if f.cspace = 0 then 3 else if f.cspace = 1 then 0 else 2
    let a := s.xr f.xa + f.disp.signExtend 64
    PerformsNow s (claimAccess f a s.st.pc place) → s1.logFull s.launchNo place = false →
    (sp = 0 → s1.widxAt place 16 = none) →
    a.toNat % 16 = 0 → s.locate (seqWho s.cur) sp a.toNat 16 true true = (.ok place leaf none, s1) →
    s1.poison = [] → s1.own = [] → s1.dev.memoryKeys = true →
    (place < Place.base .spad → s1.buffersAt (s1.physOf s.cur) place = [] ∧ tfind s1.l1 (l1Key (s1.physOf s.cur) place) = none) →
    let next := s1.mem.readLE place 8
    let fin := s1.mem.readLE (place + 8) 5
    let div := s1.mem.readLE (place + 13) 1
    let minc := s1.mem.readLE (place + 14) 2
    let len := min (fin - next) (max minc ((fin - next + div - 1) / div))
    (minc ≠ 0 → div ≠ 0 → ∃ t, exec (.claim f) s = .next t ∧
      t.st = { s.st with pc := s.st.pc + 8, x := t.st.x, wait := none } ∧
      (∀ r, t.xr r = if r = 0 then 0 else if r = f.xi then BitVec.ofNat 64 len else if r = f.xt then BitVec.ofNat 64 next else s.xr r) ∧
      t.mem.readLE place 8 = next + len ∧ SameOutside s1 t place 8 ∧ t.tiles = s.tiles ∧ t.regions = s.regions) ∧
    (minc = 0 ∨ div = 0 → ∃ c : Cause, c.code = 4 ∧ c.sub = 64 ∧
      exec (.claim f) s = .next ((s1.setSt { s.st with wait := none }).takeTrap s.cur 0 s.st.pc s.st.pc c))

/-- Atomics and CLAIM: `AtomicsReplaceTheWord`, `ClaimTakesAChunk`. -/
def Obligations.AtomicsAndClaims : Prop :=
  AtomicsReplaceTheWord ∧ ClaimTakesAChunk

/-! ### Fences and barriers -/

/-- R347, R348: a FENCE of no path only advances; else the fences whose named earlier events have performed complete, and the
others, this one among them, stay outstanding while the stream goes on; no register, tile or token changes, and nothing of
memory but what a completed fence writes back. When an outstanding fence completes between instructions is log entry 20's. -/
def FencesComplete : Prop :=
  ∀ (f : FF) (s : State), s.st.guardTrue f.g = true →
    let e : Fence := { cls := f.cls, path := f.path, scope := f.scope, kind := f.kind, seq := s.st.porterQ.appended,
                       mark := s.st.accessNo }
    (f.path = 0 → exec (.fence f) s = .next (s.advance 8)) ∧
    (f.path ≠ 0 → ∃ t, exec (.fence f) s = .next t ∧
      t.st = { s.st with pc := s.st.pc + 8, fences := (s.st.fences ++ [e]).filter fun g => !s.st.fenceReady g } ∧
      (∀ k ≠ s.cur, t.stream k = s.stream k) ∧ t.tiles = s.tiles ∧ t.regions = s.regions ∧
      ((∀ g ∈ s.st.fences ++ [e], s.st.fenceReady g = false) → SameMemory s t) ∧ (s.l1 = [] → s.wc = [] → SameMemory s t))

/-- R351 to R353: an arrival sets PEND, and the last one of a generation, when every current member has arrived, makes the next; a
wait passes once the generation it arrived in is released, and clears PEND; BAR_SYNC is both; BAR_LEAVE ends the membership. A
stream that is no member raises ILLEGAL 7, and one that breaks the order of arrival and wait ILLEGAL 8. That BAR_SYNC keeps its arrival in a mark of its own is log entry 55's. -/
def BarriersArriveAndWait : Prop :=
  ∀ (f : FS) (s : State), s.st.guardTrue f.g = true →
    let tag := f.imm.toNat % 8
    let b := s.launch.barTag tag
    let p := tget 0 s.st.pend tag
    let last := ∀ i, s.launch.isMember tag i = true → i = s.sidx ∨ i ∈ b.arrived
    let counted := fun (t : State) => tget 0 t.st.pend tag = b.gen + 1 ∧ (∀ j ≠ tag, tget 0 t.st.pend j = tget 0 s.st.pend j) ∧
      (last → (t.launch.barTag tag).gen = b.gen + 1 ∧ (t.launch.barTag tag).arrived = []) ∧
      (¬ last → (t.launch.barTag tag).gen = b.gen ∧ (t.launch.barTag tag).arrived = b.arrived ++ [s.sidx])
    let illegalNow := fun (i : Instr) (sub : Nat) =>
      exec i s = .next (s.takeTrap s.cur 0 s.st.pc s.st.pc { code := 1, sub := sub, args := [i.word0.toNat, 0] })
    (s.launch.isMember tag s.sidx = true →
      (p = 0 → ∃ t, exec (.barArrive f) s = .next t ∧ t.st = { s.st with pc := s.st.pc + 8, pend := t.st.pend, wait := t.st.wait } ∧
        counted t) ∧
      (p ≠ 0 → p ≤ b.released → ∃ t, exec (.barWait f) s = .next t ∧ tget 0 t.st.pend tag = 0 ∧ t.st.pc = s.st.pc + 8 ∧
        t.launches = s.launches ∧ ∀ r, t.xr r = s.xr r) ∧
      (p ≠ 0 → b.released < p → ∃ t w, exec (.barWait f) s = .next t ∧ OnlyStream s t s.cur ∧ t.st = { s.st with wait := some w }) ∧
      (p = 0 → s.st.synced.getLsbD tag = false → b.released ≤ b.gen → ∃ t, exec (.barSync f) s = .next t ∧
        t.st.synced.getLsbD tag = true ∧ t.st.pc = s.st.pc ∧ counted t) ∧
      (s.st.synced.getLsbD tag = true → p ≤ b.released → ∃ t, exec (.barSync f) s = .next t ∧ t.st.pc = s.st.pc + 8 ∧
        tget 0 t.st.pend tag = 0 ∧ t.st.synced.getLsbD tag = false) ∧
      (∃ t, exec (.barLeave f) s = .next t ∧ t.st = { s.st with pc := s.st.pc + 8, wait := t.st.wait } ∧ t.launch.isMember tag s.sidx = false) ∧
      (p ≠ 0 → illegalNow (.barArrive f) 8 ∧ (s.st.synced.getLsbD tag = false → illegalNow (.barSync f) 8)) ∧
      (p = 0 → illegalNow (.barWait f) 8)) ∧
    (s.launch.isMember tag s.sidx = false →
      illegalNow (.barArrive f) 7 ∧ illegalNow (.barWait f) 7 ∧ illegalNow (.barSync f) 7 ∧ illegalNow (.barLeave f) 7)

/-- R69, R131, R218, R227, R319, R331, R336, R352, R401: what a stream's earlier accesses and fences keep its next instruction from
issuing at all: one that reads or writes a register whose load has not arrived; an owner instruction but OQUERY, a prefix instruction
but PFXFIND, and TLBINV, while an access, or a Porter entry that writes memory, has not completed; a tile instruction while a fence
that names path 0 is outstanding; an arrival at a barrier while an access or a fence is. A false guard, and a stream with nothing
outstanding, keep nothing back; a BAR_WAIT is kept back by no access and no fence. That a tile instruction and an arrival wait for
fences is the model's reading (log entry 20). -/
def InstructionsAreHeldBack : Prop :=
  ∀ (s : State) (i : Instr),
    let t := s.st
    let accesses := t.accesses ≠ []
    let writes := ∃ e ∈ t.porterEntries, e.writesMemory = true
    let owners : FT → List Instr := fun f => [.olend f, .ogive f, .ortrn f, .osplit f, .ojoin f, .oshare f, .odrop f, .oreclaim f]
    let owner := (∃ f, i ∈ owners f) ∨ (∃ f, i ∈ [Instr.pfxpin f, .pfxunpin f, .pfxins f]) ∨ ∃ f, i = .tlbinv f
    let tile := (∃ f, i ∈ [Instr.twait f, .tskip f, .tsig f, .tstat f, .tdone f, .tquota f, .treset f, .tget f, .tins f, .bhash f]) ∨
      ∃ f, i ∈ [Instr.cntsave f, .cntload f]
    let arrival := (∃ f, i = .barArrive f) ∨ ∃ f, i = .barSync f ∧ t.synced.getLsbD (f.imm.toNat % 8) = false
    (t.guardTrue i.guard = false → s.held i = false) ∧
    (t.accesses = [] → t.fences = [] → ¬ writes → s.held i = false) ∧
    (t.guardTrue i.guard = true →
      (∀ r ∈ regsOf i, r ≠ 0 → (∃ e ∈ t.accesses, r ∈ e.2.regs) → s.held i = true) ∧
      (owner → accesses ∨ writes → s.held i = true) ∧
      (tile → (∃ f ∈ t.fences, f.path.getLsbD 0 = true) → s.held i = true) ∧
      (arrival → accesses ∨ t.fences ≠ [] → s.held i = true) ∧
      (∀ f, i = .barWait f → (∀ r, t.loading r = false) → s.held i = false)) ∧
    (s.held i = true → s.instrAt s.cur = some i → t.wait = none → s.mayIssue s.cur = false)

/-- FENCE and the barrier instructions, and what waits for earlier accesses: `FencesComplete`, `BarriersArriveAndWait`,
`InstructionsAreHeldBack`. -/
def Obligations.FencesAndBarriers : Prop :=
  FencesComplete ∧ BarriersArriveAndWait ∧ InstructionsAreHeldBack

/-! ### Owner instructions, the prefix table, arenas, system instructions -/

/-- The frame of an owner instruction: the PC advances, no other register, stream or tile changes, outside device memory no byte
of memory does, and only the regions at the places of `places` may change. -/
def OwnerFrame (s s1 t : State) (places : List Nat) : Prop :=
  t.st = { s.st with pc := s.st.pc + 8 } ∧ (∀ k ≠ s.cur, t.stream k = s.stream k) ∧ t.tiles = s1.tiles ∧
    (∀ p ∉ places, tfind t.regions p = tfind s1.regions p) ∧ (s1.l1 = [] → s1.wc = [] → SameMemory s1 t)

/-- No access to a block is on its way (R210, R213). -/
def NothingOnItsWay (s : State) (place ls : Nat) : Prop :=
  ∀ e ∈ s.streams, ∀ a ∈ e.2.accesses, a.2.inBlock place ls = false

/-- R226, R228, R231: what each owner instruction makes of the region it names, whose base is a multiple of its size and whose
conditions hold: OLEND, OGIVE, ORTRN, OSPLIT, OJOIN, OSHARE, ODROP and ORECLAIM. -/
def OwnerChanges : Prop :=
  ∀ (f : FT) (s s1 : State) (place : Nat) (r : Region), s.st.guardTrue f.g = true → s.launch.m.replay = 0 →
    let a := (s.xr f.xa).toNat
    let ls := f.ls.toNat
    let x := (s.xr f.xb).toNat % 2 ^ 32
    let me := streamId s.cur
    let mine := launchId s.launchNo
    let covered : Nat → Prop := fun h => h = me ∨ h = mine ∨ ((idKind h = 0 ∨ idKind h = 2) ∧ idLaunch h = s.launchNo)
    let gives : Instr → List (Nat × Option Region) → Prop := fun i news =>
      ∃ t, exec i s = .next t ∧ OwnerFrame s s1 t (news.map Prod.fst) ∧ ∀ e ∈ news, tfind t.regions e.1 = e.2
    s.launchNo < 2 ^ 14 → s.ownerBase f.space.toNat a = (.at place, s1) → a % 2 ^ ls = 0 → tfind s1.regions place = some r → r.ls = ls →
    NothingOnItsWay s1 place ls →
    (r.state = .excl → covered r.holder → s1.badId x = false → x ≠ r.holder →
      gives (.olend f) [(place, some { r with state := .lent, lender := r.holder, holder := x })] ∧
      gives (.ogive f) [(place, some { r with holder := x })]) ∧
    (r.state = .lent → r.holder = me ∨ r.holder = mine ∨ (idKind r.holder = 0 ∧ idLaunch r.holder = s.launchNo) →
      r.lostLender = false → gives (.ortrn f) [(place, some { r with state := .excl, holder := r.lender, lender := 0 })]) ∧
    (r.state = .excl → covered r.holder → (if Place.base .spad ≤ place ∧ place < Place.base .depot then 11 else 12) < ls → s1.room place 1 = true →
      gives (.osplit f) [(place, some { r with ls := ls - 1 }), (place + 2 ^ (ls - 1), some { r with ls := ls - 1 })]) ∧
    ((r.state = .excl ∨ r.state = .shared) → covered r.holder → s1.badId x = false → r.shares.length < 65535 →
      s1.room place 1 = true → gives (.oshare f) [(place, some { r with state := .shared, shares := r.shares ++ [x] })]) ∧
    ((r.state = .shared ∨ r.state = .quarantined ∨ r.state = .orphaned) → (x = me ∨ x = mine) → x ∈ r.shares →
      gives (.odrop f) [(place, some { r with
        shares := r.shares.erase x, state := (if r.state = .shared ∧ r.shares.erase x = [] then .excl else r.state) })]) ∧
    ((r.state = .quarantined ∨ r.state = .orphaned) → (r.super = me ∨ r.super = mine) →
      gives (.oreclaim f) [(place, some { r with state := (if r.shares = [] then .excl else .shared), holder := r.super, lender := 0,
                                                 dirtyLost := false, lostLender := false, super := 0 })])

/-- R228: OJOIN of two halves of a block that the caller covers, EXCL to one holder, makes the region they fill. -/
def JoinMakesOneRegion : Prop :=
  ∀ (f : FT) (s s1 : State) (place : Nat) (r u : Region), s.st.guardTrue f.g = true →
    let a := (s.xr f.xa).toNat
    let ls := f.ls.toNat
    s.ownerBase f.space.toNat a = (.at place, s1) → a % 2 ^ ls = 0 → (if Place.base .spad ≤ place ∧ place < Place.base .depot then 11 else 12) < ls →
    tfind s1.regions place = some r → tfind s1.regions (place + 2 ^ (ls - 1)) = some u → r.ls = ls - 1 → u.ls = ls - 1 →
    r.state = .excl → u.state = .excl → r.holder = u.holder → r.holder = streamId s.cur ∨ r.holder = launchId s.launchNo →
    s1.isBlock place ls = true → NothingOnItsWay s1 place ls →
    ∃ t, exec (.ojoin f) s = .next t ∧ OwnerFrame s s1 t [place, place + 2 ^ (ls - 1)] ∧
      tfind t.regions place = some { r with ls := ls } ∧ tfind t.regions (place + 2 ^ (ls - 1)) = none

/-- What each owner instruction makes of a region: `OwnerChanges`, `JoinMakesOneRegion`. -/
def Obligations.OwnerInstructionsChangeRegions : Prop :=
  OwnerChanges ∧ JoinMakesOneRegion

/-- R209, R210, R225, R228, R229: a refused owner instruction changes nothing and raises TOKEN_STATE with its base, the region's
state word and the subcode of the first condition that fails; one whose block has an access on its way that cannot perform yet
waits for it. -/
def OwnerRefusalsChangeNothing : Prop :=
  ∀ (f : FT) (s s1 : State) (place : Nat) (r : Region), s.st.guardTrue f.g = true → s.launch.m.replay = 0 →
    let a := (s.xr f.xa).toNat
    let ls := f.ls.toNat
    let x := (s.xr f.xb).toNat % 2 ^ 32
    let refuses : Instr → Nat → Prop := fun i sub =>
      exec i s = .next (s1.takeTrap s.cur 0 s.st.pc s.st.pc { code := 11, sub := sub, args := [a, s1.wordAt place ls] })
    s.ownerBase f.space.toNat a = (.at place, s1) →
    (a % 2 ^ ls ≠ 0 → ∀ i ∈ [Instr.olend f, .ogive f, .ortrn f, .osplit f, .ojoin f, .oshare f, .odrop f, .oquery f, .oreclaim f], refuses i 1) ∧
    (a % 2 ^ ls = 0 → s1.landFor place ls = none →
      ∀ i ∈ [Instr.olend f, .ogive f, .ortrn f, .osplit f, .ojoin f, .oshare f, .odrop f, .oreclaim f], exec i s = .next s1) ∧
    (a % 2 ^ ls = 0 → NothingOnItsWay s1 place ls → tfind s1.regions place = none →
      ∀ i ∈ [Instr.olend f, .ogive f, .ortrn f, .osplit f, .oshare f, .odrop f, .oreclaim f], refuses i 1) ∧
    (a % 2 ^ ls = 0 → NothingOnItsWay s1 place ls → place % 2 ^ ls ≠ 0 → refuses (.ojoin f) 1) ∧
    (a % 2 ^ ls = 0 → NothingOnItsWay s1 place ls → tfind s1.regions place = some r → r.ls = ls →
      (s1.badId x = true ∨ x = r.holder → refuses (.olend f) 7 ∧ refuses (.ogive f) 7) ∧
      (s1.badId x = false → x ≠ r.holder → r.state = .shared → refuses (.olend f) 4 ∧ refuses (.ogive f) 4) ∧
      (s1.badId x = false → x ≠ r.holder → r.state ≠ .excl → r.state ≠ .shared → refuses (.olend f) 2 ∧ refuses (.ogive f) 2) ∧
      (r.state ≠ .lent → refuses (.ortrn f) 2) ∧ (r.state = .lent → s.launchNo < 2 ^ 14 → idKind r.holder = 2 → refuses (.ortrn f) 3) ∧
      (ls ≤ (if Place.base .spad ≤ place ∧ place < Place.base .depot then 11 else 12) → refuses (.osplit f) 1) ∧
      (s1.badId x = true → refuses (.oshare f) 7) ∧
      (r.state = .excl ∨ r.state = .lent → refuses (.odrop f) 2) ∧
      (r.state ≠ .quarantined → r.state ≠ .orphaned → refuses (.oreclaim f) 2))

/-- R208, R230: OQUERY gives the state word of the region that contains its base, with EXACT only for that base and size. -/
def QueryGivesTheStateWord : Prop :=
  ∀ (f : FT) (s s1 : State) (place b : Nat) (r : Region), s.st.guardTrue f.g = true →
    s.ownerBase f.space.toNat (s.xr f.xa).toNat = (.at place, s1) → (s.xr f.xa).toNat % 2 ^ f.ls.toNat = 0 →
    s1.regionAt place = some (b, r) → r.shares.length < 65536 →
    let state : Nat := match r.state with | .excl => 0 | .shared => 1 | .lent => 2 | .quarantined => 3 | .orphaned => 4
    exec (.oquery f) s = .next ((s1.xw f.xd (BitVec.ofNat 64 (state + (if r.dirtyLost then 2 ^ 3 else 0) +
      (if b = place ∧ r.ls = f.ls.toNat then 2 ^ 4 else 0) + r.ls * 2 ^ 5 + r.shares.length * 2 ^ 16 + r.holder * 2 ^ 32))).advance 8)

/-- Refused owner instructions, and OQUERY: `OwnerRefusalsChangeNothing`, `QueryGivesTheStateWord`. -/
def Obligations.OwnerRefusalsAndQueries : Prop :=
  OwnerRefusalsChangeNothing ∧ QueryGivesTheStateWord

/-- R314, R315: ARNSET takes the 64 bytes at its address as an arena descriptor, or raises FORMAT subcode 56 where R311 does not
allow them; KVADDR adds up the strides of slot, layer, head and position, or, for a position below 128 of an arena with links, takes
its place in the page that a word of the link table names, where that word is not 0; an index past a limit raises ALLOC_BOUNDS. -/
def Obligations.ArenaAddresses : Prop :=
  ∀ (f : FA) (s s1 : State) (place : Nat) (leaf : Leaf), s.st.guardTrue f.g = true → s.st.accesses = [] → s.st.fences = [] →
    let n := f.xc.toNat % 4
    let d := tget 0 s.st.arn n
    let pos := (s.xr f.xa).toNat % 2 ^ 32
    let slot := (s.xr f.xa).toNat / 2 ^ 32
    let layer := (s.xr f.xb).toNat % 2 ^ 16
    let head := (s.xr f.xb).toNat / 2 ^ 16
    let field : Nat → Nat → Nat := fun o k => (d.extractLsb' (8 * o) (8 * k)).toNat
    let atHome := tfind s1.l1 (l1Key (s1.physOf s.cur) place) = none ∧ (s1.linesOf (s1.physOf s.cur)).length < 256 ∧
      place < Place.base .spad ∧ s1.poison = [] ∧ s1.buffersAt (s1.physOf s.cur) place = []
    let linear := field 0 8 + slot * field 8 8 + layer * field 0x10 8 + head * field 0x18 4 + pos * field 0x1C 4
    ((s.xr f.xa).toNat % 64 = 0 → s.locate s.partWho 0 (s.xr f.xa).toNat 64 true false = (.ok place (some leaf) none, s1) →
      atHome → place % 64 = 0 →
      let v := BitVec.ofNat 512 (natLE (s1.bytes place 64))
      (arnOk v = true → ∃ t, exec (.arnset f) s = .next t ∧ t = { s1 with streams := t.streams, l1 := t.l1 } ∧
        (∀ k ≠ s.cur, t.stream k = s.stream k) ∧
        t.st = { s.st with pc := s.st.pc + 8, arn := t.st.arn } ∧ ∀ j, tget 0 t.st.arn j = if j = n then v else tget 0 s.st.arn j) ∧
      (arnOk v = false → ∃ (u : State) (c : Cause), c.code = 4 ∧ c.sub = 56 ∧ u = { s1 with l1 := u.l1 } ∧
        exec (.arnset f) s = .next (u.takeTrap s.cur 0 s.st.pc s.st.pc c))) ∧
    (slot < field 0x24 4 → pos < field 0x20 4 → layer < field 0x28 2 → head < field 0x2A 2 → field 0x30 8 = 0 ∨ 128 ≤ pos →
      exec (.kvaddr f) s = .next ((s.xw f.xd (BitVec.ofNat 64 linear)).advance 8)) ∧
    (slot < field 0x24 4 → pos < field 0x20 4 → layer < field 0x28 2 → head < field 0x2A 2 → field 0x30 8 ≠ 0 → pos < 128 →
      let link := (BitVec.ofNat 64 (field 0x30 8 + 64 * slot + 8 * (pos / 16))).toNat
      link % 8 = 0 → s.locate s.partWho 0 link 8 true false = (.ok place (some leaf) none, s1) → atHome → place % 8 = 0 →
      let w := natLE (s1.bytes place 8)
      ∃ t, exec (.kvaddr f) s = .next t ∧ t = { s1 with streams := t.streams, l1 := t.l1 } ∧ (∀ k ≠ s.cur, t.stream k = s.stream k) ∧
        t.st = { s.st with pc := s.st.pc + 8, x := t.st.x } ∧
        ∀ r, t.xr r = if r = 0 then 0 else if r = f.xd then BitVec.ofNat 64
          (if w = 0 then linear else w + field 0x38 4 + ((layer * field 0x2A 2 + head) * 16 + pos % 16) * field 0x1C 4) else s.xr r) ∧
    (field 0x24 4 ≤ slot ∨ field 0x20 4 ≤ pos ∨ field 0x28 2 ≤ layer ∨ field 0x2A 2 ≤ head →
      ∃ (u : State) (c : Cause), c.code = 14 ∧ u = { s with draws := u.draws } ∧
        exec (.kvaddr f) s = .next (u.takeTrap s.cur 0 s.st.pc s.st.pc c))

/-- An instruction answers the value `v` in XD, in the state `s1` that its checks leave; as it is ordered with its core's earlier
accesses (R193, R332), its core's combining buffers are sent and what follows dirty bytes is noted, and nothing else changes. -/
def AnswersOrdered (s s1 : State) (i : Instr) (xd : BitVec 6) (v : Word) : Prop :=
  let r := (s1.xw xd v).advance 8
  ∃ t, exec i s = .next t ∧ t = { r with mem := t.mem, own := t.own, poison := t.poison, wc := t.wc, l1 := t.l1 } ∧
    (s1.l1 = [] → s1.wc = [] → t = r)

/-- R316 to R319: PFXFIND names a matching entry or answers 2^64 − 1; PFXPIN shares the page of a matching entry with the launch
and answers its address; PFXUNPIN drops that share; an entry that does not match answers 2^64 − 1 or raises TOKEN_STATE 1. -/
def PrefixTableFindsAndPins : Prop :=
  ∀ (f : FA) (s : State), s.st.guardTrue f.g = true → s.launch.m.replay = 0 →
    let hash := s.xr f.xa
    let b := s.xr f.xb
    let asid := s.launch.asid
    let mine := launchId s.launchNo
    (∃ v, exec (.pfxfind f) s = .next ((s.xw f.xd v).advance 8) ∧
      ((∃ e ∈ s.prefixes, e.2.asid = asid ∧ e.2.hash = hash ∧ e.2.len = b.toNat ∧ v = BitVec.ofNat 64 e.1) ∨
        ((∀ e ∈ s.prefixes, ¬ (e.2.asid = asid ∧ e.2.hash = hash ∧ e.2.len = b.toNat)) ∧ v = BitVec.allOnes 64))) ∧
    ((64 ≤ b.toNat ∨ tfind s.prefixes b.toNat = none ∨
        ∃ e, tfind s.prefixes b.toNat = some e ∧ (e.asid ≠ asid ∨ e.hash ≠ hash)) →
      AnswersOrdered s s (.pfxpin f) f.xd (BitVec.allOnes 64) ∧
        ∃ c : Cause, c.code = 11 ∧ c.sub = 1 ∧ exec (.pfxunpin f) s = .next (s.takeTrap s.cur 0 s.st.pc s.st.pc c)) ∧
    ∀ (e : PrefixEntry) (r : Region), b.toNat < 64 → tfind s.prefixes b.toNat = some e → e.asid = asid → e.hash = hash →
      tfind s.regions e.place = some r → r.ls = e.ls → r.holder = Config.prefixId →
      (r.state = .excl ∨ r.state = .shared → (tfind s.launches s.launchNo).isSome = true → s.launchNo < 2 ^ 14 →
        r.shares.length < 65535 → s.room e.place 1 = true →
        ∃ t, exec (.pfxpin f) s = .next t ∧ t.st = { s.st with pc := s.st.pc + 8, x := t.st.x } ∧
          (∀ q, t.xr q = if q = 0 then 0 else if q = f.xd then BitVec.ofNat 64 e.page else s.xr q) ∧
          tfind t.regions e.place = some { r with state := .shared, shares := r.shares ++ [mine] } ∧
          tfind t.prefixes b.toNat = some { e with age := s.prefixSeq + 1 } ∧ t.prefixSeq = s.prefixSeq + 1 ∧
          (∀ n ≠ b.toNat, tfind t.prefixes n = tfind s.prefixes n) ∧ (s.l1 = [] → s.wc = [] → SameMemory s t)) ∧
      (s.inside e.place e.ls = [(e.place, r)] → r.state = .shared → mine ∈ r.shares →
        ∃ t, exec (.pfxunpin f) s = .next t ∧ t.st = { s.st with pc := s.st.pc + 8 } ∧ t.prefixes = s.prefixes ∧
          tfind t.regions e.place = some { r with shares := r.shares.erase mine,
                                                  state := if r.shares.erase mine = [] then .excl else .shared } ∧
          (s.l1 = [] → s.wc = [] → SameMemory s t))

/-- R319: PFXINS refuses a malformed length or size with FORMAT 57, answers 2^64 − 1 for a prefix that is in the table and
2^64 − 2 where nothing can be evicted, and else puts the page into the lowest free entry, EXCL to the prefix table. -/
def PrefixTableInserts : Prop :=
  ∀ (f : FA) (s s1 : State) (place : Nat) (r : Region), s.st.guardTrue f.g = true → s.launch.m.replay = 0 →
    let hash := s.xr f.xa
    let page := (s.xr f.xb).toNat
    let n := (s.xr f.xc).toNat % 2 ^ 16
    let ls := (s.xr f.xc).toNat / 2 ^ 16 % 2 ^ 6
    let asid := s.launch.asid
    let good := (s.xr f.xc).toNat < 2 ^ 22 ∧ n ≠ 0 ∧ n % 16 = 0 ∧ 12 ≤ ls ∧ ls ≤ 40
    let twin := ∃ e ∈ s.prefixes, e.2.asid = asid ∧ e.2.hash = hash ∧ e.2.len = n
    (¬ good → ∃ c : Cause, c.code = 4 ∧ c.sub = 57 ∧ exec (.pfxins f) s = .next (s.takeTrap s.cur 0 s.st.pc s.st.pc c)) ∧
    (good → twin → AnswersOrdered s s (.pfxins f) f.xd (BitVec.allOnes 64)) ∧
    (good → ¬ twin → s.ownerBase 3 page = (.at place, s1) → page % 2 ^ ls = 0 → tfind s1.regions place = some r → r.ls = ls →
      r.state = .excl → r.holder ≠ Config.prefixId → r.holder = streamId s.cur ∨ r.holder = launchId s.launchNo →
      NothingOnItsWay s1 place ls →
      ((∀ j < 64, (tfind s.prefixes j).isSome = true) → (∀ e ∈ s.prefixes, e.2.asid = asid → s1.pins e.2 ≠ 0) →
        AnswersOrdered s s1 (.pfxins f) f.xd (BitVec.allOnes 64 - 1)) ∧
      ∀ j < 64, tfind s.prefixes j = none → (∀ i < j, (tfind s.prefixes i).isSome = true) →
        ∃ t, exec (.pfxins f) s = .next t ∧
          (∀ q, t.xr q = if q = 0 then 0 else if q = f.xd then BitVec.ofNat 64 j else s.xr q) ∧
          tfind t.prefixes j = some { asid := asid, hash := hash, len := n, page := page, ls := ls, ret := s.launch.m.returnto,
                                      place := place, age := s.prefixSeq + 1 } ∧
          (∀ i ≠ j, tfind t.prefixes i = tfind s.prefixes i) ∧ tfind t.regions place = some { r with holder := Config.prefixId } ∧
          (∀ p ≠ place, tfind t.regions p = tfind s1.regions p))

/-- The prefix table instructions: `PrefixTableFindsAndPins`, `PrefixTableInserts`. -/
def Obligations.PrefixTable : Prop :=
  PrefixTableFindsAndPins ∧ PrefixTableInserts

/-- R317: BHASH hashes row XA of a tile after the chain value in XD, and retires its version as a read does. -/
def BlockHash : Prop :=
  ∀ (f : FK) (s : State), s.InWindow (.bhash f) → s.st.guardTrue f.g = true → s.st.ssr.getLsbD 0 = false →
    let o := s.operand f.top true
    let r := (s.xr f.xa).toNat
    let a := tilePlace o.key + 64 * r
    let step : Word → Nat → Word := fun x j =>
      let y := (x ^^^ BitVec.ofNat 64 (s.mem.readLE (a + 4 * j) 4)) * 0xB49E62F107ACD355
      y ^^^ (y >>> 31)
    let h : Word := (List.range 16).foldl step (s.xr f.xd ^^^ 0x5F2A81D4C36E0B19)
    let h : Word := (h ^^^ (h >>> 29)) * 0x93C467E37DB0C7A5
    SourceReady s o → s.poison = [] →
    (r < 32 → ∃ t, exec (.bhash f) s = .next t ∧ OnlyTile s t s.cur o.key ∧ SameMemory s t ∧ t.st.pc = s.st.pc + 8 ∧
      (∀ q, t.xr q = if q = 0 then 0 else if q = f.xd then h ^^^ (h >>> (32 : Nat)) else s.xr q) ∧
      (t.tile o.key).inflight = (s.tile o.key).inflight ∧ (t.tile o.key).count = (s.tile o.key).count) ∧
    (32 ≤ r → ∃ c : Cause, c.code = 5 ∧ c.sub = 5 ∧ exec (.bhash f) s = .next (s.takeTrap s.cur 0 s.st.pc s.st.pc c))

/-- R120, R400, R401: CNTSAVE writes the state words of tiles t0 to t0 + n − 1 into the scratchpad; CNTLOAD of words that set no
reserved bit sets the tiles, which are all at rest, from them; TLBINV removes the translations of a page or of all pages of its
address space, and no others. -/
def CountsAndTranslations : Prop :=
  ∀ (f : FS) (s : State), s.st.guardTrue f.g = true → s.st.accesses = [] → s.st.fences = [] →
    let t0 := f.imm.toNat % 256
    let n := f.imm.toNat / 256 % 256 + 1
    let a := (s.xr f.xa).toNat
    let key : Nat → Nat := fun j => s.tileKey s.cur (t0 + j)
    let word : Nat → Nat := fun j => s.readLE (s.spadPlace s.cur (a + 4 * j)) 4
    (t0 + n ≤ s.launch.m.twin → a % 4 = 0 → a + 4 * n < 2 ^ 20 →
      (∀ j < n, (s.locate s.partWho 1 (a + 4 * j) 4 false true).1 = .ok (s.spadPlace s.cur (a + 4 * j)) none none) →
      ∃ t, exec (.cntsave f) s = .next t ∧ t.st = { s.st with pc := s.st.pc + 8 } ∧ t.tiles = s.tiles ∧
        SameOutside s t (s.spadPlace s.cur a) (4 * n) ∧
        ∀ j < n, t.mem.readLE (s.spadPlace s.cur (a + 4 * j)) 4 =
          (let x := s.tile (key j)
           x.count.toNat + x.quota.toNat * 2 ^ 16 + (if x.skip then 2 ^ 20 else 0) +
            (match x.writer with | some w => w.toNat * 2 ^ 21 + 2 ^ 24 | none => 0))) ∧
    (t0 + n ≤ s.launch.m.twin → a % 4 = 0 → a + 4 * n < 2 ^ 20 →
      (∀ j < n, (s.locate s.partWho 1 (a + 4 * j) 4 true false).1 = .ok (s.spadPlace s.cur (a + 4 * j)) none none) →
      s.poison = [] → (∀ j < n, word j < 2 ^ 25 ∧ s.resettable (key j) = true) →
      ∃ t, exec (.cntload f) s = .next t ∧ t.st = { s.st with pc := s.st.pc + 8 } ∧ SameMemory s t ∧
        (∀ k, (∀ j < n, k ≠ key j) → t.tile k = s.tile k) ∧
        ∀ j < n, (t.tile (key j)).count = BitVec.ofNat 16 (word j) ∧ (t.tile (key j)).quota = BitVec.ofNat 4 (word j / 2 ^ 16) ∧
          ((t.tile (key j)).skip = true ↔ word j / 2 ^ 20 % 2 = 1) ∧
          (t.tile (key j)).writer = if word j / 2 ^ 24 = 1 then some (BitVec.ofNat 3 (word j / 2 ^ 21)) else none) ∧
    ∃ t, exec (.tlbinv f) s = .next t ∧ t.st = { s.st with pc := s.st.pc + 8 } ∧ (∀ k ≠ s.cur, t.stream k = s.stream k) ∧
      t.tiles = s.tiles ∧ t.regions = s.regions ∧ t.spaces = { s.spaces with tlb := t.spaces.tlb } ∧
      (s.l1 = [] → s.wc = [] → SameMemory s t) ∧
      ∀ e : Nat × Leaf, e ∈ t.spaces.tlb ↔ e ∈ s.spaces.tlb ∧ ¬ (e.1 / 2 ^ 36 % 2 ^ 16 = s.launch.asid ∧
        (f.imm = 0 → e.1 % 2 ^ 36 * 4096 / 2 ^ e.2.ls = a / 2 ^ e.2.ls))

/-- BHASH, CNTSAVE, CNTLOAD and TLBINV: `BlockHash`, `CountsAndTranslations`. -/
def Obligations.HashCountsAndTranslations : Prop :=
  BlockHash ∧ CountsAndTranslations

/-! ### Engine queues -/

/-- R79, R114: a long instruction whose guard is true joins the end of its engine's queue with the values it captures, counted;
a full queue stalls the stream; a false guard only advances the PC by 16; a tile outside the window raises ILLEGAL 6. COLL and
COLLSTOP make tests of their own first (CollectivesAreTested). -/
def Obligations.LongInstructionsQueue : Prop :=
  ∀ (i : Instr) (f : FL) (s : State), i.isWord = true → i.long? = some f → i ≠ .coll f → i ≠ .collstop f → s.actor = .sequencer →
    let q := s.st.queue i.unit
    let inside := ∀ t ∈ tilesOf f (i.uses f), topTile t < s.launch.m.twin
    (inside → s.st.guardTrue f.g = true → q.entries.length < 16 →
      ∃ t e, exec i s = .next t ∧ (∀ j ≠ s.cur, t.stream j = s.stream j) ∧ t = { s with streams := t.streams, l1 := t.l1 } ∧
        (i.unit ≠ 3 → t.l1 = s.l1) ∧ t.l1.map Prod.fst = s.l1.map Prod.fst ∧
        (∀ j x, tfind s.l1 j = some x → ∃ y, tfind t.l1 j = some y ∧ y = { x with after := y.after }) ∧
        t.st = { s.st with pc := s.st.pc + 16, u := t.st.u, matrixQ := t.st.matrixQ, vectorQ := t.st.vectorQ,
                           porterQ := t.st.porterQ, assayerQ := t.st.assayerQ } ∧
        t.st.queue i.unit = { q with entries := q.entries ++ [e], appended := q.appended + 1 } ∧
        (∀ u ∈ [1, 2, 3, 4], u ≠ i.unit → t.st.queue u = s.st.queue u) ∧
        e.w0 = i.word0 ∧ e.w1 = i.word1 ∧ e.pc = s.st.pc ∧ e.seq = q.appended ∧ e.xs1 = s.xr f.xs1 ∧ e.xs2 = s.xr f.xs2 ∧
        e.shape = s.st.shape ∧ e.ssr = s.st.ssr ∧
        (topMode f.dt ≠ 2 → e.edt = s.st.kr ((topCsel f.dt).toNat / 4) + BitVec.ofNat 16 ((topCsel f.dt).toNat % 4)) ∧
        (topMode f.dt = 2 → e.edt = (s.xr (topCsel f.dt)).setWidth 16) ∧
        (i = .mma f ∨ i = .mmach f ∨ i = .mmai f → (e.unbound = true ↔ s.st.u = 0) ∧ t.st.u = s.st.u - 1) ∧
        (¬ (i = .mma f ∨ i = .mmach f ∨ i = .mmai f) → e.unbound = false ∧ t.st.u = s.st.u)) ∧
    (inside → s.st.guardTrue f.g = true → 16 ≤ q.entries.length → exec i s = .next s) ∧
    (inside → s.st.guardTrue f.g = false → exec i s = .next (s.advance 16)) ∧
    (¬ inside → exec i s = .next (s.takeTrap s.cur 0 s.st.pc s.st.pc { code := 1, sub := 6, args := [i.word0.toNat, i.word1.toNat] }))

/-! ### Vector instructions -/

/-- A tile operand of a vector entry: its field with the count captured for it. -/
def vecOp (s : State) (top exp : BitVec 16) : Operand := s.entryOp top exp true

/-- R106, R161: the entry `e` at the head of the vector queue may start on its sources, giving `s1` with its admissions and its
reservation made: SHAPE is legal, the type is one of `types`, the view fits a tile, no skip propagates, nothing is poisoned. -/
def VectorReady (s s1 : State) (f : FL) (e : Entry) (srcs : List Operand) (types : List Nat) : Prop :=
  s.AtHead 2 e ∧ shapeReserved e.shape = false ∧ effType f e.shape ∈ types ∧ rowsOk (shapeRows e.shape) = true ∧
    colsOk (shapeCols e.shape) = true ∧ viewBytes (effType f e.shape) (shapeRows e.shape * shapeCols e.shape) ≤ 2048 ∧
    s.startTiles (s.cur * 8 + 2) (strict e.ssr) srcs [s.entryOp f.dt e.edt false] = .starts s1 ∧
    (f.sk = 0 ∨ ∀ o ∈ srcs, o.mode = 0 ∨ (s.tile o.key).skip = false) ∧ s.poison = []

/-- The instruction answers a next state in which its entry has left its queue and runs, holding the one version it is about to
make of DT: element `j` of its view is `val j`, bytes past the view keep their old values, the quota is DQ. -/
def MakesElements (s s1 : State) (i : Instr) (f : FL) (e : Entry) (srcs : List Operand) (val : Nat → Nat) : Prop :=
  let c := effType f e.shape
  let n := shapeRows e.shape * shapeCols e.shape
  let key := s.tileKey s.cur (topTile f.dt)
  ∃ t r v, exec i s = .next t ∧ OnlyStream s1 t s.cur ∧ (t.st.queue 2).entries = (s.st.queue 2).entries.tail ∧
    t.st = { s1.st with vectorQ := t.st.vectorQ, running := s1.st.running ++ [r] } ∧ r.unit = 2 ∧ r.entry = e ∧
    r.marks = srcs.map Operand.key ∧ r.versions = [v] ∧ v.tile = key ∧ v.quota = f.dq ∧ v.skip = false ∧
    (∀ j < n, elemAt (s.mem.patch (tilePlace key) v.bytes) (tilePlace key) c j = val j) ∧ ∀ b ∈ v.bytes, b.1 < viewBytes c n

/-- Element `j` of a source of type `c`. -/
def srcElem (s : State) (top : BitVec 16) (c j : Nat) : Nat := elemAt s.mem (tileRead s top) c j

/-- R166 to R169: VADD, VSUB, VMUL, VFMA, VFMS, VMIN, VMAX, VABS, VNEG, VSCALE and VADDX, element by element: a float result is
rounded once under the captured mode, an integer result is the exact one wrapped, or saturated where SAT is 1. -/
def Obligations.VectorArithmetic : Prop :=
  ∀ (f : FL) (s s1 : State) (e : Entry),
    let c := effType f e.shape
    let t := typeFmt c
    let a := srcElem s f.ta c
    let b := srcElem s f.tb c
    let d := srcElem s f.tc c
    let oa := vecOp s f.ta e.eta
    let ob := vecOp s f.tb e.etb
    let oc := vecOp s f.tc e.etc
    let store := narrow c (f.sat = 1)
    let num := [0, 1, 2, 3, 4, 5, 6, 7]
    (VectorReady s s1 f e [oa, ob] num →
      MakesElements s s1 (.vadd f) f e [oa, ob] (fun j => if c < 2 then (t.add e.rm (t.val (a j)) (t.val (b j))).1 else store (intOf c (a j) + intOf c (b j))) ∧
      MakesElements s s1 (.vsub f) f e [oa, ob] (fun j => if c < 2 then (t.sub e.rm (t.val (a j)) (t.val (b j))).1 else store (intOf c (a j) - intOf c (b j))) ∧
      MakesElements s s1 (.vmul f) f e [oa, ob] (fun j => if c < 2 then (t.mul e.rm (t.val (a j)) (t.val (b j))).1 else store (intOf c (a j) * intOf c (b j))) ∧
      MakesElements s s1 (.vmin f) f e [oa, ob] (fun j => if c < 2 then t.minmax false (a j) (b j) else if intOf c (a j) < intOf c (b j) then a j else b j) ∧
      MakesElements s s1 (.vmax f) f e [oa, ob] (fun j => if c < 2 then t.minmax true (a j) (b j) else if intOf c (a j) < intOf c (b j) then b j else a j)) ∧
    (VectorReady s s1 f e [oa, ob, oc] num →
      MakesElements s s1 (.vfma f) f e [oa, ob, oc] (fun j => if c < 2 then (t.fma e.rm (t.val (a j)) (t.val (b j)) (t.val (d j))).1
        else store (intOf c (a j) * intOf c (b j) + intOf c (d j))) ∧
      MakesElements s s1 (.vfms f) f e [oa, ob, oc] (fun j => if c < 2 then (t.fma e.rm (t.val (a j)) (t.val (b j)) (t.val (d j)).negate).1
        else store (intOf c (a j) * intOf c (b j) - intOf c (d j)))) ∧
    (VectorReady s s1 f e [oa] num →
      MakesElements s s1 (.vabs f) f e [oa] (fun j => if c < 2 then (if t.val (a j) = .nan then t.nanBits else a j % t.signBit)
        else store ((intOf c (a j)).natAbs : Nat)) ∧
      MakesElements s s1 (.vneg f) f e [oa] (fun j => if c < 2 then (if t.val (a j) = .nan then t.nanBits else (a j).xor t.signBit)
        else store (-intOf c (a j))) ∧
      MakesElements s s1 (.vscale f) f e [oa] (fun j => if c < 2 then (t.mul e.rm (t.val (a j)) (f32.val e.xs1.toNat)).1
        else store (intOf c (a j) * e.xs1.toInt))) ∧
    (VectorReady s s1 f e [oa, ob] num → (c, f.opxType) ∈ [(0, 1), (2, 4), (2, 6), (3, 5), (3, 7), (4, 6), (5, 7)] →
      let b' := srcElem s f.tb f.opxType
      MakesElements s s1 (.vaddx f) f e [oa, ob] (fun j => if c < 2 then (t.add e.rm (t.val (a j)) (bf16.val (b' j))).1
        else store (intOf c (a j) + intOf f.opxType (b' j))))

/-- R170, R171: the bitwise functions and shifts by XS1 mod n, the comparisons that write masks, VSEL and VCLAMP with tile or
scalar bounds. -/
def Obligations.VectorBitsAndComparisons : Prop :=
  ∀ (f : FL) (s s1 : State) (e : Entry),
    let c := effType f e.shape
    let w := typeBits c
    let t := typeFmt c
    let a := srcElem s f.ta c
    let b := srcElem s f.tb c
    let d := srcElem s f.tc c
    let oa := vecOp s f.ta e.eta
    let ob := vecOp s f.tb e.etb
    let oc := vecOp s f.tc e.etc
    let k := e.xs1.toNat % w
    let num := [0, 1, 2, 3, 4, 5, 6, 7]
    let mask : Bool → Nat := fun v => if v then 2 ^ w - 1 else 0
    let least : Bool → Nat → Nat → Nat := fun most x y =>
      if c < 2 then t.minmax most x y else if intOf c x < intOf c y ↔ most = false then x else y
    let clamp : Nat → Nat → Nat → Nat := fun x lo hi => if c < 2 ∧ t.val x = .nan then t.nanBits else least false (least true x lo) hi
    (VectorReady s s1 f e [oa, ob] num →
      MakesElements s s1 (.vand f) f e [oa, ob] (fun j => a j &&& b j) ∧ MakesElements s s1 (.vor f) f e [oa, ob] (fun j => a j ||| b j) ∧
      MakesElements s s1 (.vxor f) f e [oa, ob] (fun j => a j ^^^ b j) ∧
      MakesElements s s1 (.vcmpeq f) f e [oa, ob] (fun j => mask (if c < 2 then (t.val (a j)).eq (t.val (b j)) else a j == b j)) ∧
      MakesElements s s1 (.vcmplt f) f e [oa, ob] (fun j => mask (if c < 2 then (t.val (a j)).lt (t.val (b j)) else intOf c (a j) < intOf c (b j))) ∧
      MakesElements s s1 (.vcmple f) f e [oa, ob] (fun j => mask (if c < 2 then (t.val (a j)).le (t.val (b j)) else intOf c (a j) ≤ intOf c (b j)))) ∧
    (VectorReady s s1 f e [oa] num → MakesElements s s1 (.vnot f) f e [oa] (fun j => 2 ^ w - 1 - a j)) ∧
    (VectorReady s s1 f e [oa] [2, 3, 4, 5, 6, 7] →
      MakesElements s s1 (.vshl f) f e [oa] (fun j => a j * 2 ^ k % 2 ^ w) ∧ MakesElements s s1 (.vshr f) f e [oa] (fun j => a j / 2 ^ k) ∧
      MakesElements s s1 (.vsra f) f e [oa] (fun j => ((BitVec.ofNat w (a j)).sshiftRight k).toNat)) ∧
    (VectorReady s s1 f e [oa, ob, oc] num →
      MakesElements s s1 (.vsel f) f e [oa, ob, oc] (fun j => if d j ≠ 0 then a j else b j) ∧
      (f.opx.getLsbD 0 = false → MakesElements s s1 (.vclamp f) f e [oa, ob, oc] (fun j => clamp (a j) (b j) (d j)))) ∧
    (VectorReady s s1 f e [oa] num → f.opx.getLsbD 0 = true →
      MakesElements s s1 (.vclamp f) f e [oa] (fun j => clamp (a j) (e.xs1.toNat % 2 ^ w) (e.xs2.toNat % 2 ^ w)))

/-- R179: VMOV, VFILL, VIOTA, VTRANS, VSHUF, VBCROW and VBCCOL. -/
def VectorMoves : Prop :=
  ∀ (f : FL) (s s1 : State) (e : Entry),
    let c := effType f e.shape
    let rows := shapeRows e.shape
    let cols := shapeCols e.shape
    let a := srcElem s f.ta c
    let oa := vecOp s f.ta e.eta
    let ob := vecOp s f.tb e.etb
    let num := [0, 1, 2, 3, 4, 5, 6, 7]
    let all := [0, 1, 2, 3, 4, 5, 6, 7, 8]
    (VectorReady s s1 f e [oa] all → MakesElements s s1 (.vmov f) f e [oa] a) ∧
    (VectorReady s s1 f e [] all → MakesElements s s1 (.vfill f) f e [] (fun _ => e.xs1.toNat % 2 ^ typeBits c)) ∧
    (VectorReady s s1 f e [] num → MakesElements s s1 (.viota f) f e [] (fun j =>
      let i : Int := if f.iotaKind = 0 then j else if f.iotaKind = 1 then (j / cols : Nat) else if f.iotaKind = 2 then (j % cols : Nat)
        else (j / cols : Nat) - (j % cols : Nat)
      if c < 2 then ((typeFmt c).round e.rm (Val.ofInt (e.xs1.toInt + i))).1 else narrow c (f.sat = 1) (e.xs1.toInt + i))) ∧
    (VectorReady s s1 f e [oa] num →
      (cols ≤ 64 → MakesElements s s1 (.vtrans f) f e [oa] (fun j => a (j % rows * cols + j / rows))) ∧
      MakesElements s s1 (.vbcrow f) f e [oa] (fun j => a (j % cols)) ∧
      MakesElements s s1 (.vbccol f) f e [oa] (fun j => a (j / cols))) ∧
    (VectorReady s s1 f e [oa, ob] num → viewBytes 5 (rows * cols) ≤ 2048 →
      MakesElements s s1 (.vshuf f) f e [oa, ob] (fun j =>
        let x := srcElem s f.tb 5 j
        if x < cols then a (j / cols * cols + x) else 0))

/-- As `MakesElements`, where the view starts at element `first` of DT, whose elements before it keep their values. -/
def MakesElementsAt (s s1 : State) (i : Instr) (f : FL) (e : Entry) (srcs : List Operand) (first : Nat) (val : Nat → Nat) : Prop :=
  let c := effType f e.shape
  let n := shapeRows e.shape * shapeCols e.shape
  let key := s.tileKey s.cur (topTile f.dt)
  ∃ t r v, exec i s = .next t ∧ OnlyStream s1 t s.cur ∧ (t.st.queue 2).entries = (s.st.queue 2).entries.tail ∧
    t.st = { s1.st with vectorQ := t.st.vectorQ, running := s1.st.running ++ [r] } ∧ r.unit = 2 ∧ r.entry = e ∧
    r.marks = srcs.map Operand.key ∧ r.versions = [v] ∧ v.tile = key ∧ v.quota = f.dq ∧ v.skip = false ∧
    (∀ j < n, elemAt (s.mem.patch (tilePlace key) v.bytes) (tilePlace key) c (first + j) = val j) ∧
    (∀ j < first, elemAt (s.mem.patch (tilePlace key) v.bytes) (tilePlace key) c j = elemAt s.mem (tilePlace key) c j) ∧
    ∀ b ∈ v.bytes, b.1 < viewBytes c (first + n)

/-- R172 to R176: VCVT without and with a scale, VQUANT and VDEQ by the scales of blocks of 32 columns, whose narrow side, the
destination of the first two and the source of the third, starts at the row that XS2 names; a code of CB4 goes through the codebook that
IMM12 names. -/
def VectorConversions : Prop :=
  ∀ (f : FL) (s s1 : State) (e : Entry),
    let d := effType f e.shape
    let c := f.opxType
    let rows := shapeRows e.shape
    let cols := shapeCols e.shape
    let o := e.xs2.toNat
    let blocks := (cols + 31) / 32
    let book := (f.imm.extractLsb' 0 6).toNat
    let cb := tget 0 s.codebooks (s.coreKeyOf s.cur * 64 + book)
    let code := (f.imm.extractLsb' 6 4).toNat
    let a := srcElem s f.ta c
    let scale := fun j => bf16.val (srcElem s f.tb 1 (j / cols * blocks + j % cols / 32))
    let oa := vecOp s f.ta e.eta
    let ob := vecOp s f.tb e.etb
    let value : Nat → Val := fun x => if c < 2 then (typeFmt c).val x else if c = 8 then cbEntry cb x else Val.ofInt (intOf c x)
    let thin : Nat → Prop := fun k => viewBytes k ((o + rows) * cols) ≤ 2048
    o + rows ≤ 64 → c < 9 → (d = 8 ∨ c = 8 → book < s.launch.m.ncb) → convOk f d c = true →
    (viewBytes c (rows * cols) ≤ 2048 → thin d → VectorReady s s1 f e [oa] [0, 1, 2, 3, 4, 5, 6, 7, 8] →
      (2 ≤ c → c < 8 → 2 ≤ d → d < 8 → f.opx.getLsbD 4 = false →
        MakesElementsAt s s1 (.vcvt f) f e [oa] (o * cols) (fun j => narrow d (f.sat = 1) (intOf c (a j)))) ∧
      ((c < 2 ∨ c = 8 ∨ d < 2 ∨ d = 8) → f.opx.getLsbD 4 = false →
        MakesElementsAt s s1 (.vcvt f) f e [oa] (o * cols) (fun j => (conv e.rm cb code d (value (a j)).toQuot).1)) ∧
      (f.opx.getLsbD 4 = true →
        MakesElementsAt s s1 (.vcvt f) f e [oa] (o * cols) (fun j => (conv e.rm cb code d (quotDiv (value (a j)) (f32.val e.xs1.toNat)).1).1))) ∧
    (viewBytes 1 (rows * blocks) ≤ 2048 →
      (viewBytes c (rows * cols) ≤ 2048 → thin d → VectorReady s s1 f e [oa, ob] [4, 5, 6, 7, 8] →
        MakesElementsAt s s1 (.vquant f) f e [oa, ob] (o * cols)
          (fun j => (conv e.rm cb code d (quotDiv ((typeFmt c).val (a j)) (scale j)).1).1)) ∧
      (thin c → VectorReady s s1 f e [oa, ob] [0, 1] →
        MakesElements s s1 (.vdeq f) f e [oa, ob] (fun j => (conv e.rm cb 0 d (quotMul (value (a (o * cols + j))) (scale j)).1).1)))

/-- The number that an exact quotient stands for. -/
def quotient : Quot → Rat
  | .rat neg n d => (if neg then -1 else 1) * ((n : Rat) / (d : Rat))
  | _ => 0

/-- R140, R174, R176: a value divided by a scale, or multiplied by one, is the exact quotient or product, whose sign is the exclusive or
of the two; the special operands settle as FDIV settles them, and as R176 says of the product. -/
def QuotientsAreExact : Prop :=
  ∀ (p q : Bool) (n m : Nat) (e g : Int) (v : Val),
    let a := Val.fin p n e
    let b := Val.fin q m g
    (∃ x d, a.toQuot = .rat p x d ∧ d ≠ 0 ∧ quotient a.toQuot = exactly a) ∧
    (v = .nan → quotDiv v b = (.nan, 0) ∧ quotDiv b v = (.nan, 0) ∧ quotMul v b = (.nan, 0) ∧ quotMul b v = (.nan, 0)) ∧
    (m ≠ 0 → ∃ x d, quotDiv a b = (.rat (p != q) x d, 0) ∧ d ≠ 0 ∧ quotient (.rat (p != q) x d) = exactly a / exactly b) ∧
    (m = 0 → n = 0 → quotDiv a b = (.nan, flagInv)) ∧ (m = 0 → n ≠ 0 → quotDiv a b = (.inf (p != q), flagDz)) ∧
    quotDiv (.inf p) (.inf q) = (.nan, flagInv) ∧ quotDiv (.inf p) b = (.inf (p != q), 0) ∧
    (∃ d, quotDiv a (.inf q) = (.rat (p != q) 0 d, 0) ∧ d ≠ 0) ∧
    (∃ x d, quotMul a b = (.rat (p != q) x d, 0) ∧ d ≠ 0 ∧ quotient (.rat (p != q) x d) = exactly a * exactly b) ∧
    (m = 0 → quotMul (.inf p) b = (.nan, flagInv) ∧ quotMul b (.inf p) = (.nan, flagInv)) ∧
    (m ≠ 0 → quotMul (.inf p) b = (.inf (p != q), 0) ∧ quotMul b (.inf p) = (.inf (q != p), 0)) ∧
    quotMul (.inf p) (.inf q) = (.inf (p != q), 0)

/-- R172: `v` is the integer that a number rounds to under a mode. -/
def RoundsTo (mode : Mode) (x : Rat) (v : Int) : Prop :=
  (mode = 0 → x - (v : Rat) ≤ 1 / 2 ∧ (v : Rat) - x ≤ 1 / 2 ∧ (x - (v : Rat) = 1 / 2 ∨ (v : Rat) - x = 1 / 2 → v % 2 = 0)) ∧
  (mode = 1 → (0 ≤ x → (v : Rat) ≤ x ∧ x < (v : Rat) + 1) ∧ (x < 0 → x ≤ (v : Rat) ∧ (v : Rat) - 1 < x)) ∧
  (mode = 2 → x ≤ (v : Rat) ∧ (v : Rat) - 1 < x) ∧ (mode = 3 → (v : Rat) ≤ x ∧ x < (v : Rat) + 1)

/-- R84, R172: a quotient stored in a float type is rounded once; in an integer type it is rounded to an integer, a NaN giving 0 and what
lies outside the range its nearest end, both with INV, and an inexact one INX; in CB4 it is the code of the nearest entry of the codebook
that is no NaN, the lowest of equally near ones, with INX unless the entry equals it, and the NaN code for a NaN or where every entry is one. -/
def ConversionsRoundOnce : Prop :=
  ∀ (mode : Mode) (cb : BitVec 256) (code d num den : Nat) (neg : Bool), den ≠ 0 →
    let q := Quot.rat neg num den
    let x := quotient q
    let into : Quot → Nat × BitVec 6 := conv mode cb code d
    let w := typeBits d
    let lo : Int := if typeSigned d then -2 ^ (w - 1) else 0
    let hi : Int := if typeSigned d then 2 ^ (w - 1) - 1 else 2 ^ w - 1
    let bits : Int → Nat := fun v => (v % 2 ^ w).toNat
    let entry := cbEntry cb
    let real : Nat → Prop := fun i => i < 16 ∧ entry i ≠ .nan
    let finite : Nat → Prop := fun i => real i ∧ (entry i).isInf = false
    let far : Nat → Rat := fun i => if exactly (entry i) ≤ x then x - exactly (entry i) else exactly (entry i) - x
    let k := (into q).1
    (d < 2 → into q = (typeFmt d).roundFrac mode neg num den ∧ into .nan = ((typeFmt d).nanBits, 0) ∧
      into (.inf neg) = ((typeFmt d).signed neg (typeFmt d).infBits, 0)) ∧
    (2 ≤ d → d < 8 → into .nan = (0, flagInv) ∧ into (.inf neg) = (bits (if neg then lo else hi), flagInv) ∧
      ∃ v, RoundsTo mode x v ∧ into q = if v < lo then (bits lo, flagInv) else if hi < v then (bits hi, flagInv)
        else (bits v, if (v : Rat) = x then 0 else flagInx)) ∧
    (d = 8 → into .nan = (code, 0) ∧
      ((∀ i, ¬ real i) → k = code ∧ (into (.inf neg)).1 = code) ∧
      ((∃ i, finite i) → finite k ∧ (∀ i, finite i → far k ≤ far i ∧ (i < k → far k < far i)) ∧
        (into q).2 = (if exactly (entry k) = x then 0 else flagInx)) ∧
      ((∃ i, real i) → (∀ i, ¬ finite i) → real k ∧ (∀ i < k, ¬ real i) ∧ (into q).2 = flagInx) ∧
      ((∃ i, real i) →
        let j := (into (.inf neg)).1
        let before : Nat → Nat → Bool := fun i j => if neg then (entry i).lt (entry j) else (entry j).lt (entry i)
        real j ∧ (∀ i, real i → before i j = false ∧ (i < j → before j i = true)) ∧
          (into (.inf neg)).2 = (if entry j = .inf neg then 0 else flagInx)))

/-- R177, R178: each special function acts on every element; its special inputs give the results of R178's table, and the
reciprocal and the root are rounded as the scalar division and root are. -/
def Obligations.SpecialFunctions : Prop :=
  (∀ (f : FL) (s s1 : State) (e : Entry), VectorReady s s1 f e [vecOp s f.ta e.eta] [0, 1] →
    ∀ fn i, (i, fn) ∈ [(Instr.vrcp f, 0), (.vrsqrt f, 1), (.vsqrt f, 2), (.vexp2 f, 3), (.vexp f, 4), (.vlog2 f, 5), (.vlog f, 6),
        (.vsin f, 7), (.vcos f, 8), (.vtanh f, 9), (.vsigm f, 10), (.verf f, 11)] →
      MakesElements s s1 i f e [vecOp s f.ta e.eta]
        (fun j => (sfu fn (typeFmt (effType f e.shape)) (srcElem s f.ta (effType f e.shape) j)).1)) ∧
  ∀ t ∈ [f32, bf16],
    let inf := t.infBits
    let neg : Nat → Nat := fun x => x + t.signBit
    let one := t.bias * 2 ^ (t.p - 1)
    let half := (t.bias - 1) * 2 ^ (t.p - 1)
    let big := (t.bias + 20) * 2 ^ (t.p - 1)
    let nan := (t.nanBits, (0 : BitVec 6))
    let bad := (t.nanBits, flagInv)
    (∀ fn < 12, sfu fn t t.nanBits = nan) ∧
    sfu 0 t 0 = (inf, flagDz) ∧ sfu 0 t (neg 0) = (neg inf, flagDz) ∧ sfu 0 t inf = (0, 0) ∧ sfu 0 t (neg inf) = (neg 0, 0) ∧
    sfu 1 t 0 = (inf, flagDz) ∧ sfu 1 t (neg 0) = (neg inf, flagDz) ∧ sfu 1 t inf = (0, 0) ∧ sfu 1 t (neg inf) = bad ∧
    sfu 2 t 0 = (0, 0) ∧ sfu 2 t (neg 0) = (neg 0, 0) ∧ sfu 2 t inf = (inf, 0) ∧ sfu 2 t (neg inf) = bad ∧
    (∀ fn ∈ [3, 4], sfu fn t 0 = (one, 0) ∧ sfu fn t (neg 0) = (one, 0) ∧ sfu fn t inf = (inf, 0) ∧ sfu fn t (neg inf) = (0, 0)) ∧
    (∀ fn ∈ [5, 6], sfu fn t 0 = (neg inf, flagDz) ∧ sfu fn t (neg 0) = (neg inf, flagDz) ∧ sfu fn t inf = (inf, 0) ∧
      sfu fn t (neg inf) = bad ∧ sfu fn t one = (0, 0)) ∧
    (∀ fn ∈ [1, 2, 5, 6], ∀ x, t.signBit < x → x < neg inf → sfu fn t x = bad) ∧
    (∀ fn ∈ [7, 8], sfu fn t inf = (t.nanBits, flagRange ||| flagInv) ∧ sfu fn t (neg inf) = (t.nanBits, flagRange ||| flagInv) ∧
      ∀ x, big ≤ x → x < inf → sfu fn t x = (t.nanBits, flagRange) ∧ sfu fn t (neg x) = (t.nanBits, flagRange)) ∧
    sfu 7 t 0 = (0, 0) ∧ sfu 8 t 0 = (one, 0) ∧ sfu 9 t 0 = (0, 0) ∧ sfu 10 t 0 = (half, 0) ∧ sfu 11 t 0 = (0, 0) ∧
    sfu 7 t (neg 0) = (neg 0, 0) ∧ sfu 8 t (neg 0) = (one, 0) ∧ sfu 9 t (neg 0) = (neg 0, 0) ∧ sfu 9 t inf = (one, 0) ∧
    sfu 9 t (neg inf) = (neg one, 0) ∧ sfu 10 t (neg 0) = (half, 0) ∧ sfu 10 t inf = (one, 0) ∧ sfu 10 t (neg inf) = (0, 0) ∧
    sfu 11 t (neg 0) = (neg 0, 0) ∧ sfu 11 t inf = (one, 0) ∧ sfu 11 t (neg inf) = (neg one, 0) ∧
    ∀ x, t.val x ≠ .nan → sfu 2 t x = t.sqrt 0 (t.val x) ∧ sfu 0 t x = t.div 0 (.fin false 1 0) (t.val x)

/-- The instruction answers a next state in which its entry has left its queue and runs, having computed nothing: it is to set no flag
and to make skipped versions of `dsts`; `pops` words of FQ are gone, and nothing else of the stream, its accumulators among it, differs
from what the admissions left. -/
def SkipsOver (s s1 : State) (i : Instr) (unit : Nat) (f : FL) (dsts : List Operand) (pops : Nat) : Prop :=
  ∃ t r, exec i s = .next t ∧ t = { s1 with streams := t.streams, traceBufs := t.traceBufs } ∧ (pops = 0 → t.traceBufs = s1.traceBufs) ∧
    (∀ k ≠ s.cur, t.stream k = s1.stream k) ∧ (t.st.queue unit).entries = (s.st.queue unit).entries.tail ∧
    t.st = { s1.st.setQueue unit (t.st.queue unit) with running := s1.st.running ++ [r], fq := s.st.fq.drop pops,
                                                        fqpos := s.st.fqpos + BitVec.ofNat 32 pops } ∧
    r.flags = 0 ∧ r.codebook = none ∧
    r.versions = dsts.map fun o => { tile := o.key, bytes := [], quota := f.dq, skip := true }

/-- R106, R111: the entry `e` at the head of the queue of an engine may start on its tiles, giving `s1`, and is to propagate a skip: SK is
1, and a counted source of its is skipped. -/
def Skips (s s1 : State) (unit : Nat) (f : FL) (e : Entry) (srcs dsts : List Operand) : Prop :=
  s.AtHead unit e ∧ s.startTiles (s.cur * 8 + unit) (strict e.ssr) srcs dsts = .starts s1 ∧ f.sk = 1 ∧
    ∃ o ∈ srcs, o.mode ≠ 0 ∧ (s.tile o.key).skip = true

/-- R111: every vector entry with SK that meets a skipped source makes a skipped version of its destination and computes nothing. -/
def VectorSkipsPropagate : Prop :=
  ∀ (f : FL) (s s1 : State) (e : Entry),
    let c := effType f e.shape
    let rows := shapeRows e.shape
    let cols := shapeCols e.shape
    let oa := vecOp s f.ta e.eta
    let ob := vecOp s f.tb e.etb
    let oc := vecOp s f.tc e.etc
    let num := [0, 1, 2, 3, 4, 5, 6, 7]
    let passOn : List Operand → List Nat → List Instr → Prop := fun srcs types is =>
      Skips s s1 2 f e srcs [s.entryOp f.dt e.edt false] → c ∈ types → ∀ i ∈ is, SkipsOver s s1 i 2 f [s.entryOp f.dt e.edt false] 0
    shapeReserved e.shape = false → rowsOk rows = true → colsOk cols = true → viewBytes c (rows * cols) ≤ 2048 →
    passOn [oa] num [.vabs f, .vneg f, .vscale f, .vnot f, .vbcrow f, .vbccol f] ∧
    (f.opx.getLsbD 0 = true → passOn [oa] num [.vclamp f]) ∧ (cols ≤ 64 → passOn [oa] num [.vtrans f]) ∧
    passOn [oa] [2, 3, 4, 5, 6, 7] [.vshl f, .vshr f, .vsra f] ∧
    passOn [oa] [0, 1] [.vrcp f, .vrsqrt f, .vsqrt f, .vexp2 f, .vexp f, .vlog2 f, .vlog f, .vsin f, .vcos f, .vtanh f, .vsigm f, .verf f] ∧
    passOn [oa] [0, 1, 2, 3, 4, 5, 6, 7, 8] [.vmov f] ∧
    passOn [oa, ob] num [.vadd f, .vsub f, .vmul f, .vmin f, .vmax f, .vand f, .vor f, .vxor f, .vcmpeq f, .vcmplt f, .vcmple f] ∧
    ((c, f.opxType) ∈ [(0, 1), (2, 4), (2, 6), (3, 5), (3, 7), (4, 6), (5, 7)] → passOn [oa, ob] num [.vaddx f]) ∧
    (viewBytes 5 (rows * cols) ≤ 2048 → passOn [oa, ob] num [.vshuf f]) ∧
    passOn [oa, ob, oc] num [.vfma f, .vfms f, .vsel f] ∧ (f.opx.getLsbD 0 = false → passOn [oa, ob, oc] num [.vclamp f]) ∧
    (let k := f.opxType
     let o := e.xs2.toNat
     o + rows ≤ 64 → k < 9 → (c = 8 ∨ k = 8 → (f.imm.extractLsb' 0 6).toNat < s.launch.m.ncb) → convOk f c k = true →
      (viewBytes k (rows * cols) ≤ 2048 → viewBytes c ((o + rows) * cols) ≤ 2048 → passOn [oa] [0, 1, 2, 3, 4, 5, 6, 7, 8] [.vcvt f]) ∧
      (viewBytes 1 (rows * ((cols + 31) / 32)) ≤ 2048 →
        (viewBytes k (rows * cols) ≤ 2048 → viewBytes c ((o + rows) * cols) ≤ 2048 → passOn [oa, ob] [4, 5, 6, 7, 8] [.vquant f]) ∧
        (viewBytes k ((o + rows) * cols) ≤ 2048 → passOn [oa, ob] [0, 1] [.vdeq f])))

/-- R111, R276: a matrix entry with SK that meets a skipped source leaves every accumulator as it was; MMA, MMACH and MMAI pop their
format word. -/
def MatrixSkipsPropagate : Prop :=
  ∀ (f : FL) (s s1 : State) (e : Entry) (w : Word) (ws : List Word),
    let oa := s.entryOp f.ta e.eta true
    let ob := s.entryOp f.tb e.etb true
    let oc := s.entryOp f.tc e.etc true
    let twin : Operand := { oa with key := oa.key + 1, num := oa.num + 1 }
    let apart := topTile f.ta / 32 ≠ topTile f.tb / 32
    let books := (w.extractLsb' 8 6).toNat < s.launch.m.ncb ∧ (w.extractLsb' 14 6).toNat < s.launch.m.ncb
    let passOn : List Operand → Instr → Nat → Prop := fun srcs i pops => Skips s s1 1 f e srcs [] → SkipsOver s s1 i 1 f [] pops
    (s.st.fq = w :: ws → e.unbound = false → w.extractLsb' 28 4 = 0 → w.getLsbD 22 = false →
      (apart → w.extractLsb' 0 21 = 0 → w.getLsbD 23 = false → f.opx.getLsbD 0 = false → passOn [oa, ob] (.mma f) 1) ∧
      (apart → w.extractLsb' 0 8 = 0x11 → books → w.getLsbD 23 = false →
        (w.getLsbD 20 = false → f.opx.getLsbD 0 = false → passOn [oa, ob] (.mma f) 1) ∧
        (w.getLsbD 20 = true → f.opx.getLsbD 0 = true → topTile f.ta / 32 ≠ topTile f.tc / 32 →
          topTile f.tb / 32 ≠ topTile f.tc / 32 → passOn [oa, ob, oc] (.mma f) 1)) ∧
      (s.st.lastDrained ≠ none → w.extractLsb' 0 21 = 0 → w.getLsbD 23 = false → passOn [ob] (.mmach f) 1) ∧
      (apart → w.extractLsb' 0 21 = 0x22 → w.getLsbD 23 = f.sat.getLsbD 0 → passOn [oa, ob] (.mmai f) 1)) ∧
    (f.opxType = 0 ∨ f.opxType = 2 → passOn [oa, twin] (.mldacc f) 0) ∧ (f.opxType = 1 ∨ f.opxType = 6 → passOn [oa] (.mldacc f) 0)

/-- R111: an Assayer entry with SK whose operands pass R300, and that meets a skipped source, makes skipped versions and computes
nothing. -/
def AssayerSkipsPropagate : Prop :=
  ∀ (f : FL) (s s1 : State) (e : Entry),
    let a := s.mem.readLE (tileRead s f.ta) 2048
    let b := s.mem.readLE (tileRead s f.tb) 2048
    let aa := s.mem.readLE (tileRead s f.ta) 4096
    let bb := s.mem.readLE (tileRead s f.tb) 4096
    let d := s.entryOp f.dt e.edt false
    let oa := s.entryOp f.ta e.eta true
    let ob := s.entryOp f.tb e.etb true
    let twin : Operand → Operand := fun o => { o with key := o.key + 1, num := o.num + 1 }
    let fits : List Nat → Prop := fun types => shapeReserved e.shape = false ∧ shapeType e.shape ∈ types ∧ rowsOk (shapeRows e.shape) = true ∧
      colsOk (shapeCols e.shape) = true ∧ viewBytes (shapeType e.shape) (shapeRows e.shape * shapeCols e.shape) ≤ 2048
    let quiet := fieldOf aa 1 1 % 4 ≠ 2 ∨ s.launch.m.replay = 0
    let passOn : List Operand → List Operand → Instr → Prop := fun srcs dsts i => Skips s s1 4 f e srcs dsts → SkipsOver s s1 i 4 f dsts 0
    (sketchCheck aa = none → quiet →
      (fits [0, 1] → passOn [oa, twin oa, ob] [d, twin d] (.qadd f)) ∧
      (sketchCheck bb = none → passOn [oa, twin oa, ob, twin ob] [d, twin d] (.qmerge f))) ∧
    (sketchCheck aa = none → passOn [oa, twin oa] [d] (.qquant f) ∧ passOn [oa, twin oa] [d] (.qrank f)) ∧
    (hitterCheck a = none → (fits [0, 1, 2, 3, 4, 5, 6, 7] → passOn [oa, ob] [d] (.hadd f)) ∧ passOn [oa] [d] (.htop f) ∧
      (hitterCheck b = none → passOn [oa, ob] [d] (.hmerge f))) ∧
    (registerCheck a = none → (fits [0, 1, 2, 3, 4, 5, 6, 7] → passOn [oa, ob] [d] (.dadd f)) ∧ passOn [oa] [d] (.dcest f) ∧
      (registerCheck b = none → passOn [oa, ob] [d] (.dmerge f))) ∧
    (fits [0, 1, 2, 4, 5, 6, 7] → passOn [oa, ob] [d] (.msum f) ∧
      (e.xs2.toNat + shapeRows e.shape ≤ 64 → passOn [oa, ob] [d] (.msrow f))) ∧
    (fits [0, 1] → e.xs2.toNat + shapeRows e.shape ≤ 256 → passOn [oa, ob] [d] (.lserow f)) ∧
    passOn [oa, ob] [d] (.msmerge f) ∧ passOn [oa, ob] [d] (.lsemerge f) ∧ passOn [oa] [d] (.sread f)

/-- R111: skips propagate through the entries of the three engines that take SK: `VectorSkipsPropagate`, `MatrixSkipsPropagate`,
`AssayerSkipsPropagate`. -/
def SkipsPropagate : Prop :=
  VectorSkipsPropagate ∧ MatrixSkipsPropagate ∧ AssayerSkipsPropagate

/-- Vector moves, conversions and what they round, and propagated skips: `VectorMoves`, `VectorConversions`, `QuotientsAreExact`,
`ConversionsRoundOnce`, `SkipsPropagate`. -/
def Obligations.VectorMovesAndConversions : Prop :=
  VectorMoves ∧ VectorConversions ∧ QuotientsAreExact ∧ ConversionsRoundOnce ∧ SkipsPropagate

/-! ### The matrix engine -/

/-- R106, R267 to R270: the entry `e` at the head of the matrix queue may start on its tiles, giving `s1`; no skip propagates and
nothing is poisoned. -/
def MatrixReady (s s1 : State) (f : FL) (e : Entry) (srcs dsts : List Operand) : Prop :=
  s.AtHead 1 e ∧ s.startTiles (s.cur * 8 + 1) (strict e.ssr) srcs dsts = .starts s1 ∧ s.poison = [] ∧
    (f.sk = 0 ∨ ∀ o ∈ srcs, o.mode = 0 ∨ (s.tile o.key).skip = false)

/-- Word `32m + n` of an accumulator. -/
def accWord (t : Stream) (a m n : Nat) : Nat := (tget 0 t.acc (1024 * a + 32 * m + n)).toNat

/-- The instruction answers a next state in which the entry runs, the accumulator `a` holds `val m n` at row m and column n, the
other accumulators, the tiles and memory stand as after the admissions, and `pops` words of FQ are gone. -/
def MakesAccumulator (s s1 : State) (i : Instr) (e : Entry) (srcs : List Operand) (a pops : Nat) (val : Nat → Nat → Nat) : Prop :=
  ∃ t r, exec i s = .next t ∧ t = { s1 with streams := t.streams, traceBufs := t.traceBufs } ∧
    (∀ k ≠ s.cur, t.stream k = s1.stream k) ∧ (t.st.queue 1).entries = (s.st.queue 1).entries.tail ∧
    t.st = { s1.st with matrixQ := t.st.matrixQ, running := s1.st.running ++ [r], acc := t.st.acc, fq := s.st.fq.drop pops,
                        fqpos := s.st.fqpos + BitVec.ofNat 32 pops } ∧
    r.entry = e ∧ r.marks = srcs.map Operand.key ∧ r.versions = [] ∧
    (∀ m < 32, ∀ n < 32, accWord t.st a m n = val m n) ∧
    ∀ b < 4, b ≠ a → ∀ m < 32, ∀ n < 32, accWord t.st b m n = accWord s.st b m n

/-- R272: what a block of 32 products comes to, with its flags: NaN without a flag for a NaN operand or scale; NaN with INV for an infinite
scale, a zero times an infinity, infinities of both signs, or an infinity times a zero scale; an infinity where a product is one; else
the exact sum of the products times the scales, a zero with the sign that R83 and the scales give it. -/
def BlockValue (a b : List Val) (sa sb v : Val) (fl : BitVec 6) : Prop :=
  let ps := a.zip b
  let bad := Val.nan ∈ a ∨ Val.nan ∈ b ∨ sa = .nan ∨ sb = .nan
  let wide := sa.isInf = true ∨ sb.isInf = true
  let mixed := ∃ p ∈ ps, (p.1.isZero = true ∧ p.2.isInf = true) ∨ (p.1.isInf = true ∧ p.2.isZero = true)
  let holds : Bool → Prop := fun neg => ∃ p ∈ ps, (p.1.isInf = true ∨ p.2.isInf = true) ∧ (p.1.neg != p.2.neg) = neg
  let sum : Rat := (ps.map fun p => exactly p.1 * exactly p.2).sum
  let below : Prop := sum < 0 ∨ (sum = 0 ∧ ∀ p ∈ ps, (p.1.isZero = true ∨ p.2.isZero = true) ∧ (p.1.neg != p.2.neg) = true)
  (bad → v = .nan ∧ fl = 0) ∧
  (¬ bad → wide ∨ mixed ∨ (holds true ∧ holds false) → v = .nan ∧ fl = flagInv) ∧
  (¬ bad → ¬ wide → ¬ mixed → ∀ neg, holds neg → ¬ holds (!neg) →
    if sa.isZero = true ∨ sb.isZero = true then v = .nan ∧ fl = flagInv else v = .inf ((neg != sa.neg) != sb.neg) ∧ fl = 0) ∧
  (¬ bad → ¬ wide → ¬ mixed → ¬ holds true → ¬ holds false →
    fl = 0 ∧ ∃ neg n x, v = .fin neg n x ∧ exactly v = sum * exactly sa * exactly sb ∧ (neg = true ↔ (below ↔ sa.neg = sb.neg)))

/-- R271: a block's update of an accumulator word is rne32(acc + rne32(v)) of its block value v, with the flags of all three. -/
def BlocksRoundTwice : Prop :=
  ∀ (w : Nat) (a b : List Val) (sa sb : Val), a.length = 32 → b.length = 32 →
    ∃ v fl, BlockValue a b sa sb v fl ∧
      let r := f32.round 0 v
      let x := f32.add 0 (f32.val w) (f32.val r.1)
      blockStep w a b sa sb = (x.1, fl ||| r.2 ||| x.2)

/-- R268, R271, R272, R274, R276, R277: MMA of BF16 and of CB4 operands with or without block scales, MMACH on the last drained
accumulator, and MMAI: each result word takes its blocks in ascending order, from 0 where ACCMODE is 1, and one format word is
popped. Every rounding is to nearest even, whatever SHAPE says. -/
def ProductsAccumulate : Prop :=
  ∀ (f : FL) (s s1 : State) (e : Entry) (w : Word) (ws : List Word),
    let acc := f.sub.toNat % 4
    let oa := s.entryOp f.ta e.eta true
    let ob := s.entryOp f.tb e.etb true
    let oc := s.entryOp f.tc e.etc true
    let pa := tileRead s f.ta
    let pb := tileRead s f.tb
    let pc := tileRead s f.tc
    let old : Nat → Nat → Nat := fun m n => if w.extractLsb' 21 2 = 1 then 0 else accWord s.st acc m n
    let bf : Nat → Nat → List Val := fun p r => (List.range 32).map fun k => bf16.val (elemAt s.mem p 1 (32 * r + k))
    let cb : Nat → Nat → Nat → Nat → List Val := fun p book r kb => (List.range 32).map fun k =>
      bf16.val ((tget 0 s.codebooks (s.coreKeyOf s.cur * 64 + book)).extractLsb' (16 * elemAt s.mem p 8 (128 * r + 32 * kb + k)) 16).toNat
    let unit := Val.fin false 1 0
    let clear := w.extractLsb' 28 4 = 0 ∧ w.getLsbD 22 = false
    let apart := topTile f.ta / 32 ≠ topTile f.tb / 32
    let books := (w.extractLsb' 8 6).toNat < s.launch.m.ncb ∧ (w.extractLsb' 14 6).toNat < s.launch.m.ncb
    s.st.fq = w :: ws → e.unbound = false → clear →
    (MatrixReady s s1 f e [oa, ob] [] → apart → w.extractLsb' 0 21 = 0 → w.getLsbD 23 = false → f.opx.getLsbD 0 = false →
      MakesAccumulator s s1 (.mma f) e [oa, ob] acc 1 fun m n => (blockStep (old m n) (bf pa m) (bf pb n) unit unit).1) ∧
    (w.extractLsb' 0 8 = 0x11 → apart → books → w.getLsbD 23 = false →
      let ba := (w.extractLsb' 8 6).toNat
      let bb := (w.extractLsb' 14 6).toNat
      (MatrixReady s s1 f e [oa, ob] [] → w.getLsbD 20 = false → f.opx.getLsbD 0 = false →
        MakesAccumulator s s1 (.mma f) e [oa, ob] acc 1 fun m n =>
          (List.range 4).foldl (fun x kb => (blockStep x (cb pa ba m kb) (cb pb bb n kb) unit unit).1) (old m n)) ∧
      (MatrixReady s s1 f e [oa, ob, oc] [] → w.getLsbD 20 = true → f.opx.getLsbD 0 = true →
        topTile f.ta / 32 ≠ topTile f.tc / 32 → topTile f.tb / 32 ≠ topTile f.tc / 32 →
        MakesAccumulator s s1 (.mma f) e [oa, ob, oc] acc 1 fun m n =>
          (List.range 4).foldl (fun x kb => (blockStep x (cb pa ba m kb) (cb pb bb n kb) (bf16.val (elemAt s.mem pc 1 (4 * m + kb)))
            (bf16.val (elemAt s.mem pc 1 (128 + 4 * n + kb)))).1) (old m n))) ∧
    (∀ d : BitVec 2, s.st.lastDrained = some d → MatrixReady s s1 f e [ob] [] → w.extractLsb' 0 21 = 0 → w.getLsbD 23 = false →
      MakesAccumulator s s1 (.mmach f) e [ob] acc 1 fun m n =>
        (blockStep (old m n) ((List.range 32).map fun k => bf16.val (bf16.round 0 (f32.val (accWord s.st d.toNat m k))).1)
          (bf pb n) unit unit).1) ∧
    (MatrixReady s s1 f e [oa, ob] [] → apart → w.extractLsb' 0 21 = 0x22 → w.getLsbD 23 = f.sat.getLsbD 0 →
      MakesAccumulator s s1 (.mmai f) e [oa, ob] acc 1 fun m n =>
        let step : Int → Nat → Int := fun x k =>
          let v := x + intOf 6 (elemAt s.mem pa 6 (64 * m + k)) * intOf 6 (elemAt s.mem pb 6 (64 * n + k))
          if f.sat = 1 then max (-2 ^ 31) (min v (2 ^ 31 - 1)) else (BitVec.ofInt 32 v).toInt
        (BitVec.ofInt 32 ((List.range 64).foldl step (BitVec.ofNat 32 (old m n)).toInt)).toNat)

/-- The products of the matrix engine, and what one block of them is: `ProductsAccumulate`, `BlocksRoundTwice`. -/
def Obligations.MatrixProducts : Prop :=
  ProductsAccumulate ∧ BlocksRoundTwice

/-- R270: a matrix entry whose operand tiles share a bank group raises BANK_CONFLICT, else MMA, MMACH or MMAI without a format word FQ_EMPTY,
and else one whose word has a reserved format of A or of B, or a reserved bit set, FORMAT subcode 1, before anything starts: the stream
stops and the entry stays at the head of its queue. -/
def MatrixChecksBeforeStart : Prop :=
  ∀ (f : FL) (s : State) (e : Entry), s.AtHead 1 e → s.st.stopped = false →
    let stops : Instr → Nat → Nat → Prop := fun i code sub => ∃ (t : State) (c : Cause), exec i s = .next t ∧ c.code = code ∧ c.sub = sub ∧
      t = s.takeTrap s.cur 1 e.pc s.st.pc c ∧ t.st.stopped = true ∧ t.st.matrixQ = s.st.matrixQ ∧ t.st.fq = s.st.fq ∧ t.tiles = s.tiles
    let group : BitVec 16 → Nat := fun top => topTile top / 32
    let scaled := f.opx.getLsbD 0 = true
    let clash := group f.ta = group f.tb
    let clashC := group f.ta = group f.tc ∨ group f.tb = group f.tc
    let w := s.st.fq.headD 0
    let reserved := 3 ≤ (w.extractLsb' 0 4).toNat ∨ 3 ≤ (w.extractLsb' 4 4).toNat ∨ w.extractLsb' 28 4 ≠ 0
    let after : Nat → Nat → Prop := fun code sub =>
      (¬ clash → stops (.mmai f) code sub) ∧ (¬ clash → ¬ (scaled ∧ clashC) → stops (.mma f) code sub) ∧ stops (.mmach f) code sub
    (clash → stops (.mmai f) 2 0 ∧ stops (.mma f) 2 0) ∧ (scaled → clashC → stops (.mma f) 2 0) ∧
    (e.unbound = true → after 3 0) ∧ (e.unbound = false → reserved → after 4 1)

/-- R277 to R281: MDRAIN gives a pair of tiles the words of an accumulator, or one tile its values in BF16 or I8, and with CLR
zeroes it; MZERO zeroes one; MLDACC loads one from a pair, from BF16 or from I8; CBLOAD loads a codebook on the stream's core. -/
def AccumulatorTransfers : Prop :=
  ∀ (f : FL) (s s1 : State) (e : Entry),
    let acc := f.sub.toNat % 4
    let ty := f.opxType
    let d := s.entryOp f.dt e.edt false
    let a := s.entryOp f.ta e.eta true
    let twin : Operand → Operand := fun o => { o with key := o.key + 1, num := o.num + 1 }
    let drains : List Operand → Prop := fun ds => ∃ t r, exec (.mdrain f) s = .next t ∧ OnlyStream s1 t s.cur ∧
      t.st.running = s1.st.running ++ [r] ∧ r.versions.map Version.tile = ds.map Operand.key ∧ t.st.lastDrained = some (BitVec.ofNat 2 acc) ∧
      (∀ v ∈ r.versions, v.quota = f.dq ∧ v.skip = false) ∧
      (∀ m < 32, ∀ n < 32, accWord t.st acc m n = if f.opx.getLsbD 4 then 0 else accWord s.st acc m n) ∧
      ∀ j, (∀ v, r.versions[j]? = some v →
        (ty = 0 ∨ ty = 2 → ∀ i < 512, elemAt (s.mem.patch (tilePlace v.tile) v.bytes) (tilePlace v.tile) 0 i =
          accWord s.st acc ((512 * j + i) / 32) (i % 32)) ∧
        (ty = 1 → ∀ i < 1024, elemAt (s.mem.patch (tilePlace v.tile) v.bytes) (tilePlace v.tile) 1 i =
          (bf16.round e.rm (f32.val (accWord s.st acc (i / 32) (i % 32)))).1) ∧
        (ty = 6 → ∀ i < 1024, elemAt (s.mem.patch (tilePlace v.tile) v.bytes) (tilePlace v.tile) 6 i =
          narrow 6 (f.sat = 1) (BitVec.ofNat 32 (accWord s.st acc (i / 32) (i % 32))).toInt))
    let loads : List Operand → (Nat → Nat → Nat) → Prop := fun os val => MakesAccumulator s s1 (.mldacc f) e os acc 0 val
    (ty = 0 ∨ ty = 2 → MatrixReady s s1 f e [] [d, twin d] → drains [d, twin d]) ∧
    (ty = 1 ∨ ty = 6 → MatrixReady s s1 f e [] [d] → drains [d]) ∧
    (s.AtHead 1 e → MakesAccumulator s s (.mzero f) e [] acc 0 fun _ _ => 0) ∧
    (ty = 0 ∨ ty = 2 → MatrixReady s s1 f e [a, twin a] [] →
      loads [a, twin a] fun m n => elemAt s.mem (tilePlace a.key) 0 (32 * m + n)) ∧
    (ty = 1 → MatrixReady s s1 f e [a] [] → loads [a] fun m n =>
      let b := elemAt s.mem (tilePlace a.key) 1 (32 * m + n)
      if bf16.val b = .nan then 0x7FC00000 else b * 2 ^ 16) ∧
    (ty = 6 → MatrixReady s s1 f e [a] [] → loads [a] fun m n =>
      ((BitVec.ofNat 8 (elemAt s.mem (tilePlace a.key) 6 (32 * m + n))).signExtend 32).toNat) ∧
    (let ds := if f.opx.getLsbD 0 then [d] else []
     f.sk = 0 → MatrixReady s s1 f e [a] ds → (f.imm.extractLsb' 0 6).toNat < s.launch.m.ncb →
      e.xs1.toNat % 32 = 0 → e.xs1.toNat ≤ 2016 →
      ∃ t r, exec (.cbload f) s = .next t ∧ t.st.running = s1.st.running ++ [r] ∧
        r.versions = ds.map (fun o => { tile := o.key, bytes := [], quota := f.dq, skip := false }) ∧
        (let book := BitVec.ofNat 256 (s.mem.readLE (tilePlace a.key + e.xs1.toNat) 32)
         let n := (f.imm.extractLsb' 0 6).toNat
         r.codebook = some (n, book) ∧
         ∀ k, tget 0 t.codebooks k = if k = s.coreKeyOf s.cur * 64 + n then book else tget 0 s.codebooks k))

/-- MDRAIN, MZERO, MLDACC, CBLOAD, and what a matrix entry tests: `AccumulatorTransfers`, `MatrixChecksBeforeStart`. -/
def Obligations.AccumulatorMoves : Prop :=
  AccumulatorTransfers ∧ MatrixChecksBeforeStart

/-! ### The Porter -/

/-- R234, R237, R239, R247: the record at the offset of an entry stands in the scratchpad, passes the checks of `recordCheck`, its
channel and its record are free, and no earlier store to it is on its way; a tile's walk of device or host memory finds its pages, which leaves `s'`. -/
def RecordReady (s s' : State) (f : FL) (e : Entry) (off : Nat) (r : BitVec 512) : Prop :=
  s.AtHead 3 e ∧ e.recordAt = some off ∧ r = BitVec.ofNat 512 (s.readLE (s.spadPlace s.cur off) 64) ∧
    s.channelBusy s.cur e.channel = false ∧ s.st.storesBefore e.mark (s.spadPlace s.cur off) 64 = false ∧ (∀ x ∈ s.st.onPorter, x.entry.recordAt ≠ some off) ∧ s.st.porterQ.paging = none ∧
    recordCheck e f s.launch.m.spad r off = none ∧
    (if e.op ≠ 0xEA ∧ (recDspace r = 0 ∨ recDspace r = 5) then s.missingPage s.launch.asid (recPages r) = (s', none) else s' = s)

/-- The instruction starts its entry: it runs from element 0 of `total`, with its record and `data`. -/
def StartsWalk (s1 : State) (i : Instr) (s : State) (e : Entry) (r : BitVec 512) (data : List Byte) (dsts : List Nat) : Prop :=
  ∃ t x p, exec i s = .next t ∧ OnlyStream s1 t s.cur ∧ t.st.running = s1.st.running ++ [x] ∧
    t.st.porterQ.entries = s.st.porterQ.entries.tail ∧ x.unit = 3 ∧ x.entry = e ∧ x.progress = 0 ∧
    x.total = (List.range (recRank r)).foldl (fun n d => n * recExt r d) 1 ∧ x.porter = some p ∧ p.record = r ∧ p.data = data ∧
    x.versions.map Version.tile = dsts ∧ (e.op = 0xE8 ∨ (tget 0 t.st.wm e.channel).getLsbD 63 = true)

/-- R234, R241 to R244, R249: TLOAD, TSTORE, BCOPY and CXFER to memory start on a free channel with the record they read: a load
reserves its tile, a store takes its tile's data, and a start that writes memory opens its channel's watermark. -/
def Obligations.PorterEntriesStart : Prop :=
  ∀ (f : FL) (s s' s1 : State) (e : Entry) (off : Nat) (r : BitVec 512), RecordReady s s' f e off r → s.poison = [] →
    let pair := f.opx.getLsbD 0
    let d := s.entryOp f.dt e.edt false
    let a := s.entryOp f.ta e.eta false
    let twin : Operand → Operand := fun o => { o with key := o.key + 1, num := o.num + 1 }
    let both : Operand → List Operand := fun o => if pair then [o, twin o] else [o]
    let starts : List Operand → List Operand → Prop := fun srcs dsts => s'.startTiles (s.cur * 8 + 3) (strict e.ssr) srcs dsts = .starts s1
    (e.op = 0xE8 → starts [] (both d) → StartsWalk s1 (.tload f) s e r [] ((both d).map Operand.key)) ∧
    (e.op = 0xE9 → starts (both a) [] →
      StartsWalk s1 (.tstore f) s e r (s.bytes (tilePlace a.key) (if pair then 4096 else 2048)) []) ∧
    (e.op = 0xEA → starts [] [] → StartsWalk s1 (.bcopy f) s e r [] []) ∧
    (e.op = 0xEB → f.opx.getLsbD 2 = false → starts (both a) [] →
      StartsWalk s1 (.cxfer f) s e r (s.bytes (tilePlace a.key) (if pair then 4096 else 2048)) [])

/-- R238, R241: a TLOAD from the scratchpad that runs to its end makes its tile's next version: element f of the walk at bytes
f·sz of the tile, the padding value where an index passes its limit, the bytes past the walk unchanged. -/
def TileLoadsGather : Prop :=
  ∀ (s : State) (k : Nat) (x : Running) (p : PorterRun) (v : Version) (f : FL), s.runs k = true →
    s.inp.a = k → s.inp.b = 0 → s.inp.c = 0 → s.inp.upto = none → (s.stream k).running = [x] → x.unit = 3 → x.paging = none →
    x.entry.fields = some (.tload f, f) → x.entry.op = 0xE8 → x.entry.w0.getLsbD 56 = false → x.porter = some p → x.versions = [v] →
    x.progress = 0 → x.marks = [] → x.flags = 0 → p.data = [] → p.bad = [] → p.hits = [] → p.erred = [] → p.fault = none →
    x.total = recCount p.record → 0 < x.total → recOk p.record = true → recSpace p.record = 0 → recAdv p.record = 0 →
    x.total * recSize p.record ≤ 2048 → s.poison = [] → s.own = [] →
    (∀ i < x.total, ∀ a, recAddr p.record i = some a → a % recSize p.record = 0 ∧
      s.locate (channelWho k x.entry.channel) 1 a (recSize p.record) true false = (.ok (s.spadPlace k a) none none, s)) →
    ∃ t, exec .engineEntryComplete s = .next t ∧ (t.stream k).running = [] ∧
      (t.tile v.tile).count = (s.tile v.tile).count + 1 ∧ (t.tile v.tile).quota = v.quota ∧ (t.tile v.tile).wip = false ∧
      SameOutside s t (tilePlace v.tile) (x.total * recSize p.record) ∧
      ∀ i < x.total, ∀ j < recSize p.record, t.mem.get (tilePlace v.tile + i * recSize p.record + j) =
        match recAddr p.record i with
        | some a => s.mem.get (s.spadPlace k a + j)
        | none => BitVec.ofNat 8 (arnField p.record 0xC 4 / 2 ^ (8 * j))

/-- A running entry of stream `k` that writes memory in the stream's own scratchpad from element 0 on: it is checked, nothing of it
is poisoned or faulted, and every one of its writes passes its checks (R236, R246). -/
def WritesScratchpad (s : State) (k : Nat) (x : Running) (p : PorterRun) (i : Instr) (f : FL) (u : Option Nat) : Prop :=
  s.runs k = true ∧ s.inp.a = k ∧ s.inp.b = 0 ∧ s.inp.c = 0 ∧ s.inp.upto = u ∧ (s.stream k).running = [x] ∧ x.unit = 3 ∧
    x.paging = none ∧ x.entry.fields = some (i, f) ∧ x.porter = some p ∧ x.versions = [] ∧ x.progress = 0 ∧ x.marks = [] ∧
    x.flags = 0 ∧ p.bad = [] ∧ p.wrote = [] ∧ p.erred = [] ∧ p.fault = none ∧ x.total = recCount p.record ∧ 0 < x.total ∧
    recOk p.record = true ∧ recAdv p.record = 0 ∧ s.poison = [] ∧ s.own = [] ∧ (s.launchOf (k / 4096)).m.replay = 0

/-- The destination lies in one region, at `b`, that is lent to the entry's channel by a lender that still stands. -/
def LentToChannel (s : State) (k c b : Nat) (r : Region) (place : Nat) : Prop :=
  s.regionAt place = some (b, r) ∧ tfind s.regions b = some r ∧ Place.base .spad ≤ b ∧ r.state = .lent ∧
    r.holder = channelId k c ∧ r.lostLender = false

/-- R249, R250: where a run of an entry that writes memory has come to element `n`: while it runs, BUSY is 1 and MARK is the lowest
destination address not yet written; at its end BUSY is 0, MARK is one past the highest written, and the region goes back to its
lender unless HOLD is 1. `start` and `past` are the addresses of an element's first byte and past its last. -/
def ChannelStands (t : State) (k b : Nat) (x : Running) (r : Region) (n : Nat) (start past : Nat → Nat) : Prop :=
  let wm := tget 0 (t.stream k).wm x.entry.channel
  let mark := (wm.extractLsb' 0 52).toNat
  wm.extractLsb' 59 3 = 1 ∧ wm.getLsbD 62 = false ∧
    (n < x.total → (∃ y, (t.stream k).running = [y] ∧ y.entry = x.entry ∧ y.progress = n ∧ y.total = x.total) ∧
      wm.getLsbD 63 = true ∧ (∀ i, n ≤ i → i < x.total → mark ≤ start i) ∧ (∃ i, n ≤ i ∧ i < x.total ∧ start i = mark) ∧
      tfind t.regions b = some r) ∧
    (n = x.total → (t.stream k).running = [] ∧ wm.getLsbD 63 = false ∧ (∀ i < x.total, past i ≤ mark) ∧ (∃ i < x.total, past i = mark) ∧
      tfind t.regions b = some (if x.entry.opx 1 then r else { r with state := .excl, holder := r.lender, lender := 0 }))

/-- R242, R244, R249, R250: TSTORE, and CXFER to memory, write element f of their tile data at the address of element f of the walk,
CXFER combining it with the element there; no other byte of memory changes. A run may stop at any element where a 64-byte unit ends. -/
def TileStoresScatter : Prop :=
  ∀ (s : State) (k b : Nat) (x : Running) (p : PorterRun) (r : Region) (i : Instr) (f : FL) (u : Option Nat) (at_ : Nat → Nat),
    let e := x.entry
    let n := recSize p.record
    let c := recType p.record
    let old : Nat → Nat := fun j => s.mem.readLE (s.spadPlace k (at_ j)) n
    let new : Nat → Nat := fun j => natLE ((p.data.drop (j * n)).take n)
    let combines := e.op = 0xEB ∧ f.cxOp ≠ 0
    WritesScratchpad s k x p i f u → (e.op = 0xE9 ∨ (e.op = 0xEB ∧ e.opx 2 = false)) → recDest p.record = true →
    recSpace p.record = 0 → p.data.length = x.total * n →
    (∀ j < x.total, recAddr p.record j = some (at_ j) ∧ at_ j % n = 0 ∧ LentToChannel s k e.channel b r (s.spadPlace k (at_ j)) ∧
      s.locate (channelWho k e.channel) 1 (at_ j) n false true = (.ok (s.spadPlace k (at_ j)) none none, s) ∧
      (combines → s.locate (channelWho k e.channel) 1 (at_ j) n true false = (.ok (s.spadPlace k (at_ j)) none none, s))) →
    (∀ j < x.total, ∀ l < j, at_ j + n ≤ at_ l ∨ at_ l + n ≤ at_ j) →
    ∃ t m, exec .engineEntryComplete s = .next t ∧ min (u.getD x.total) x.total ≤ m ∧ m ≤ x.total ∧
      ChannelStands t k b x r m at_ (fun j => at_ j + n) ∧
      (∀ j < m, t.mem.readLE (s.spadPlace k (at_ j)) n =
        if combines then (reduceElem f.cxOp c (f.sat = 1) e.rm (old j) (new j)).1 else new j) ∧
      ∀ a, (∀ j < m, a < s.spadPlace k (at_ j) ∨ s.spadPlace k (at_ j) + n ≤ a) → t.mem.get a = s.mem.get a

/-- R243, R249, R250: BCOPY within the scratchpad writes byte j of its walk's output, elements one after another and the padding
value where an index passes its limit, at XS1 + j, and no other byte of memory; source and destination lie apart. -/
def CopiesGather : Prop :=
  ∀ (s : State) (k b : Nat) (x : Running) (p : PorterRun) (r : Region) (f : FL) (u : Option Nat),
    let e := x.entry
    let n := recSize p.record
    let dst := e.xs1.toNat
    WritesScratchpad s k x p (.bcopy f) f u → e.op = 0xEA → e.opx 0 = false → recSpace p.record = 0 → f.dspace = 1 →
    dst + x.total * n ≤ 2 ^ 20 →
    (∀ a m, dst ≤ a → 0 < m → a + m ≤ dst + x.total * n → LentToChannel s k e.channel b r (s.spadPlace k a) ∧
      s.locate (channelWho k e.channel) 1 a m false true = (.ok (s.spadPlace k a) none none, s)) →
    (∀ j < x.total, ∀ a, recAddr p.record j = some a → a % n = 0 ∧ (a + n ≤ dst ∨ dst + x.total * n ≤ a) ∧
      s.locate (channelWho k e.channel) 1 a n true false = (.ok (s.spadPlace k a) none none, s)) →
    ∃ t m, exec .engineEntryComplete s = .next t ∧ min (u.getD x.total) x.total ≤ m ∧ m ≤ x.total ∧
      ChannelStands t k b x r m (fun j => dst + j * n) (fun j => dst + (j + 1) * n) ∧
      SameOutside s t (s.spadPlace k dst) (m * n) ∧
      ∀ j < m, ∀ l < n, t.mem.get (s.spadPlace k dst + j * n + l) =
        match recAddr p.record j with
        | some a => s.mem.get (s.spadPlace k a + l)
        | none => BitVec.ofNat 8 (arnField p.record 0xC 4 / 2 ^ (8 * l))

/-- Which bytes the Porter's entries write as they run, and, for those that write memory, their watermark and their channel return:
`TileLoadsGather`, `TileStoresScatter`, `CopiesGather`. -/
def Obligations.PorterEntriesMoveBytes : Prop :=
  TileLoadsGather ∧ TileStoresScatter ∧ CopiesGather

/-- R244, R245: CXFER to another core's tile combines the source's data, element by element, with the tile's there, and the new
version is of an unknown writer; WMWAIT
passes once no earlier entry of its stream runs on its channel, and with SIG makes a version. That the record of a core rank which
the launch lacks bears the rank as its word is the model's reading (log entry 36). -/
def Obligations.TileTransfersAndWaits : Prop :=
  ∀ (f : FL) (s s1 : State) (e : Entry), s.AtHead 3 e →
    (f.opx.getLsbD 2 = true → f.opx.getLsbD 0 = false → e.recordAt = none → s.channelBusy s.cur e.channel = false → e.xs1.toNat < 8 →
      e.xs1.toNat < s.launch.m.ncore → s.poison = [] →
      let d : Operand := { key := s.rankTileKey s.cur e.xs1.toNat (topTile f.dt), num := topTile f.dt, mode := topMode f.dt, exp := e.edt, mark := false }
      let a := s.entryOp f.ta e.eta false
      s.startTiles (s.cur * 8 + 3) (strict e.ssr) [a] [d] = .starts s1 →
      ∃ t x v, exec (.cxfer f) s = .next t ∧ t.st.running = s1.st.running ++ [x] ∧ x.versions = [v] ∧ v.tile = d.key ∧ v.quota = f.dq ∧
        v.skip = false ∧
        (f.cxOp = 0 → x.flags = 0 ∧
          ∀ i < 2048, (s.mem.patch (tilePlace d.key) v.bytes).get (tilePlace d.key + i) = (s.bytes (tilePlace a.key) 2048).getD i 0) ∧
        let c := f.imm.toNat % 16
        let t' := typeFmt c
        (f.cxOp ≠ 0 → c < 8 → s.own = [] → ∀ i < 2048 / (typeBits c / 8),
          let old := elemAt s.mem (tilePlace d.key) c i
          let new := elemAt s.mem (tilePlace a.key) c i
          elemAt (s.mem.patch (tilePlace d.key) v.bytes) (tilePlace d.key) c i =
            if f.cxOp = 1 then (if c < 2 then (t'.add e.rm (t'.val old) (t'.val new)).1 else narrow c (f.sat = 1) (intOf c old + intOf c new))
            else if c < 2 then t'.minmax (f.cxOp = 3) old new
            else if (intOf c new < intOf c old) = (f.cxOp = 2) then new else old)) ∧
    (∀ (u t : State) (k : Nat) (x : Running) (v : Version), u.runs k = true → u.inp.a = k → u.inp.b = 0 → u.inp.c = 0 →
      (u.stream k).running = [x] → x.unit = 3 → x.paging = none → x.marks = [] → x.entry.op = 0xEB → x.entry.opx 2 = true →
      x.versions = [v] → exec .engineEntryComplete u = .next t →
      (t.tile v.tile).writer = none ∧ (t.tile v.tile).count = (u.tile v.tile).count + 1 ∧ (t.tile v.tile).quota = v.quota ∧
        (t.tile v.tile).skip = v.skip) ∧
    (f.opx.getLsbD 2 = true → e.recordAt = none → s.channelBusy s.cur e.channel = false → (8 ≤ e.xs1.toNat ∨ s.launch.m.ncore ≤ e.xs1.toNat) →
      exec (.cxfer f) s = .next (s.takeTrap s.cur 3 e.pc s.st.pc { code := 14, args := [e.xs1.toNat] })) ∧
    ((∀ x ∈ s.st.onPorter, ¬ (x.entry.onChannel = true ∧ x.entry.channel = e.channel)) →
      let d := s.entryOp f.dt e.edt false
      s.startTiles (s.cur * 8 + 3) (strict e.ssr) [] (if f.opx.getLsbD 0 then [d] else []) = .starts s1 →
      ∃ t x, exec (.wmwait f) s = .next t ∧ t.st.running = s1.st.running ++ [x] ∧
        x.versions = (if f.opx.getLsbD 0 then [{ tile := d.key, bytes := [], quota := f.dq, skip := false }] else [])) ∧
    ((∃ x ∈ s.st.onPorter, x.entry.onChannel = true ∧ x.entry.channel = e.channel) → exec (.wmwait f) s = .next s)

/-! ### The Assayer -/

/-- R106, R298: the entry `e` at the head of the Assayer's queue may start on its tiles, giving `s1`; no skip propagates and
nothing is poisoned. -/
def SummaryReady (s s1 : State) (f : FL) (e : Entry) (srcs dsts : List Operand) : Prop :=
  s.AtHead 4 e ∧ s.startTiles (s.cur * 8 + 4) (strict e.ssr) srcs dsts = .starts s1 ∧ s.poison = [] ∧
    (f.sk = 0 ∨ ∀ o ∈ srcs, o.mode = 0 ∨ (s.tile o.key).skip = false)

/-- R161: the captured SHAPE is a legal view of one of `types` that fits a tile. -/
def ViewReady (e : Entry) (types : List Nat) : Prop :=
  shapeReserved e.shape = false ∧ shapeType e.shape ∈ types ∧ rowsOk (shapeRows e.shape) = true ∧ colsOk (shapeCols e.shape) = true ∧
    viewBytes (shapeType e.shape) (shapeRows e.shape * shapeCols e.shape) ≤ 2048

/-- The instruction answers a next state in which its entry has left its queue and runs, holding `out` as the bytes of the one
version, or the pair of versions, that it is about to make. -/
def GivesSummary (s s1 : State) (i : Instr) (f : FL) (e : Entry) (srcs dsts : List Operand) (out : List Byte) : Prop :=
  ∃ t r, exec i s = .next t ∧ t = { s1 with streams := t.streams, draws := t.draws } ∧
    (∀ k ≠ s.cur, t.stream k = s1.stream k) ∧ (t.st.queue 4).entries = (s.st.queue 4).entries.tail ∧
    t.st = { s1.st with assayerQ := t.st.assayerQ, running := s1.st.running ++ [r] } ∧ r.unit = 4 ∧ r.entry = e ∧
    r.marks = srcs.map Operand.key ∧
    r.versions = dsts.mapIdx fun n o =>
      { tile := o.key, bytes := ((out.drop (2048 * n)).take 2048).mapIdx fun j b => (j, b), quota := f.dq, skip := false }

/-- R301 to R307: SINIT makes an empty summary of its kind; QADD, HADD, DADD fold every element of the view into the sketch, the
heavy-hitter list, the registers; MSUM folds them into one moment slot, MSROW and LSEROW row by row; other slots stay. -/
def Obligations.SummariesTakeElements : Prop :=
  ∀ (f : FL) (s s1 : State) (e : Entry),
    let kind := f.imm.toNat % 16
    let coin := f.imm.toNat / 16 % 4
    let c := shapeType e.shape
    let cols := shapeCols e.shape
    let xs := (List.range (shapeRows e.shape * cols)).map fun j => elemAt s.mem (tileRead s f.tb) c j
    let row : Nat → List Nat := fun r => (xs.drop (r * cols)).take cols
    let a := s.mem.readLE (tileRead s f.ta) 2048
    let aa := s.mem.readLE (tileRead s f.ta) 4096
    let wide : Nat → Nat := fun x => if c = 1 then x * 2 ^ 16 else x
    let d := s.entryOp f.dt e.edt false
    let oa := s.entryOp f.ta e.eta true
    let ob := s.entryOp f.tb e.etb true
    let twin : Operand → Operand := fun o => { o with key := o.key + 1, num := o.num + 1 }
    let zeros : Nat → List Byte := fun n => List.replicate n 0
    let o := e.xs2.toNat
    (SummaryReady s s1 f e [] [d] →
      (kind = 1 → GivesSummary s s1 (.sinit f) f e [] [d] (1 :: zeros 2047)) ∧
      (kind = 2 → GivesSummary s s1 (.sinit f) f e [] [d] (2 :: zeros 2047)) ∧
      (kind = 3 → GivesSummary s s1 (.sinit f) f e [] [d] (zeros 2048)) ∧
      (kind = 4 → GivesSummary s s1 (.sinit f) f e [] [d]
        (List.replicate 64 (zeros 16 ++ bytesLE 0x7FFFFFFF 4 ++ bytesLE 0x80000000 4 ++ zeros 8)).flatten) ∧
      (kind = 5 → GivesSummary s s1 (.sinit f) f e [] [d] (List.replicate 256 (bytesLE 0xFF800000 4 ++ zeros 4)).flatten)) ∧
    (SummaryReady s s1 f e [] [d, twin d] → kind = 0 → coin ≠ 2 ∨ s.launch.m.replay = 0 →
      GivesSummary s s1 (.sinit f) f e [] [d, twin d]
        ([0, BitVec.ofNat 8 coin, 0, 0, 7, 0, 0, 0] ++
          bytesLE (if coin = 1 then (if e.xs1 = 0 then 0x2545F4914F6CDD1D else e.xs1.toNat) else 0) 8 ++ zeros 12 ++
          bytesLE 0x7F800000 4 ++ bytesLE 0xFF800000 4 ++ zeros 4060)) ∧
    (SummaryReady s s1 f e [oa, twin oa, ob] [d, twin d] → ViewReady e [0, 1] → sketchCheck aa = none →
      fieldOf aa 1 1 % 4 ≠ 2 ∨ s.launch.m.replay = 0 →
      GivesSummary s s1 (.qadd f) f e [oa, twin oa, ob] [d, twin d]
        (xs.foldl (fun k x => k.add (wide x)) (sketchOf aa s.draws)).bytes) ∧
    (SummaryReady s s1 f e [oa, ob] [d] →
      (ViewReady e [0, 1, 2, 3, 4, 5, 6, 7] → hitterCheck a = none → GivesSummary s s1 (.hadd f) f e [oa, ob] [d]
        (hitterBytes (xs.foldl (fun l x => hhAdd l x 1 0) (hittersOf a).1) (min ((hittersOf a).2 + xs.length) (2 ^ 64 - 1)))) ∧
      (ViewReady e [0, 1, 2, 3, 4, 5, 6, 7] → registerCheck a = none → GivesSummary s s1 (.dadd f) f e [oa, ob] [d]
        (registerBytes (xs.foldl dAdd (registersOf a).1) (min ((registersOf a).2 + xs.length) (2 ^ 64 - 1)))) ∧
      (ViewReady e [0, 1, 2, 4, 5, 6, 7] → GivesSummary s s1 (.msum f) f e [oa, ob] [d]
        ((List.range 64).flatMap fun i => if i = f.imm.toNat % 64 then (foldSlot a i c xs).1 else bytesLE (fieldOf a (32 * i) 32) 32)) ∧
      (ViewReady e [0, 1, 2, 4, 5, 6, 7] → o + shapeRows e.shape ≤ 64 → GivesSummary s s1 (.msrow f) f e [oa, ob] [d]
        ((List.range 64).flatMap fun i =>
          if o ≤ i ∧ i < o + shapeRows e.shape then (foldSlot a i c (row (i - o))).1 else bytesLE (fieldOf a (32 * i) 32) 32)) ∧
      (ViewReady e [0, 1] → o + shapeRows e.shape ≤ 256 → GivesSummary s s1 (.lserow f) f e [oa, ob] [d]
        ((List.range 256).flatMap fun i =>
          let m := fieldOf a (8 * i) 4
          let t := fieldOf a (8 * i + 4) 4
          let r := if o ≤ i ∧ i < o + shapeRows e.shape then (lseFold m t ((row (i - o)).map wide)).1 else (m, t)
          bytesLE r.1 4 ++ bytesLE r.2 4)))

/-- R302 to R308: the merges of two summaries of one kind; QQUANT, QRANK and DCEST put their answer into every word of a tile,
HTOP keeps the entries whose count less error reaches XS1, SREAD writes the eight words of one slot. -/
def Obligations.SummariesMergeAndAnswer : Prop :=
  ∀ (f : FL) (s s1 : State) (e : Entry),
    let a := s.mem.readLE (tileRead s f.ta) 2048
    let b := s.mem.readLE (tileRead s f.tb) 2048
    let aa := s.mem.readLE (tileRead s f.ta) 4096
    let bb := s.mem.readLE (tileRead s f.tb) 4096
    let d := s.entryOp f.dt e.edt false
    let oa := s.entryOp f.ta e.eta true
    let ob := s.entryOp f.tb e.etb true
    let twin : Operand → Operand := fun o => { o with key := o.key + 1, num := o.num + 1 }
    let every : Nat → List Byte := fun x => (List.replicate 512 (bytesLE x 4)).flatten
    let low := e.xs1.toNat % 2 ^ 32
    let i := f.imm.toNat % 64
    (SummaryReady s s1 f e [oa, twin oa, ob, twin ob] [d, twin d] → sketchCheck aa = none → sketchCheck bb = none →
      fieldOf aa 1 1 % 4 ≠ 2 ∨ s.launch.m.replay = 0 →
      GivesSummary s s1 (.qmerge f) f e [oa, twin oa, ob, twin ob] [d, twin d] ((sketchOf aa s.draws).merge (sketchOf bb 0)).bytes) ∧
    (SummaryReady s s1 f e [oa, twin oa] [d] → sketchCheck aa = none →
      GivesSummary s s1 (.qquant f) f e [oa, twin oa] [d] (every ((sketchOf aa 0).quant low).1) ∧
      GivesSummary s s1 (.qrank f) f e [oa, twin oa] [d] (every ((sketchOf aa 0).rank low).1)) ∧
    (SummaryReady s s1 f e [oa, ob] [d] →
      (hitterCheck a = none → hitterCheck b = none → GivesSummary s s1 (.hmerge f) f e [oa, ob] [d]
        (hitterBytes ((hittersOf b).1.foldl (fun l x => hhAdd l x.1 x.2.1 x.2.2) (hittersOf a).1)
          (min ((hittersOf a).2 + (hittersOf b).2) (2 ^ 64 - 1)))) ∧
      (registerCheck a = none → registerCheck b = none → GivesSummary s s1 (.dmerge f) f e [oa, ob] [d]
        (registerBytes (List.zipWith max (registersOf a).1 (registersOf b).1)
          (min ((registersOf a).2 + (registersOf b).2) (2 ^ 64 - 1)))) ∧
      (f.opx.getLsbD 0 = true → GivesSummary s s1 (.msmerge f) f e [oa, ob] [d]
        ((List.range 64).flatMap fun j =>
          ((intMomentOf a j).merge (intMomentOf b j)).bytes (bytesLE (fieldOf a (32 * j + 24) 8) 8))) ∧
      (f.opx.getLsbD 0 = false → GivesSummary s s1 (.msmerge f) f e [oa, ob] [d]
        ((List.range 64).flatMap fun j => ((momentOf a j).merge (momentOf b j)).1.bytes)) ∧
      GivesSummary s s1 (.lsemerge f) f e [oa, ob] [d]
        ((List.range 256).flatMap fun j =>
          let r := (lseMerge (fieldOf a (8 * j) 4) (fieldOf a (8 * j + 4) 4) (fieldOf b (8 * j) 4) (fieldOf b (8 * j + 4) 4)).1
          bytesLE r.1 4 ++ bytesLE r.2 4)) ∧
    (SummaryReady s s1 f e [oa] [d] →
      (hitterCheck a = none → ∃ l : List Hitter,
        GivesSummary s s1 (.htop f) f e [oa] [d] (hitterBytes l (hittersOf a).2) ∧
        l.Perm ((hittersOf a).1.filter fun x => e.xs1.toNat + x.2.2 ≤ x.2.1) ∧ l.Pairwise fun x y => y.2.1 ≤ x.2.1) ∧
      (registerCheck a = none → GivesSummary s s1 (.dcest f) f e [oa] [d] (every (estimate (registersOf a).1))) ∧
      (f.opx.getLsbD 0 = true → GivesSummary s s1 (.sread f) f e [oa] [d]
        (bytesLE (fieldOf a (32 * i) 8) 8 ++ bytesLE (narrow 2 (f.sat = 1) (sextNat (fieldOf a (32 * i + 8) 8) 64)) 4 ++
          bytesLE (fieldOf a (32 * i + 16) 4) 4 ++ bytesLE (fieldOf a (32 * i + 20) 4) 4 ++ List.replicate 12 0)) ∧
      (f.opx.getLsbD 0 = false → GivesSummary s s1 (.sread f) f e [oa] [d]
        (let m := momentOf a i
         bytesLE (f32.round 0 (Val.ofInt m.n)).1 4 ++ bytesLE m.stats.1.1 4 ++ bytesLE m.stats.1.2 4 ++ bytesLE m.amax 4 ++
          bytesLE (fieldOf a (32 * i + 28) 4) 4 ++ bytesLE m.hi 4 ++ List.replicate 8 0)))

/-- R290, R291, R294: what the folds keep. A heavy-hitter list holds at most 124 entries of distinct keys, and a key in it only
counts up; the registers of a distinct count do not depend on the order or the repetition of keys; an integer moment summary of
fewer than 2^63 elements counts them and holds their sum modulo 2^64, and summaries of two parts merge to that of the whole. -/
def FoldsKeepTheirMeaning : Prop :=
  (∀ (l : List Hitter) (k c e : Nat), l.length ≤ 124 → (l.map Prod.fst).Nodup →
    (hhAdd l k c e).length ≤ 124 ∧ ((hhAdd l k c e).map Prod.fst).Nodup ∧
    (∀ n m, (k, n, m) ∈ l → (k, min (n + c) (2 ^ 64 - 1), min (m + e) (2 ^ 32 - 1)) ∈ hhAdd l k c e) ∧
    (l.length < 124 → (∀ x ∈ l, x.1 ≠ k) → hhAdd l k c e = l ++ [(k, c, e)])) ∧
  (∀ (rs : List Nat) (j k : Nat), dAdd (dAdd rs j) k = dAdd (dAdd rs k) j ∧ dAdd (dAdd rs k) k = dAdd rs k) ∧
  ∀ xs ys : List Int, xs.length + ys.length < 2 ^ 63 →
    let empty : IntMoment := { n := 0, sum := 0, mn := 2 ^ 31 - 1, mx := -2 ^ 31 }
    let all := (xs ++ ys).foldl IntMoment.add empty
    all.n = (xs.length + ys.length : Nat) ∧ (all.sum : Int) = (xs.sum + ys.sum) % 2 ^ 64 ∧
    all = (xs.foldl IntMoment.add empty).merge (ys.foldl IntMoment.add empty)

/-- R287, R288, R302, R303: a sketch draws its coins as its mode says; it takes a number at its lowest level, which is first compacted when it
is full: every other item of it in order of value, −0 before +0, from the one that the coin names, goes up a level; a merge joins the
levels; counts saturate, and the least and greatest are kept; a NaN is only counted. A quantile is the first item in order at which the
weights reach φ·W, a rank the share of the weights of items at most x, rounded once. Where a loaded image holds a NaN, its place in the
order is the model's free choice (log entry 11). -/
def SketchesKeepTheirMeaning : Prop :=
  ∀ (k b : Sketch) (x : Nat), k.levels.length = 8 → b.levels.length = 8 → (∀ l ∈ k.levels, l.length ≤ 124) →
    (∀ l ∈ b.levels, l.length ≤ 124) → k.altb < 2 →
    let t := k.add x
    let m := k.merge b
    let v := f32.val x
    let step : BitVec 64 → BitVec 64 := fun y =>
      let y := y ^^^ (y <<< (13 : Nat))
      let y := y ^^^ (y >>> (7 : Nat))
      y ^^^ (y <<< (17 : Nat))
    let weight : List (Nat × Nat) → Nat := fun l => (l.map Prod.snd).sum
    let all := (List.range 8).flatMap fun h => (k.level h).map fun y => (y, 2 ^ (if h = 7 then k.topw else h))
    let whole : Sketch → Prop := fun k => k.levels.length = 8 ∧ ∀ l ∈ k.levels, l.length ≤ 124
    (k.coin = 0 → k.draw = (k.altb, { k with altb := 1 - k.altb })) ∧
    (k.coin = 1 → k.draw = ((step k.xs).toNat % 2, { k with xs := step k.xs })) ∧
    (∀ y z : BitVec 32, f32.val y.toNat ≠ .nan → f32.val z.toNat ≠ .nan → (sortKey y.toNat < sortKey z.toNat ↔
      (f32.val y.toNat).lt (f32.val z.toNat) = true ∨ (y = 0x80000000 ∧ z = 0))) ∧
    (v = .nan → t = { k with nans := min (k.nans + 1) (2 ^ 32 - 1) }) ∧
    (v ≠ .nan → whole t ∧ t.n = min (k.n + 1) (2 ^ 64 - 1) ∧ t.nans = k.nans ∧ t.mn = f32.minmax false k.mn x ∧
      t.mx = f32.minmax true k.mx x ∧
      ((k.level 0).length < 124 → t = { k with levels := k.levels.set 0 (k.level 0 ++ [x]), n := t.n, mn := t.mn, mx := t.mx }) ∧
      ((k.level 0).length = 124 → (k.level 1).length ≤ 62 → ∃ l : List Nat, l.Perm (k.level 0) ∧
        l.Pairwise (fun y z => sortKey y ≤ sortKey z) ∧ t.level 0 = [x] ∧ (∀ h, 2 ≤ h → t.level h = k.level h) ∧
        t.level 1 = k.level 1 ++ (List.range 62).map fun j => l.getD (2 * j + k.draw.1) 0)) ∧
    (whole m ∧ m.n = min (k.n + b.n) (2 ^ 64 - 1) ∧ m.nans = min (k.nans + b.nans) (2 ^ 32 - 1) ∧ m.mn = f32.minmax false k.mn b.mn ∧
      m.mx = f32.minmax true k.mx b.mx ∧
      (k.topw = b.topw → (∀ h < 8, (k.level h).length + (b.level h).length ≤ 124) →
        m.topw = k.topw ∧ ∀ h < 8, m.level h = k.level h ++ b.level h)) ∧
    (v = .nan → k.quant x = (0x7FC00000, flagInv) ∧ k.rank x = (0x7FC00000, flagInv)) ∧
    (∀ neg, v = .inf neg → k.quant x = (0x7FC00000, flagInv)) ∧
    (∀ p n e, v = .fin p n e → (exactly v < 0 ∨ 1 < exactly v → k.quant x = (0x7FC00000, flagInv)) ∧
      (0 ≤ exactly v → exactly v ≤ 1 → (all = [] → k.quant x = (0x7FC00000, 0)) ∧
        (all ≠ [] → (exactly v = 0 → k.quant x = (k.mn, 0)) ∧ (exactly v = 1 → k.quant x = (k.mx, 0)) ∧
          (0 < exactly v → exactly v < 1 → ∃ pre y w post, (pre ++ (y, w) :: post).Perm all ∧
            (pre ++ (y, w) :: post).Pairwise (fun g h => sortKey g.1 ≤ sortKey h.1) ∧ (weight pre : Rat) < exactly v * (weight all : Rat) ∧
            exactly v * (weight all : Rat) ≤ ((weight pre + w : Nat) : Rat) ∧ k.quant x = (y, 0))))) ∧
    (v ≠ .nan → (all = [] → k.rank x = (0x7FC00000, 0)) ∧
      (all ≠ [] → k.rank x = f32.roundFrac 0 false (weight (all.filter fun g => (f32.val g.1).le v)) (weight all)))

/-- R293, R296, R306: a finite value is added to a pair exactly: hi is the rounded total of the three, lo the rounded rest, unless hi has
overflowed; an element raises the count, its pairs by it and by its exact square, and the greatest magnitude, a NaN only the NaN count;
a merge adds the other summary's pairs; folding a slot takes its elements in order. -/
def MomentsKeepTheirMeaning : Prop :=
  (∀ (hi lo : Nat) (v : Val),
    let h := f32.val hi
    let l := f32.val lo
    (h = .nan ∨ v = .nan → cadd hi lo v = (0x7FC00000, 0, 0)) ∧
    (h ≠ .nan → v ≠ .nan → h.isInf = true ∨ v.isInf = true → cadd hi lo v = ((f32.add 0 h v).1, 0, (f32.add 0 h v).2)) ∧
    ((∃ p n e, h = .fin p n e) → (∃ p n e, l = .fin p n e) → (∃ p n e, v = .fin p n e) →
      let total := exactly h + exactly l + exactly v
      ∃ p n e, exactly (.fin p n e) = total ∧
        let x := f32.round 0 (.fin p n e)
        ((f32.val x.1).isInf = true → cadd hi lo v = (x.1, 0, x.2)) ∧
        ((f32.val x.1).isInf = false → ∃ q m g, exactly (.fin q m g) = total - exactly (f32.val x.1) ∧
          cadd hi lo v = (x.1, (f32.round 0 (.fin q m g)).1, (f32.round 0 (.fin q m g)).2)))) ∧
  (∀ (m o : Moment) (x : Nat),
    let v := f32.val x
    let square := match v with | .fin _ n e => Val.fin false (n * n) (e + e) | .inf _ => .inf false | .nan => .nan
    let sum := cadd m.hi m.lo v
    let sq := cadd m.qhi m.qlo square
    let sat : Nat → Int → Int := fun n y => max (-2 ^ (n - 1)) (min y (2 ^ (n - 1) - 1))
    (v = .nan → m.add x = ({ m with nans := sat 32 (m.nans + 1) }, 0)) ∧
    (v ≠ .nan → m.add x = ({ n := sat 64 (m.n + 1), hi := sum.1, lo := sum.2.1, qhi := sq.1, qlo := sq.2.1, nans := m.nans,
                             amax := f32.minmax true m.amax (x % 2 ^ 31) }, sum.2.2 ||| sq.2.2)) ∧
    ((∃ s n e, f32.val o.hi = .fin s n e) → (∃ s n e, f32.val o.lo = .fin s n e) → (∃ s n e, f32.val o.qhi = .fin s n e) →
      (∃ s n e, f32.val o.qlo = .fin s n e) → ∃ p q : Val, exactly p = exactly (f32.val o.hi) + exactly (f32.val o.lo) ∧
        exactly q = exactly (f32.val o.qhi) + exactly (f32.val o.qlo) ∧
        let sum := cadd m.hi m.lo p
        let sq := cadd m.qhi m.qlo q
        m.merge o = ({ n := sat 64 (m.n + o.n), hi := sum.1, lo := sum.2.1, qhi := sq.1, qlo := sq.2.1, nans := sat 32 (m.nans + o.nans),
                       amax := f32.minmax true m.amax o.amax }, sum.2.2 ||| sq.2.2))) ∧
  ∀ (a i c : Nat) (xs : List Nat), c < 2 →
    let at_ : Nat → Nat → Nat := fun o n => fieldOf a (32 * i + o) n
    let m : Moment := { n := sextNat (at_ 0 8) 64, hi := at_ 8 4, lo := at_ 12 4, qhi := at_ 16 4, qlo := at_ 20 4, amax := at_ 24 4,
                        nans := sextNat (at_ 28 4) 32 }
    let r := xs.foldl (fun (u : Moment × BitVec 6) x =>
      let w := u.1.add (if c = 1 then x * 2 ^ 16 else x)
      (w.1, u.2 ||| w.2)) (m, 0)
    foldSlot a i c xs = (bytesLE (r.1.n % 2 ^ 64).toNat 8 ++ bytesLE r.1.hi 4 ++ bytesLE r.1.lo 4 ++ bytesLE r.1.qhi 4 ++ bytesLE r.1.qlo 4 ++
      bytesLE r.1.amax 4 ++ bytesLE (r.1.nans % 2 ^ 32).toNat 4, r.2)

/-- R295, R307: a log-sum-exp row is folded, or merged with another, at the greatest of their maxima: a NaN makes both words NaN, −∞ an empty
row, +∞ the row of 1.0; else the sums are scaled by VEXP of the rounded differences and added in order, each operation rounded. -/
def LogSumsKeepTheirMeaning : Prop :=
  ∀ (m s m' s' : Nat) (xs : List Nat),
    let nan : Nat → Prop := fun x => f32.val x = .nan
    let ex : Nat → Nat → Nat × BitVec 6 := fun x top =>
      let y := f32.sub 0 (f32.val x) (f32.val top)
      ((sfu 4 f32 y.1).1, y.2 ||| (sfu 4 f32 y.1).2)
    let scaled : Nat → Nat → Nat → Nat × BitVec 6 := fun m s top =>
      let t := f32.mul 0 (f32.val s) (f32.val (ex m top).1)
      (t.1, (ex m top).2 ||| t.2)
    let top := xs.foldl (f32.minmax true) m
    let both := f32.minmax true m m'
    ((nan m ∨ ∃ x ∈ xs, nan x) → lseFold m s xs = ((0x7FC00000, 0x7FC00000), 0)) ∧
    (¬ nan m → (∀ x ∈ xs, ¬ nan x) →
      (top = 0xFF800000 → lseFold m s xs = ((0xFF800000, 0), 0)) ∧ (top = 0x7F800000 → lseFold m s xs = ((0x7F800000, 0x3F800000), 0)) ∧
      (top ≠ 0xFF800000 → top ≠ 0x7F800000 →
        let r := xs.foldl (fun (u : Nat × BitVec 6) x =>
          let t := f32.add 0 (f32.val u.1) (f32.val (ex x top).1)
          (t.1, u.2 ||| (ex x top).2 ||| t.2)) (if m = 0xFF800000 then (0, 0) else scaled m s top)
        lseFold m s xs = ((top, r.1), r.2))) ∧
    ((nan m ∨ nan s ∨ nan m' ∨ nan s') → lseMerge m s m' s' = ((0x7FC00000, 0x7FC00000), 0)) ∧
    (¬ nan m → ¬ nan s → ¬ nan m' → ¬ nan s' →
      (both = 0xFF800000 → lseMerge m s m' s' = ((0xFF800000, 0), 0)) ∧
      (both = 0x7F800000 → lseMerge m s m' s' = ((0x7F800000, 0x3F800000), 0)) ∧
      (both ≠ 0xFF800000 → both ≠ 0x7F800000 →
        let p := scaled m s both
        let q := scaled m' s' both
        let t := f32.add 0 (f32.val p.1) (f32.val q.1)
        lseMerge m s m' s' = ((both, t.1), p.2 ||| q.2 ||| t.2)))

/-- R292: an estimate divides α·m·m by the sum of 2^−r over the registers in binary64, each operation rounded; at most 2.5·m with a zero
register it is m·ln(m ÷ V) instead, so 0 where every register is 0; the result is rounded to binary32. -/
def EstimatesAreRounded : Prop :=
  ∀ rs : List Nat,
    let mul := fun a b => (f64.mul 0 (f64.val a) (f64.val b)).1
    let m := (f64.round 0 (Val.ofInt 2048)).1
    let sum := rs.foldl (fun (a : Nat) (r : Nat) => (f64.add 0 (f64.val a) (.fin false 1 (-(r : Int)))).1) 0
    let e := (f64.div 0 (f64.val (mul (mul (f64.roundFrac 0 false 14772224000 20490790000).1 m) m)) (f64.val sum)).1
    let small := (f64.val e).le (Val.ofInt 5120) = true
    let zeros := (rs.filter (· = 0)).length
    (¬ small ∨ zeros = 0 → estimate rs = (f32.round 0 (f64.val e)).1) ∧ (small → zeros = 2048 → estimate rs = 0)

/-- What the summaries mean: `FoldsKeepTheirMeaning`, `SketchesKeepTheirMeaning`, `MomentsKeepTheirMeaning`, `LogSumsKeepTheirMeaning`,
`EstimatesAreRounded`. -/
def Obligations.SummariesKeepTheirMeaning : Prop :=
  FoldsKeepTheirMeaning ∧ SketchesKeepTheirMeaning ∧ MomentsKeepTheirMeaning ∧ LogSumsKeepTheirMeaning ∧ EstimatesAreRounded

/-! ### The flags that entries set -/

/-- The union of `n` sets of flags. -/
def unionFlags (n : Nat) (fl : Nat → BitVec 6) : BitVec 6 :=
  (List.range n).foldl (fun a j => a ||| fl j) 0

/-- The instruction answers a next state in which its entry runs and is to set the flags `fl` when it completes. -/
def SetsFlags (s s1 : State) (i : Instr) (fl : BitVec 6) : Prop :=
  ∃ t r, exec i s = .next t ∧ t.st.running = s1.st.running ++ [r] ∧ r.flags = fl

/-- R83, R166 to R179: a vector entry sets the union of the flags of its elements' operations. Arithmetic on integers, the bitwise
functions, minima, maxima, signs, selections and moves set none; an ordered comparison sets INV for a NaN operand. -/
def VectorEntriesSetFlags : Prop :=
  ∀ (f : FL) (s s1 : State) (e : Entry),
    let c := effType f e.shape
    let t := typeFmt c
    let n := shapeRows e.shape * shapeCols e.shape
    let src : BitVec 16 → Nat → Val := fun top j => t.val (srcElem s top c j)
    let a := src f.ta
    let b := src f.tb
    let d := src f.tc
    let oa := vecOp s f.ta e.eta
    let ob := vecOp s f.tb e.etb
    let oc := vecOp s f.tc e.etc
    let num := [0, 1, 2, 3, 4, 5, 6, 7]
    let all := [0, 1, 2, 3, 4, 5, 6, 7, 8]
    let floats : Instr → (Nat → BitVec 6) → Prop := fun i fl => SetsFlags s s1 i (if c < 2 then unionFlags n fl else 0)
    let none : Instr → Prop := fun i => SetsFlags s s1 i 0
    let unordered : Nat → BitVec 6 := fun j => if a j = .nan ∨ b j = .nan then flagInv else 0
    (VectorReady s s1 f e [oa, ob] num →
      floats (.vadd f) (fun j => (t.add e.rm (a j) (b j)).2) ∧ floats (.vsub f) (fun j => (t.sub e.rm (a j) (b j)).2) ∧
      floats (.vmul f) (fun j => (t.mul e.rm (a j) (b j)).2) ∧ floats (.vcmplt f) unordered ∧ floats (.vcmple f) unordered ∧
      none (.vcmpeq f) ∧ none (.vmin f) ∧ none (.vmax f) ∧ none (.vand f) ∧ none (.vor f) ∧ none (.vxor f) ∧
      ((c, f.opxType) ∈ [(0, 1), (2, 4), (2, 6), (3, 5), (3, 7), (4, 6), (5, 7)] →
        floats (.vaddx f) fun j => (t.add e.rm (a j) (bf16.val (srcElem s f.tb f.opxType j))).2)) ∧
    (VectorReady s s1 f e [oa, ob, oc] num →
      floats (.vfma f) (fun j => (t.fma e.rm (a j) (b j) (d j)).2) ∧ floats (.vfms f) (fun j => (t.fma e.rm (a j) (b j) (d j).negate).2) ∧
      none (.vsel f) ∧ (f.opx.getLsbD 0 = false → none (.vclamp f))) ∧
    (VectorReady s s1 f e [oa] num →
      floats (.vscale f) (fun j => (t.mul e.rm (a j) (f32.val e.xs1.toNat)).2) ∧ none (.vabs f) ∧ none (.vneg f) ∧ none (.vnot f) ∧
      none (.vbcrow f) ∧ none (.vbccol f) ∧ (f.opx.getLsbD 0 = true → none (.vclamp f))) ∧
    (VectorReady s s1 f e [oa] [0, 1] →
      ∀ fn i, (i, fn) ∈ [(Instr.vrcp f, 0), (.vrsqrt f, 1), (.vsqrt f, 2), (.vexp2 f, 3), (.vexp f, 4), (.vlog2 f, 5), (.vlog f, 6),
          (.vsin f, 7), (.vcos f, 8), (.vtanh f, 9), (.vsigm f, 10), (.verf f, 11)] →
        SetsFlags s s1 i (unionFlags n fun j => (sfu fn t (srcElem s f.ta c j)).2)) ∧
    (VectorReady s s1 f e [oa] all → none (.vmov f)) ∧ (VectorReady s s1 f e [] all → none (.vfill f)) ∧
    (VectorReady s s1 f e [] num → f.iotaKind = 0 → floats (.viota f) fun j => (t.round e.rm (Val.ofInt (e.xs1.toInt + j))).2) ∧
    (let book := (f.imm.extractLsb' 0 6).toNat
     let cb := tget 0 s.codebooks (s.coreKeyOf s.cur * 64 + book)
     let cols := shapeCols e.shape
     let blocks := (cols + 31) / 32
     let k := f.opxType
     let x := srcElem s f.ta k
     let value : Nat → Val := fun j => if k < 2 then (typeFmt k).val (x j) else if k = 8 then cbEntry cb (x j) else Val.ofInt (intOf k (x j))
     let scale := fun j => bf16.val (srcElem s f.tb 1 (j / cols * blocks + j % cols / 32))
     let code := (f.imm.extractLsb' 6 4).toNat
     e.xs2 = 0 → k < 9 → viewBytes k n ≤ 2048 → (c = 8 ∨ k = 8 → book < s.launch.m.ncb) → convOk f c k = true →
      (VectorReady s s1 f e [oa] all →
        (f.opx.getLsbD 4 = false → SetsFlags s s1 (.vcvt f) (if 2 ≤ k ∧ k < 8 ∧ 2 ≤ c ∧ c < 8 then 0
          else unionFlags n fun j => (conv e.rm cb code c (value j).toQuot).2)) ∧
        (f.opx.getLsbD 4 = true → SetsFlags s s1 (.vcvt f) (unionFlags n fun j =>
          (quotDiv (value j) (f32.val e.xs1.toNat)).2 ||| (conv e.rm cb code c (quotDiv (value j) (f32.val e.xs1.toNat)).1).2))) ∧
      (viewBytes 1 (shapeRows e.shape * blocks) ≤ 2048 →
        (VectorReady s s1 f e [oa, ob] [4, 5, 6, 7, 8] → SetsFlags s s1 (.vquant f) (unionFlags n fun j =>
          (quotDiv ((typeFmt k).val (x j)) (scale j)).2 ||| (conv e.rm cb code c (quotDiv ((typeFmt k).val (x j)) (scale j)).1).2)) ∧
        (VectorReady s s1 f e [oa, ob] [0, 1] → SetsFlags s s1 (.vdeq f) (unionFlags n fun j =>
          (quotMul (value j) (scale j)).2 ||| (conv e.rm cb 0 c (quotMul (value j) (scale j)).1).2))))

/-- R273, R277, R278: MMA and MMACH set the union of the flags of the blocks of all 1,024 results, and MMACH also those of its A
operand's rounding; MMAI and the moves of whole words set none; MDRAIN to BF16 sets those of its roundings. -/
def MatrixEntriesSetFlags : Prop :=
  ∀ (f : FL) (s s1 : State) (e : Entry) (w : Word) (ws : List Word),
    let acc := f.sub.toNat % 4
    let oa := s.entryOp f.ta e.eta true
    let ob := s.entryOp f.tb e.etb true
    let oc := s.entryOp f.tc e.etc true
    let pa := tileRead s f.ta
    let pb := tileRead s f.tb
    let pc := tileRead s f.tc
    let old : Nat → Nat := fun j => if w.extractLsb' 21 2 = 1 then 0 else accWord s.st acc (j / 32) (j % 32)
    let bf : Nat → Nat → List Val := fun p r => (List.range 32).map fun k => bf16.val (elemAt s.mem p 1 (32 * r + k))
    let cb : Nat → Nat → Nat → Nat → List Val := fun p book r kb => (List.range 32).map fun k =>
      bf16.val ((tget 0 s.codebooks (s.coreKeyOf s.cur * 64 + book)).extractLsb' (16 * elemAt s.mem p 8 (128 * r + 32 * kb + k)) 16).toNat
    let blocks : Nat → (Nat → Nat → Nat × BitVec 6) → BitVec 6 := fun j step =>
      ((List.range 4).foldl (fun x kb => let r := step kb x.1; (r.1, x.2 ||| r.2)) (old j, (0 : BitVec 6))).2
    let unit := Val.fin false 1 0
    let apart := topTile f.ta / 32 ≠ topTile f.tb / 32
    let books := (w.extractLsb' 8 6).toNat < s.launch.m.ncb ∧ (w.extractLsb' 14 6).toNat < s.launch.m.ncb
    let ba := (w.extractLsb' 8 6).toNat
    let bb := (w.extractLsb' 14 6).toNat
    let d := s.entryOp f.dt e.edt false
    (s.st.fq = w :: ws → e.unbound = false → w.extractLsb' 28 4 = 0 → w.getLsbD 22 = false →
      (MatrixReady s s1 f e [oa, ob] [] → apart → w.extractLsb' 0 21 = 0 → w.getLsbD 23 = false → f.opx.getLsbD 0 = false →
        SetsFlags s s1 (.mma f) (unionFlags 1024 fun j => (blockStep (old j) (bf pa (j / 32)) (bf pb (j % 32)) unit unit).2)) ∧
      (w.extractLsb' 0 8 = 0x11 → apart → books → w.getLsbD 23 = false →
        (MatrixReady s s1 f e [oa, ob] [] → w.getLsbD 20 = false → f.opx.getLsbD 0 = false →
          SetsFlags s s1 (.mma f) (unionFlags 1024 fun j => blocks j fun kb x =>
            blockStep x (cb pa ba (j / 32) kb) (cb pb bb (j % 32) kb) unit unit)) ∧
        (MatrixReady s s1 f e [oa, ob, oc] [] → w.getLsbD 20 = true → f.opx.getLsbD 0 = true →
          topTile f.ta / 32 ≠ topTile f.tc / 32 → topTile f.tb / 32 ≠ topTile f.tc / 32 →
          SetsFlags s s1 (.mma f) (unionFlags 1024 fun j => blocks j fun kb x =>
            blockStep x (cb pa ba (j / 32) kb) (cb pb bb (j % 32) kb) (bf16.val (elemAt s.mem pc 1 (4 * (j / 32) + kb)))
              (bf16.val (elemAt s.mem pc 1 (128 + 4 * (j % 32) + kb)))))) ∧
      (∀ l : BitVec 2, s.st.lastDrained = some l → MatrixReady s s1 f e [ob] [] → w.extractLsb' 0 21 = 0 → w.getLsbD 23 = false →
        let drained : Nat → Nat × BitVec 6 := fun j => bf16.round 0 (f32.val (accWord s.st l.toNat (j / 32) (j % 32)))
        SetsFlags s s1 (.mmach f) (unionFlags 1024 (fun j => (drained j).2) ||| unionFlags 1024 fun j =>
          (blockStep (old j) ((List.range 32).map fun k => bf16.val (drained (32 * (j / 32) + k)).1) (bf pb (j % 32)) unit unit).2)) ∧
      (MatrixReady s s1 f e [oa, ob] [] → apart → w.extractLsb' 0 21 = 0x22 → w.getLsbD 23 = f.sat.getLsbD 0 → SetsFlags s s1 (.mmai f) 0)) ∧
    (f.opxType = 1 → MatrixReady s s1 f e [] [d] → SetsFlags s s1 (.mdrain f) (unionFlags 1024 fun j =>
      (bf16.round e.rm (f32.val (accWord s.st acc (j / 32) (j % 32)))).2)) ∧
    (f.opxType = 6 → MatrixReady s s1 f e [] [d] → SetsFlags s s1 (.mdrain f) 0) ∧
    (f.opxType = 0 ∨ f.opxType = 2 → MatrixReady s s1 f e [] [d, { d with key := d.key + 1, num := d.num + 1 }] →
      SetsFlags s s1 (.mdrain f) 0)

/-- R303, R306 to R308: the Assayer's entries set the flags of the roundings of their folds, merges and answers; those of the
heavy-hitter lists, the registers, the sketches' folds and the integer moments set none. -/
def AssayerEntriesSetFlags : Prop :=
  ∀ (f : FL) (s s1 : State) (e : Entry),
    let c := shapeType e.shape
    let rows := shapeRows e.shape
    let cols := shapeCols e.shape
    let xs := (List.range (rows * cols)).map fun j => elemAt s.mem (tileRead s f.tb) c j
    let row : Nat → List Nat := fun r => (xs.drop (r * cols)).take cols
    let a := s.mem.readLE (tileRead s f.ta) 2048
    let b := s.mem.readLE (tileRead s f.tb) 2048
    let aa := s.mem.readLE (tileRead s f.ta) 4096
    let d := s.entryOp f.dt e.edt false
    let oa := s.entryOp f.ta e.eta true
    let ob := s.entryOp f.tb e.etb true
    let twin : Operand → Operand := fun o => { o with key := o.key + 1, num := o.num + 1 }
    let o := e.xs2.toNat
    let low := e.xs1.toNat % 2 ^ 32
    let wide : Nat → Nat := fun x => if c = 1 then x * 2 ^ 16 else x
    (SummaryReady s s1 f e [oa, ob] [d] →
      (ViewReady e [0, 1, 2, 4, 5, 6, 7] →
        SetsFlags s s1 (.msum f) (foldSlot a (f.imm.toNat % 64) c xs).2 ∧
        (o + rows ≤ 64 → SetsFlags s s1 (.msrow f) (unionFlags rows fun r => (foldSlot a (o + r) c (row r)).2))) ∧
      (ViewReady e [0, 1] → o + rows ≤ 256 → SetsFlags s s1 (.lserow f) (unionFlags rows fun r =>
        (lseFold (fieldOf a (8 * (o + r)) 4) (fieldOf a (8 * (o + r) + 4) 4) ((row r).map wide)).2)) ∧
      SetsFlags s s1 (.msmerge f) (if f.opx.getLsbD 0 then 0 else unionFlags 64 fun j => ((momentOf a j).merge (momentOf b j)).2) ∧
      SetsFlags s s1 (.lsemerge f) (unionFlags 256 fun j =>
        (lseMerge (fieldOf a (8 * j) 4) (fieldOf a (8 * j + 4) 4) (fieldOf b (8 * j) 4) (fieldOf b (8 * j + 4) 4)).2) ∧
      (ViewReady e [0, 1, 2, 3, 4, 5, 6, 7] → (hitterCheck a = none → SetsFlags s s1 (.hadd f) 0) ∧
        (registerCheck a = none → SetsFlags s s1 (.dadd f) 0))) ∧
    (SummaryReady s s1 f e [oa] [d] → SetsFlags s s1 (.sread f) (if f.opx.getLsbD 0 then 0 else
      let m := momentOf a (f.imm.toNat % 64)
      (f32.round 0 (Val.ofInt m.n)).2 ||| m.stats.2)) ∧
    (SummaryReady s s1 f e [oa, twin oa] [d] → sketchCheck aa = none →
      SetsFlags s s1 (.qquant f) ((sketchOf aa 0).quant low).2 ∧ SetsFlags s s1 (.qrank f) ((sketchOf aa 0).rank low).2) ∧
    (SummaryReady s s1 f e [oa, twin oa, ob] [d, twin d] → ViewReady e [0, 1] → sketchCheck aa = none →
      fieldOf aa 1 1 % 4 ≠ 2 ∨ s.launch.m.replay = 0 → SetsFlags s s1 (.qadd f) 0)

/-- The flags of vector, matrix and Assayer entries, which enter SSR when the entry completes (`EntryFlagsAreSticky`):
`VectorEntriesSetFlags`, `MatrixEntriesSetFlags`, `AssayerEntriesSetFlags`. -/
def Obligations.EntriesSetTheirFlags : Prop :=
  VectorEntriesSetFlags ∧ MatrixEntriesSetFlags ∧ AssayerEntriesSetFlags

/-! ### Collectives -/

/-- R98, R372, R378, R379: COLL tests its handle before it is queued: it binds an unbound handle, goes on with the bound generation or,
once that is complete, with the next, waits or raises HANDLE 1 while it is not, and raises HANDLE 3 for another launch's handle
and FORMAT 75 for any other generation. A queued COLL whose handle is gone sets REMERR, and traps as REMOTE where TEREM is 1 (R98); one whose
record is read begins its walk. COLLSTOP unbinds a handle of its launch and ends its starts. That a handle which is gone traps as REMOTE
where TEREM is 1 is the model's reading (log entry 37), with words that are free (log entry 11); so is the want of a third word
in the FORMAT records of a start (log entry 30). -/
def Obligations.CollectivesAreTested : Prop :=
  ∀ (f : FL) (s : State) (e : Entry),
    let h := (s.xr f.xs2).toNat / 2 ^ 32
    let g := (s.xr f.xs2).toNat % 2 ^ 32
    let room := s.st.porterQ.entries.length < 16
    let mine := some s.launchNo
    let stops : Instr → Nat → Nat → Prop := fun i code sub =>
      exec i s = .next (s.takeTrap s.cur 0 s.st.pc s.st.pc { code := code, sub := sub, args := [i.word0.toNat, i.word1.toNat] })
    let queued : Instr → State → Prop := fun i t => ∃ x, t.st = { s.st with pc := s.st.pc + 16, wait := t.st.wait, porterQ := t.st.porterQ } ∧
      t.st.porterQ.entries = s.st.porterQ.entries ++ [x] ∧ x.w0 = i.word0 ∧ x.w1 = i.word1 ∧ x.xs1 = s.xr f.xs1 ∧ x.xs2 = s.xr f.xs2
    (s.actor = .sequencer → s.st.guardTrue f.g = true →
      (room → 2 ^ 48 ≤ (s.xr f.xs2).toNat → stops (.coll f) 4 72) ∧
      (room → (s.xr f.xs2).toNat < 2 ^ 48 →
        (tfind s.handles h = none → ∃ t v, exec (.coll f) s = .next t ∧ queued (.coll f) t ∧ tfind t.handles h = some v ∧
          v.launch = mine ∧ v.gen = some g ∧ v.asid = s.launch.asid ∧ v.arrivals = 0 ∧ v.recv = none ∧
          ∀ j ≠ h, tfind t.handles j = tfind s.handles j) ∧
        ∀ v n, tfind s.handles h = some v → v.gen = some n →
          (v.launch ≠ mine → stops (.coll f) 19 3) ∧
          (v.launch = mine → n = g → ∃ t, exec (.coll f) s = .next t ∧ queued (.coll f) t ∧
            tfind t.handles h = some { v with completed := false }) ∧
          (v.launch = mine → n ≠ g → (n + 1) % 2 ^ 32 = g → v.completed = true → ∃ t u, exec (.coll f) s = .next t ∧
            queued (.coll f) t ∧ tfind t.handles h = some u ∧ u.gen = some g ∧ u.launch = mine ∧ u.completed = false ∧
            u.arrivals = 0 ∧ u.held = v.held) ∧
          (v.launch = mine → n ≠ g → (n + 1) % 2 ^ 32 = g → v.completed = false →
            (f.opx.getLsbD 0 = true → stops (.coll f) 19 1) ∧
            (f.opx.getLsbD 0 = false → ∃ t w, exec (.coll f) s = .next t ∧ OnlyStream s t s.cur ∧ t.st = { s.st with wait := some w })) ∧
          (v.launch = mine → n ≠ g → (n + 1) % 2 ^ 32 ≠ g → stops (.coll f) 4 75)) ∧
      (room → (s.xr f.xs1).toNat < 65536 → s.xr f.xs2 = 0 → ∃ t, exec (.collstop f) s = .next t ∧ queued (.collstop f) t) ∧
      (65536 ≤ (s.xr f.xs1).toNat ∨ s.xr f.xs2 ≠ 0 → stops (.collstop f) 4 72)) ∧
    (s.AtHead 3 e →
      (s.walkerLoad (s.physOf s.cur) < 4 → s.st.porterQ.paging = none → tfind s.handles (e.xs2.toNat / 2 ^ 32) = none →
        let u := (s.popHead 3).setStream s.cur { (s.popHead 3).st with ssr := s.st.ssr ||| 4 }
        u.st.porterQ.entries = s.st.porterQ.entries.tail ∧ OnlyStream s u s.cur ∧
        (terem e.ssr = false → exec (.coll f) s = .next u) ∧
        (terem e.ssr = true → ∃ args n, exec (.coll f) s =
          .next (State.takeTrap { u with draws := n } s.cur 5 e.pc s.st.pc { code := 17, args := args }))) ∧
      (∀ v r ring p s1, s.walkerLoad (s.physOf s.cur) < 4 → s.st.porterQ.paging = none →
        tfind s.handles (e.xs2.toNat / 2 ^ 32) = some v → v.gen = some (e.xs2.toNat % 2 ^ 32) → v.launch = some (s.cur / 4096) →
        s.readNest s.launch.asid ([streamId s.cur, launchId (s.cur / 4096)], some (s.cur / 4096)) (some (s.physOf s.cur))
          e.xs1.toNat (e.xs2.toNat / 2 ^ 32) (fun place => s.st.storesBefore e.mark place 128) (fun sub => { code := 4, sub := sub, args := [e.w0.toNat, e.w1.toNat, e.xs1.toNat] })
          s.st.porterQ.passed = .got r ring p s1 →
        colArrive r = 0 →
        ∃ t c x, exec (.coll f) s = .next t ∧ t.colls = s1.colls ++ [c] ∧ c.record = r ∧ c.ring = ring ∧ c.next = 0 ∧
          c.total = colTotal r ∧ c.gen = e.xs2.toNat % 2 ^ 32 ∧ c.handle = e.xs2.toNat / 2 ^ 32 ∧ t.handles = s.handles ∧
          t.st.running = s.st.running ++ [x] ∧ x.entry = e ∧ t.st.porterQ.entries = s.st.porterQ.entries.tail ∧
          t.mem.readLE (p + 0x64) 4 = e.xs2.toNat % 2 ^ 32) ∧
      (∀ v, tfind s.handles (e.xs1.toNat % 65536) = some v → v.launch = some s.launchNo →
        ∃ t, exec (.collstop f) s = .next t ∧ tfind t.handles (e.xs1.toNat % 65536) = none ∧
          (∀ c ∈ t.colls, c.handle ≠ e.xs1.toNat % 65536) ∧ ∀ j ≠ e.xs1.toNat % 65536, tfind t.handles j = tfind s.handles j) ∧
      (∀ v, tfind s.handles (e.xs1.toNat % 65536) = some v → v.launch ≠ some s.launchNo →
        exec (.collstop f) s = .next (s.takeTrap s.cur 5 e.pc s.st.pc { code := 19, sub := 3, args := [e.w0.toNat, e.w1.toNat] })))

/-! ### The device: the climb, alarms, power -/

/-- R7 to R12, R22: the rails bring an empty device at stage 0 with the flash it had; stage 1 begins, and each stage of the climb,
when it is its turn, succeeds into the next or keeps its number, its FAILCODE and stops; a record is well formed only if every
repair entry points into its store; memory initialisation zeroes every store and resets every tile and directory; applying the
configuration raises READY with its SKU and core-disable mask; the links train in stage 6. Another stage's step changes
nothing. That FIRMWARE_VERIFY takes two steps, and that the stores of a device whose rails come or go read as zero, are the
model's choices (log entries 79 and 1), as is that link training brings the Factor's routes (log entry 54). -/
def Obligations.ClimbReachesReady : Prop :=
  ∀ s : State,
    let d := s.dev
    let f := d.flash
    let turn : Nat → Prop := fun n => d.railsGood = true ∧ d.stopped = false ∧ d.halted = false ∧ d.stage.toNat = n
    let flag : Nat → Bool := fun i => s.inp.flags.getD i true
    let fails : Instr → Nat → Nat → Prop := fun i stage code => ∃ t, exec i s = .next t ∧ t.dev.stage.toNat = stage ∧
      t.dev.failcode.toNat = code ∧ t.dev.stopped = true ∧ t.dev.ready = d.ready ∧ SameMemory s t
    let empty : State → Prop := fun t => t.launches = [] ∧ t.queues = [] ∧ t.streams = [] ∧ t.tiles = [] ∧ t.regions = [] ∧ t.l1 = [] ∧
      t.spaces.tlb = [] ∧ (∀ a < Place.base .host, t.mem.get a = 0) ∧
      ∀ a, Place.base .host ≤ a → a < Place.base .tile → t.mem.get a = s.mem.get a
    let goodA : Prop := f.imageA.ecdsa = true ∧ f.imageA.lms = true
    let goodB : Prop := f.imageB.ecdsa = true ∧ f.imageB.lms = true
    let stores : List (Nat × Nat) :=
      [(384, 512 * 1024), (384, 1024 * 1024), (384, 256 * 1024), (48, 4096 * 1024), (4, 48 * 2 ^ 20), (4, 64 * 2 ^ 20)]
    let formed : Prop := f.recordFormed = true ∧
      (∀ r ∈ f.sramRepair, ∃ x, stores[r.store]? = some x ∧ r.unit < x.1 ∧ r.offset < x.2) ∧
      ∀ r ∈ f.hbmRepair, r.1 < 8 ∧ r.2 < 96 * 2 ^ 30
    (d.railsGood = true → exec .railsGood s = .next s) ∧
    (d.railsGood = false → ∃ t, exec .railsGood s = .next t ∧ t.dev = Device.powerOn f ∧ empty t) ∧
    (∃ t, exec .railsLost s = .next t ∧ t.dev = { Device.powerOn f with railsGood := false } ∧ empty t) ∧
    (turn 0 → exec .firmwareVerify s = .next { s with dev := { d with stage := 1 } }) ∧
    (turn 1 →
      (¬ goodA → ¬ goodB → fails .firmwareVerify 1 (if f.imageA.ecdsa = true ∨ f.imageB.ecdsa = true then 2 else 1)) ∧
      (goodA ∨ goodB → f.recordSigned = false → fails .firmwareVerify 1 3) ∧
      (goodA ∨ goodB → f.recordSigned = true → ¬ formed → fails .firmwareVerify 1 4) ∧
      (f.recordSigned = true → formed → ∀ i, (goodA ∧ i = f.imageA) ∨ (¬ goodA ∧ goodB ∧ i = f.imageB) →
        exec .firmwareVerify s = .next { s with dev := { d with running := some i, accepted := true, stage := 2 } })) ∧
    (turn 2 →
      (flag 0 = false → fails .selfCalibration 2 5) ∧ (flag 0 = true → flag 1 = false → fails .selfCalibration 2 6) ∧
      (flag 0 = true → flag 1 = true → flag 2 = false → fails .selfCalibration 2 7) ∧
      (flag 0 = true → flag 1 = true → flag 2 = true → exec .selfCalibration s = .next { s with dev := { d with stage := 3 } })) ∧
    (turn 3 →
      (s.inp.ok = false → fails .memoryInitialisation 3 8) ∧
      (s.inp.ok = true → ∃ t, exec .memoryInitialisation s = .next t ∧ t.dev = { d with stage := 4 } ∧ t.tiles = [] ∧ t.regions = [] ∧
        t.prefixes = [] ∧ t.codebooks = [] ∧ t.l1 = [] ∧ ∀ a < Place.base .host, t.mem.get a = 0)) ∧
    (turn 4 → ∃ t, exec .applyConfiguration s = .next t ∧ SameMemory s t ∧
      t.dev = { d with stage := 6, ready := true, readyAt := d.ns, sku := f.sku, disabled := f.coreDisable, bktcfg := t.dev.bktcfg }) ∧
    (turn 6 → ∃ t, exec .linkTraining s = .next t ∧ t.hostUp = (s.hostUp || s.inp.ok) ∧
      (s.hostUp = false → s.inp.ok = true → s.inp.a ∈ [4, 8, 16] → s.inp.b ∈ [32, 64, 128] →
        t.hostLanes = s.inp.a ∧ t.hostRate = s.inp.b) ∧
      (∀ n peer, s.inp.nums = [n * 4096 + peer] → n < 16 → peer < 4096 → (s.port n).up = false →
        (t.port n).up = true ∧ (t.port n).routes = [peer] ∧ (t.port n).lanes = 8) ∧
      t = { s with hostUp := t.hostUp, hostLanes := t.hostLanes, hostRate := t.hostRate, ports := t.ports }) ∧
    ∀ i n, (i, n) ∈ [(Instr.firmwareVerify, 1), (.selfCalibration, 2), (.memoryInitialisation, 3), (.applyConfiguration, 4),
      (.linkTraining, 6)] → ¬ turn n → (n = 1 → ¬ turn 0) → exec i s = .next s

/-- R18 to R20, R200, R416: an alarm sets its bits for good and obeys the strongest policy of the sources that fire, Halt before the
record is accepted; a sag halves a cluster's clock until 256 of its cycles have passed without one; a cluster where no launch
stands may lose its power, and with it its trace buffer and L1; a refresh is postponed at most seven times. That a cluster where a
launch stands keeps its power is the model's reading (log entry 65). -/
def Obligations.AlarmsSagsAndPower : Prop :=
  ∀ s : State,
    let d := s.dev
    let c := s.inp.a
    let fired : Nat → Bool := fun i => s.inp.flags.getD i false
    let wants : Policy → Prop := fun p => ∃ i < 4, fired i = true ∧ d.flash.policies[i]? = some p
    let powered := d.railsGood = true ∧ c < 48
    let count := tget 0 d.sagcnt c
    (d.railsGood = true → (∃ i < 4, fired i = true) → ∃ t, exec .securityAlarm s = .next t ∧
      t.dev.alVolt = (d.alVolt || fired 0) ∧ t.dev.alClk = (d.alClk || fired 1) ∧ t.dev.alTemp = (d.alTemp || fired 2) ∧
      t.dev.alMesh = (d.alMesh || fired 3) ∧
      (d.accepted = false → t.dev.halted = true ∧ t.dev.failcode = 9 ∧ t.dev.erased = d.erased) ∧
      (d.accepted = true → wants .erase → t.dev.halted = true ∧ t.dev.failcode = 9 ∧ t.dev.erased = true ∧ t.dev.memoryKeys = false ∧
        t.dev.flash.attestKeys = false) ∧
      (d.accepted = true → ¬ wants .erase → wants .halt → t.dev.halted = true ∧ t.dev.failcode = 9 ∧ t.dev.erased = d.erased) ∧
      (d.accepted = true → ¬ wants .erase → ¬ wants .halt → t.dev.halted = d.halted ∧ t.dev.failcode = d.failcode ∧ t.dev.erased = d.erased)) ∧
    (powered → ∃ t, exec .supplySag s = .next t ∧ t.halfRate c = true ∧ tget false t.dev.sagging c = true ∧
      tget 0 t.dev.sagcnt c = (if count = BitVec.allOnes 32 then count else count + 1)) ∧
    (powered → tget false d.sagging c = true → ∃ t, exec .supplyRecover s = .next t ∧ tget false t.dev.sagging c = false ∧
      tget 0 t.dev.stretch c = 257) ∧
    (powered → ∀ left, tget 0 d.stretch c = left + 1 →
      (tget false d.sagging c = false → ∀ n, (s.cyclesPass c n).halfRate c = true ∧ ∃ u,
        exec .sagStretchEnd { s.cyclesPass c n with inp := s.inp } = .next u ∧ (u.halfRate c = false ↔ left ≤ n) ∧
        ∀ j ≠ c, u.halfRate j = s.halfRate j) ∧
      (tget false d.sagging c = true → ∀ n, tget 0 (s.cyclesPass c n).dev.stretch c = left + 1 ∧
        exec .sagStretchEnd { s.cyclesPass c n with inp := s.inp } = .next { s.cyclesPass c n with inp := s.inp })) ∧
    (c < 48 → s.busyCluster c = false → ∃ t, exec .clusterPowerGate s = .next t ∧ tget false t.dev.gated c = true ∧
      (tget TraceBuf.default t.traceBufs c).recs = [] ∧ ∀ e ∈ t.l1, e.1 / 2 ^ 32 / 8 ≠ c) ∧
    (s.busyCluster c = true → exec .clusterPowerGate s = .next s) ∧
    (d.railsGood = true → c < 1024 →
      (s.inp.ok = true → tget 0 d.postponed c < 7 → ∃ t, exec .refreshDue s = .next t ∧
        tget 0 t.dev.postponed c = tget 0 d.postponed c + 1 ∧ tget 0 t.dev.forced c = tget 0 d.forced c) ∧
      (s.inp.ok = true → 7 ≤ tget 0 d.postponed c → ∃ t, exec .refreshDue s = .next t ∧ tget 0 t.dev.postponed c = 0 ∧
        tget 0 t.dev.forced c = min (tget 0 d.forced c + 1) 0xFFFF ∧
        tget 0 t.dev.stall c = min (tget 0 d.stall c + s.inp.d) (2 ^ 48 - 1)) ∧
      (s.inp.ok = false → ∃ t, exec .refreshDue s = .next t ∧ tget 0 t.dev.forced c = tget 0 d.forced c ∧
        tget 0 t.dev.stall c = min (tget 0 d.stall c + s.inp.d) (2 ^ 48 - 1)))

/-! ### The mailbox -/

/-- Nothing of a launch number's streams is queued, running or on its way. -/
def AtRest (t : State) (l : Nat) : Prop :=
  ∀ i < 4096, let u := t.stream (l * 4096 + i)
    u.running = [] ∧ u.accesses = [] ∧ u.fences = [] ∧ u.wait = none ∧ u.paging = none ∧ u.fq = [] ∧ ∀ n ∈ [1, 2, 3, 4], (u.queue n).entries = []


/-- A command acts, leaving `status` and `bytes` for MAILBOX_ANSWER, and nothing else changes. -/
def Answers (i : Instr) (s : State) (status : Nat) (bytes : List (Nat × Byte)) : Prop :=
  exec i s = .next { s with dev := { s.dev with command := none, answer := some (status, bytes) } }

/-- A command of the Factor is at hand, and its reserved field is 0. -/
def AtCommand (s : State) (code : Nat) : Prop := s.dev.command = some code ∧ s.mem.readLE (seenAt 4) 4 = 0

/-- R13 to R17, R21: a doorbell that finds no command running is accepted with its message, a further one only sets OVERRUN; an
answer writes its status and bytes and raises DONE; a code that is not allocated answers 4; ATTEST uses up one leaf, and answers
5 when none is left; TELEM reads the counter that it names, or answers 1. That ATTEST answers 0 even where the attestation keys are
erased is the model's choice (log entry 12). -/
def Obligations.MailboxCarriesCommands : Prop :=
  ∀ s : State,
    let d := s.dev
    let a := s.mem.readLE (seenAt 8) 8
    let item := a % 2 ^ 16
    let n := a / 2 ^ 32
    let value : List Nat := [(tget 0 d.sagcnt n).toNat, tget 0 d.forced n * 2 ^ 48 + tget 0 d.stall n, d.droppedStores,
      tget 0 d.refusedWidx n, tget 0 d.lostPermits n, tget 0 d.predictive n, d.uncorrectable]
    let limit := [48, 1024, 1, 4096, 32, 3, 1]
    let codes := [0x01, 0x02, 0x10, 0x11, 0x12, 0x13, 0x14, 0x20, 0x21, 0x22, 0x30, 0x31, 0x40, 0x41, 0x42, 0x43, 0x44, 0x45, 0x46]
    let leaf := d.flash.lmsCounter
    (d.ready = true → s.hostUp = true → s.hostContained = false →
      (s.inp.a + s.inp.bytes.length ≤ 4096 → s.inp.a < 4096 → d.busy = false → ∃ t, exec .registerWrite s = .next t ∧
        t = { s with mem := t.mem } ∧ t.mem.read (fmAt s.inp.a) s.inp.bytes.length = s.inp.bytes ∧
        SameOutside s t (fmAt s.inp.a) s.inp.bytes.length) ∧
      (s.inp.a = 4096 → d.busy = true → exec .registerWrite s = .next { s with dev := { d with overrun := true } }) ∧
      (s.inp.a = 4096 → d.busy = false → d.halted = false → ∃ t, exec .registerWrite s = .next t ∧
        t.dev = { d with busy := true, done := false, overrun := false, pendingSeq := BitVec.ofNat 32 (natLE (s.inp.bytes.take 8)),
                         command := some (s.mem.readLE (fmAt 0) 2) } ∧
        (∀ o < 4096, t.mem.get (seenAt o) = s.mem.get (fmAt o)) ∧ SameOutside s t (seenAt 0) 4096)) ∧
    (∀ st bs, d.answer = some (st, bs) → st < 2 ^ 16 → (bs.map Prod.fst).Nodup → (∀ b ∈ bs, 8 ≤ b.1) →
      ∃ t, exec .mailboxAnswer s = .next t ∧
        t.dev = { d with answer := none, busy := false, done := true, fmseq := d.pendingSeq, setPrio := t.dev.setPrio } ∧
        (d.setPrio = none → t.queues = s.queues ∧ t.dev.setPrio = none) ∧
        t.mem.readLE (fmAt 2) 2 = st ∧ ∀ b ∈ bs, t.mem.get (fmAt b.1) = b.2) ∧
    (∀ c, d.command = some c → (c ∉ codes → Answers .unknownCommand s 4 []) ∧ (c ∈ codes → exec .unknownCommand s = .next s)) ∧
    (AtCommand s 1 →
      (leaf < 2 ^ 20 → ∃ t bs, exec .attest s = .next t ∧ t.dev.answer = some (0, bs) ∧ t.dev.command = none ∧
        t.dev.flash = { d.flash with lmsCounter := leaf + 1 } ∧
        (∀ i < 32, (0x68 + i, s.mem.get (seenAt (8 + i))) ∈ bs) ∧ (∀ i < 8, (0x88 + i, BitVec.ofNat 8 (leaf / 2 ^ (8 * i))) ∈ bs) ∧
        (∀ i < 4, (0xF0 + i, BitVec.ofNat 8 (1792 / 2 ^ (8 * i))) ∈ bs) ∧ ∀ b ∈ bs, 8 ≤ b.1 ∧ b.1 < 0xF4 + 1792) ∧
      (2 ^ 20 ≤ leaf → ∃ t bs, exec .attest s = .next t ∧ t.dev.answer = some (5, bs) ∧ t.dev.command = none ∧ t.dev.flash = d.flash)) ∧
    (AtCommand s 2 →
      (a / 2 ^ 16 % 2 ^ 16 = 0 → item < 7 → n < limit.getD item 0 → Answers .telem s 0 (wordAtOff 8 (value.getD item 0))) ∧
      (a / 2 ^ 16 % 2 ^ 16 ≠ 0 ∨ 7 ≤ item ∨ limit.getD item 0 ≤ n → Answers .telem s 1 []))

/-- R36 to R39, R46, R50: QREG registers a descriptor within its limits under the lowest free number, with an empty ring of zeros;
QUNREG waits for the latched head; QRESUME examines the head of a stalled queue again, QSKIP moves past it; QSETPRIO replaces
the scheduling values and resets the credit when it is answered, for heads latched from then on. That the number is the lowest free
one is the model's choice (log entry 50). -/
def Obligations.QueueCommands : Prop :=
  ∀ s : State,
    let b := s.mem.read (seenAt 8) 128
    let field := pktField b
    let a := s.mem.readLE (seenAt 8) 8
    let slots := 2 ^ field 8 1
    let pages := (List.range (64 * slots / 4096)).map fun i => field 0 8 + i * 4096
    (AtCommand s 0x10 →
      (descriptorOk b = false → Answers .qreg s 1 []) ∧
      ∀ q ps s1, descriptorOk b = true → s.queuePages (field 0x28 2) (pages ++ [field 0x10 8, field 0x18 8, field 0x20 8]) = some (ps, s1) →
        q < 4096 → tfind s.queues q = none → (∀ j < q, (tfind s.queues j).isSome = true) →
        ∃ t w, exec .qreg s = .next t ∧ t.dev.answer = some (0, wordAtOff 8 q) ∧ t.dev.command = none ∧ tfind t.queues q = some w ∧
          (∀ j ≠ q, tfind t.queues j = tfind s.queues j) ∧ w.base = field 0 8 ∧ w.logslots = field 8 1 ∧ w.prio = field 9 1 ∧
          w.weight = field 0xA 1 ∧ w.asid = field 0x28 2 ∧ w.agelim = (if field 0x30 4 = 0 then 10000 else field 0x30 4) ∧
          w.stalllim = (if field 0x38 4 = 0 then 100 else field 0x38 4) ∧ w.head = none ∧ w.stalled = false ∧ w.credit = 0 ∧
          (∀ p ∈ ps, tget 0 t.spaces.notok p = q + 1) ∧
          (s.dev.memoryKeys = true → ∀ p ∈ ps.take pages.length, ∀ o < 4096, t.byte (p * 4096 + o) = 0)) ∧
    (AtCommand s 0x11 →
      (4096 ≤ a → Answers .qunreg s 1 []) ∧ (a < 4096 → tfind s.queues a = none → Answers .qunreg s 3 []) ∧
      ∀ w, a < 4096 → tfind s.queues a = some w →
        (w.head = none → w.packet = none → ∃ t, exec .qunreg s = .next t ∧ t.dev.answer = some (0, []) ∧ tfind t.queues a = none) ∧
        (w.head ≠ none ∨ w.packet ≠ none → exec .qunreg s = .next { s with queues := tput s.queues a { w with closing := true } })) ∧
    (∀ i code, (i, code) ∈ [(Instr.qresume, 0x12), (.qskip, 0x13)] → AtCommand s code → a < 4096 → ∀ w, tfind s.queues a = some w →
      (w.stalled = false → Answers i s 3 []) ∧
      (w.stalled = true → ∃ t, exec i s = .next t ∧ t.dev.answer = some (0, []) ∧
        tfind t.queues a = some { w with stalled := false, notified := true } ∧
        (s.dev.memoryKeys = true → natLE (t.bytes w.ridxPa 8) = (s.ridx w + (if code = 0x13 then 1 else 0)) % 2 ^ 64))) ∧
    (AtCommand s 0x14 →
      let prio := a / 2 ^ 16 % 256
      let weight := a / 2 ^ 24 % 256
      let ceil := a / 2 ^ 32 % 256
      let q := a % 2 ^ 16
      (2 ^ 40 ≤ a ∨ 127 < prio ∨ weight = 0 ∨ ceil < prio ∨ 127 < ceil → Answers .qsetprio s 1 []) ∧
      (a < 2 ^ 40 → prio ≤ 127 → weight ≠ 0 → prio ≤ ceil → ceil ≤ 127 → q < 4096 → ∀ w, tfind s.queues q = some w →
        exec .qsetprio s = .next { s with dev := { s.dev with command := none, answer := some (0, []),
                                                              setPrio := some [q, prio, weight, ceil] } })) ∧
    (∀ st q prio weight ceil w, s.dev.answer = some st → s.dev.setPrio = some [q, prio, weight, ceil] → tfind s.queues q = some w →
      ∃ t, exec .mailboxAnswer s = .next t ∧ t.dev.setPrio = none ∧
        t.queues = tput s.queues q { w with prio := prio, weight := weight, ageceil := ceil, credit := 0 })

/-- R192, R396, R399, R412, R415: the Factor's commands on launches and on address spaces. That TRCSET answers with the write index
of the ring is the model's choice (log entry 13); that ASUNREG and HWIN of an ASID that is not registered answer 3 and RMTEN of one
0, that HWIN closes its own window only, and that PGDONE without a request answers 3 are its readings (log entry 49). -/
def Obligations.LaunchAndSpaceCommands : Prop :=
  ∀ s : State,
    let a := s.mem.readLE (seenAt 8) 8
    let b := s.mem.readLE (seenAt 16) 8
    let l := a % 2 ^ 14
    let v := s.launchOf l
    let placed := (tfind s.launches l).isSome = true ∧ v.phase ≠ .latched
    let x := a % 2 ^ 16
    let ok : State → Prop := fun t => t.dev.command = none ∧ t.dev.answer = some (0, [])
    (¬ placed →
      (AtCommand s 0x20 → a / 2 ^ 14 % 4 = 0 → a / 2 ^ 28 % 16 = 0 → a < 2 ^ 34 → Answers .fresume s 3 []) ∧
      (AtCommand s 0x21 → a < 2 ^ 14 → Answers .lkill s 3 []) ∧
      (AtCommand s 0x30 → a / 2 ^ 14 % 4 = 0 → a < 2 ^ 32 → Answers .trcset s 3 []) ∧
      (AtCommand s 0x31 → a < 2 ^ 32 → b < 2 ^ 31 → Answers .brkset s 3 [])) ∧
    (placed →
      (AtCommand s 0x20 → a / 2 ^ 14 % 4 = 0 → a / 2 ^ 28 % 16 = 0 → a < 2 ^ 34 → a.testBit 33 = false →
        let i := a / 2 ^ 16 % 2 ^ 12
        let k := l * 4096 + i
        i < v.m.streams → ∃ t, exec .fresume s = .next t ∧ t.dev.command = none ∧
          (if (s.stream k).stopped then t.dev.answer = some (0, wordAtOff 16 0) ∧ (t.stream k).stopped = false ∧
              ((s.stream k).halted = false → (t.stream k).pc = (s.stream k).cut.pc)
            else t.dev.answer = some (0, wordAtOff 16 1) ∧ t.streams = s.streams)) ∧
      (AtCommand s 0x21 → a < 2 ^ 14 → ∃ t, exec .lkill s = .next t ∧ ok t ∧ tfind t.launches l = none ∧ AtRest t l) ∧
      (AtCommand s 0x30 → a / 2 ^ 14 % 4 = 0 → a < 2 ^ 32 →
        let mask := a / 2 ^ 16 % 256
        let log := a / 2 ^ 24 % 256
        let index : State → Prop := fun t => t.dev.command = none ∧ t.dev.answer = some (0, wordAtOff 8 v.traceIdx)
        (mask = 0 → ∃ t, exec .trcset s = .next t ∧ index t ∧ t.launchOf l = { v with traceMask := 0 }) ∧
        (mask ≠ 0 → 10 ≤ log → log ≤ 24 → b % (32 * 2 ^ log) = 0 → s.factorHolds b (32 * 2 ^ log) = true →
          ∃ t, exec .trcset s = .next t ∧ index t ∧
            t.launchOf l = { v with traceMask := BitVec.ofNat 8 mask, traceBase := b, traceLog := log, traceIdx := 0 })) ∧
      (AtCommand s 0x31 → a < 2 ^ 32 → b < 2 ^ 31 →
        let n := a / 2 ^ 14 % 4
        let sidx := a / 2 ^ 16 % 2 ^ 12
        (a.testBit 31 = false → ∃ t, exec .brkset s = .next t ∧ ok t ∧ tfind (t.launchOf l).breakpoints n = none) ∧
        (a.testBit 31 = true → sidx = 0xFFF ∨ sidx < v.m.streams → ∃ t, exec .brkset s = .next t ∧ ok t ∧
          tfind (t.launchOf l).breakpoints n = some { sidx := sidx, loop := a / 2 ^ 28 % 8, iter := b }))) ∧
    (AtCommand s 0x22 → a < 2 ^ 17 → b < 2 ^ 48 →
      (tfind s.pageRequests (pageKey x b) = none → Answers .pgdone s 3 []) ∧
      ((tfind s.pageRequests (pageKey x b)).isSome = true → ∃ t, exec .pgdone s = .next t ∧ ok t)) ∧
    (AtCommand s 0x40 → a < 2 ^ 16 → b % 4096 = 0 → s.factorHolds b 4096 = true →
      (tget none s.spaces.roots a ≠ none → Answers .asreg s 3 []) ∧
      (tget none s.spaces.roots a = none → ∃ t, exec .asreg s = .next t ∧ ok t ∧ tget none t.spaces.roots a = some b)) ∧
    (AtCommand s 0x41 → a < 2 ^ 16 →
      let used := (∃ e ∈ s.queues, e.1 < 4096 ∧ e.2.asid = a) ∨ ∃ e ∈ s.launches, e.2.phase ≠ .latched ∧ e.2.asid = a
      (tget none s.spaces.roots a = none ∨ used → Answers .asunreg s 3 []) ∧
      (tget none s.spaces.roots a ≠ none → ¬ used → ∃ t, exec .asunreg s = .next t ∧ ok t ∧ tget none t.spaces.roots a = none ∧
        t.spaces.window ≠ some a ∧ (∀ e ∈ t.spaces.tlb, e.1 / 2 ^ 36 % 2 ^ 16 ≠ a) ∧ ∀ n < 4096, tget false t.spaces.remote (a * 4096 + n) = false)) ∧
    (AtCommand s 0x42 → a < 2 ^ 17 → a.testBit 16 = true ∨ b < 2 ^ 48 → ∃ t, exec .asinv s = .next t ∧ ok t ∧
      ∀ e : Nat × Leaf, e ∈ t.spaces.tlb ↔ e ∈ s.spaces.tlb ∧ ¬ (e.1 / 2 ^ 36 % 2 ^ 16 = x ∧
        (a.testBit 16 = false → e.1 % 2 ^ 36 * 4096 / 2 ^ e.2.ls = b / 2 ^ e.2.ls))) ∧
    (AtCommand s 0x43 → a / 2 ^ 28 % 16 = 0 → a < 2 ^ 33 → ∃ t, exec .rmten s = .next t ∧ ok t ∧
      ∀ k, tget false t.spaces.remote k = if k = x * 4096 + a / 2 ^ 16 % 4096 then a.testBit 32 else tget false s.spaces.remote k) ∧
    (AtCommand s 0x46 → a < 2 ^ 17 → tget none s.spaces.roots x ≠ none → ∃ t, exec .hwin s = .next t ∧ ok t ∧
      t.spaces.window = if a.testBit 16 then (if s.spaces.window = some x then none else s.spaces.window) else some x) ∧
    (∀ leaf s1 r, let rcv := s.mem.readLE (seenAt 24) 8
      let ls := a / 2 ^ 17 % 64
      a < 2 ^ 23 → 12 ≤ ls → ls ≤ 40 → b < 2 ^ 48 → s.translate farTlb x b = some (leaf, s1) → leaf.host = false → s1.noToken leaf = false →
      let p := leaf.pa + b % 4096
      p % 2 ^ ls = 0 → p < Place.base .spad → NothingOnItsWay s1 p ls → tfind s1.regions p = some r → r.ls = ls →
      (AtCommand s 0x44 → rcv < 2 ^ 32 → s1.badId rcv = false → rcv ≠ r.holder → r.state = .excl → r.holder = Config.factorId →
        ∃ t, exec .fgrant s = .next t ∧ ok t ∧ tfind t.regions p =
          some (if a.testBit 16 then { r with state := .lent, lender := Config.factorId, holder := rcv } else { r with holder := rcv })) ∧
      (AtCommand s 0x45 → rcv = 0 → a.testBit 16 = false →
        (r.state = .quarantined ∨ r.state = .orphaned → ∃ t, exec .freclaim s = .next t ∧ ok t ∧ tfind t.regions p =
          some { r with state := (if r.shares = [] then .excl else .shared), holder := Config.factorId, lender := 0, dirtyLost := false,
                        lostLender := false, super := 0 }) ∧
        (r.state ≠ .quarantined → r.state ≠ .orphaned → ∃ t, exec .freclaim s = .next t ∧ t.regions = s.regions ∧
          ∃ bs, t.dev.answer = some (6, bs))))

/-! ### Work queues -/

/-- R23, R40 to R47, R255, R380: a published head is latched, its manifest read and its descriptor captured, and RIDX moves past
it; an unpublished one is polled, and after STALLLIM the queue stalls with a record of its own; each kind of packet does what it
is for and the queue goes on to the next; a SIGNAL completes once every earlier packet has. That a LAUNCH packet waits while no
launch number is free, and that a head slot without a translation counts as unpublished, are the model's readings (log entry 22);
so are the parties for which a packet start acts (log entry 21), and the numbers of copies are its own (log entry 50). -/
def PacketsLatchAndPass : Prop :=
  ∀ (s : State) (w : WorkQueue),
    let q := s.inp.a
    tfind s.queues q = some w →
    let field : List Byte → Nat → Nat → Nat := fun bs o n => natLE ((bs.drop o).take n)
    let keyed := s.dev.memoryKeys = true
    let free := w.closing = false ∧ w.stalled = false ∧ w.head = none ∧ w.packet = none
    let latches : Instr → List Byte → State → Prop := fun i bs s1 => ∃ t p, exec i s = .next t ∧
      tfind t.queues q = some { w with unpublished := none, notified := true, packet := some p } ∧ p.bytes = bs ∧
      p.prio = w.prio ∧ p.weight = w.weight ∧ p.ageceil = w.ageceil ∧ p.ns = s.dev.ns ∧
      (field bs 0 1 = 1 →
        (∀ st, s1.readManifest w.asid (field bs 8 8) = .inl st → p.launch = some (.inl st)) ∧
        ∀ r s2, s1.readManifest w.asid (field bs 8 8) = .inr (r, s2) → p.launch = some (.inr r)) ∧
      (keyed → natLE (t.bytes w.ridxPa 8) = (s.ridx w + 1) % 2 ^ 64)
    let passed : WorkQueue := { w with packet := none, notified := true }
    let signal : Signal := { vector := Config.msixVector 2, kind := 2, about := q }
    (free → w.notified = true → w.unpublished = none →
      (s.widx w ≤ s.ridx w → exec .queueExamine s = .next { s with queues := tput s.queues q { w with notified := false } }) ∧
      (s.ridx w < s.widx w → ∀ bs s1, s.headPacket w = some (bs, s1) → badPacket bs = none → latches .queueExamine bs s1) ∧
      (s.ridx w < s.widx w → ∀ bs s1 n, s.headPacket w = some (bs, s1) → badPacket bs = some n → ∃ t, exec .queueExamine s = .next t ∧
        tfind t.queues q = some { w with unpublished := none, notified := true } ∧ t.launches = s.launches ∧ t.copies = s.copies) ∧
      (s.ridx w < s.widx w → s.headPacket w = none → exec .queueExamine s =
        .next { s with queues := tput s.queues q { w with notified := false, unpublished := some s.dev.ns } })) ∧
    (free → ∀ t0, w.unpublished = some t0 →
      (∀ bs s1, s.headPacket w = some (bs, s1) → badPacket bs = none → latches .headerPoll bs s1) ∧
      (s.headPacket w = none → exec .headerPoll s = .next s) ∧
      (s.dev.ns < t0 + w.stalllim * 1000 → exec .stalledSlot s = .next s) ∧
      (t0 + w.stalllim * 1000 ≤ s.dev.ns → s.headPacket w = none → ∃ t, exec .stalledSlot s = .next t ∧
        tfind t.queues q = some { w with unpublished := none, stalled := true } ∧ signal ∈ t.dev.signals ∧
        ∀ p s1, keyed → s.distPlace w.asid w.qfault = some (p, s1) → s.widxAt p 128 = none → t.bytes p 1 = [20])) ∧
    (∀ pk : Packet, w.packet = some pk →
      let bs := pk.bytes
      (field bs 0 1 = 0 → exec .packetNop s = .next { s with queues := tput s.queues q passed }) ∧
      (field bs 0 1 = 4 → exec .packetSignal s =
        .next { s with queues := tput s.queues q { passed with waiting := w.waiting ++ [(bs, w.outstanding)] } }) ∧
      (field bs 0 1 = 1 → ∀ l, s.freeNumber = some l →
        (∀ st, pk.launch = some (.inl st) → ∃ t, exec .packetLaunch s = .next t ∧ t.launches = s.launches ∧
          tfind t.queues q = some passed ∧
          ∀ p s1, keyed → field bs 0x28 1 % 4 = 0 → field bs 0x18 8 ≠ 0 → field bs 0x20 8 = 0 →
            s.distPlace w.asid (field bs 0x18 8) = some (p, s1) → s.widxAt p 8 = none →
            natLE (t.bytes p 8) = (field bs 4 4 % 2 ^ 32 * 2 ^ 32 + st.2 % 2 ^ 16 * 2 ^ 16 + 256 + st.1) % 2 ^ 64) ∧
        (∀ r, pk.launch = some (.inr r) → ∃ t, exec .packetLaunch s = .next t ∧
          tfind t.queues q = some { w with packet := none, head := some l, outstanding := w.outstanding ++ [(0, l)] } ∧
          (∃ v, tfind t.launches l = some v ∧ v.m = r.m ∧ v.grants = r.grants ∧ v.codebooks = r.books ∧ v.phase = .latched ∧
            v.asid = w.asid ∧ v.queue = q ∧ v.prio = pk.prio ∧ v.weight = pk.weight ∧ v.ageceil = pk.ageceil ∧
            v.argAddr = field bs 0x10 8 ∧ v.complAddr = field bs 0x18 8 ∧ v.latchNs = pk.ns ∧ v.cores = []) ∧
          ∀ j ≠ l, tfind t.launches j = tfind s.launches j)) ∧
      (field bs 0 1 = 1 → s.freeNumber = none → exec .packetLaunch s = .next s) ∧
      (field bs 0 1 = 2 → ∃ t, exec .packetCopy s = .next t ∧ (t = s ∨ ∃ id c, tfind s.copies id = none ∧
        t.copies = tput s.copies id c ∧ tfind t.queues q = some { passed with outstanding := w.outstanding ++ [(1, id)] } ∧
        c.src = field bs 8 8 ∧ c.dst = field bs 0x10 8 ∧ c.len = field bs 0x18 8 ∧ c.progress = 0)) ∧
      (field bs 0 1 = 2 → s.copies = [] → ∃ t c, exec .packetCopy s = .next t ∧ t.copies = [(0, c)]) ∧
      (field bs 0 1 = 3 → s.colls = [] → tfind s.handles (field bs 0x14 2) = none → ∃ t c v, exec .packetColl s = .next t ∧
        t.colls = [c] ∧ c.record = field bs 8 8 ∧ c.gen = field bs 0x10 4 ∧ c.handle = field bs 0x14 2 ∧ c.stream = none ∧
        tfind t.handles (field bs 0x14 2) = some v ∧ v.launch = none ∧ v.gen = some (field bs 0x10 4))) ∧
    (∀ bs rest, w.waiting = (bs, []) :: rest → q < 4096 → ∃ t, exec .signalComplete s = .next t ∧
      tfind t.queues q = some { w with waiting := rest } ∧
      ∀ p s1, keyed → field bs 0x10 1 % 2 = 0 → field bs 8 8 ≠ 0 → s.distPlace w.asid (field bs 8 8) = some (p, s1) →
        s.widxAt p 8 = none → natLE (t.bytes p 8) = field bs 4 4 % 2 ^ 32 * 2 ^ 32 + 256) ∧
    (∀ bs x rest, w.waiting = (bs, x) :: rest → x ≠ [] → exec .signalComplete s = .next s)

/-- R255: a copy of bytes that lie in one 64-byte unit on either side, whose checks pass for the host or the Factor, ends with
exactly those bytes copied; one that waits for a page does nothing. That a copy acts for the host and the Factor is the model's reading
(log entry 42). -/
def CopiesMoveTheirBytes : Prop :=
  ∀ (s s1 s2 : State) (c : Copy) (p d : Nat) (leaf leaf' : Option Leaf), tfind s.copies s.inp.a = some c →
    (c.paging ≠ none → exec .copyComplete s = .next s) ∧
    (c.paging = none → c.dz = false → c.progress = 0 → c.carry = [] → c.carryBad = [] → 0 < c.len → c.src % 64 + c.len ≤ 64 → c.dst % 64 + c.len ≤ 64 → c.src < 2 ^ 64 →
      c.dst < 2 ^ 64 → s.inp.upto = none → s.poison = [] → s.dev.memoryKeys = true → c.complAddr = 0 →
      s.outsideSpot (s.copyAsid c) [Config.hostId, Config.factorId] 1 true c.src true false = (.ok p leaf none, s1) →
      s1.outsideSpot (s.copyAsid c) [Config.hostId, Config.factorId] 1 true c.dst false true = (.ok d leaf' none, s2) →
      s2.widxAt d c.len = none →
      ∃ t, exec .copyComplete s = .next t ∧ tfind t.copies s.inp.a = none ∧ t.bytes d c.len = s.bytes p c.len ∧ SameOutside s t d c.len)

/-- Work queue packets, and the distributor copy: `PacketsLatchAndPass`, `CopiesMoveTheirBytes`. -/
def Obligations.PacketsAndCopies : Prop :=
  PacketsLatchAndPass ∧ CopiesMoveTheirBytes

/-! ### Launches -/

/-- Every stream of a launch is at rest: nothing of it runs and nothing of it is on its way. -/
def Quiet (s : State) (l : Nat) : Prop :=
  ∀ i < (s.launchOf l).m.streams, (s.stream (l * 4096 + i)).running = [] ∧ (s.stream (l * 4096 + i)).accesses = []

/-- Nothing of a launch is left to be written anywhere but its completion word. -/
def Clear (s : State) (l : Nat) : Prop :=
  let v := s.launchOf l
  s.handlesOf l = [] ∧ s.regions = [] ∧ s.l1 = [] ∧ s.wc = [] ∧ s.traceBufs = [] ∧ s.dev.memoryKeys = true ∧ v.held = [] ∧ v.counterAddr = 0

/-- R27, R48, R54 to R64: selection takes a head or a checkpointed launch of the highest priority; placement starts every stream at
ENTRY with the values of R27; a newcomer that does not fit has the incumbents drained, checkpointed or killed that its walk
names; a checkpoint cuts every stream and leaves no cached sector on its cores, and frees them when it is complete; a restore
changes of a stream only where it stands and what it waited for; a kill leaves nothing of a launch on its way, and writes
KILLED, or FATAL with its cause where a machine check kills. Which of two checkpoints of
one instant is the older, and what a pick that does not fit costs, is the model's choice (log entry 22); so are a checkpoint in one
step (log entry 44), a halted part that selects, checkpoints and kills nothing (log entry 48), and the estimate of a restored
launch (log entry 80). -/
def Obligations.LaunchesComeAndGo : Prop :=
  ∀ s : State,
    let l := s.inp.a
    let v := s.launchOf l
    let candidates := s.heads.map Prod.snd ++ s.restorable
    (s.dev.halted = false → s.newcomers = [] → candidates ≠ [] → ∃ t m, exec .selection s = .next t ∧ t.newcomers = [m] ∧
      m ∈ candidates ∧ (∀ j ∈ candidates, s.priority j ≤ s.priority m) ∧
      ((∃ j ∈ s.restorable, s.priority j = s.priority m) → m ∈ s.restorable) ∧ t.launches = s.launches) ∧
    (s.newcomers = [] → candidates = [] → exec .selection s = .next s) ∧
    (s.dev.halted = true ∨ (∃ m ∈ s.newcomers, (s.fitsNow m).isSome = true) → exec .selection s = .next s) ∧
    (s.dev.halted = false → l ∈ s.newcomers → v.phase = .latched → ∀ cores, s.fitsNow l = some cores → v.grants = [] → v.argAddr = 0 →
      v.m.replay = 0 → (∀ n < v.m.faultPages, (s.translate farTlb v.asid (v.m.faultq + n * 4096)).isSome = true) →
      ∃ t, exec .placement s = .next t ∧ l ∉ t.newcomers ∧ (t.launchOf l).phase = .placed ∧ (t.launchOf l).cores = cores ∧
        (t.launchOf l).bound = s.priority l ∧ (t.launchOf l).m = v.m ∧
        (s.l1 = [] → ∀ a, ofLaunch l a = true → t.mem.get a = 0 ∧ t.poisoned a 1 = false) ∧
        ∀ i < v.m.streams, let u := t.stream (l * 4096 + i)
          u.pc = BitVec.ofNat 64 v.m.entry ∧ (∀ r, u.xr r = 0) ∧ u.p = 0 ∧ u.shape = 0 ∧ u.halted = false ∧ u.stopped = false ∧
          u.running = [] ∧ u.fq = [] ∧ u.acc = [] ∧ u.ssr = BitVec.ofNat 64 (v.m.waitlim * 2 ^ 32 + v.m.policy / 8 % 2)) ∧
    (s.dev.halted = false → l ∈ s.newcomers → v.phase = .latched → s.fitsNow l = none → ∃ t, exec .placement s = .next t ∧
      t.launches = s.launches ∧ t.streams = s.streams ∧ SameMemory s t) ∧
    (s.dev.halted = false → l ∈ s.newcomers →
      s.fit v.m (s.leaving l) (s.targetsBefore l) (s.shapeFor l) (s.roomFor l) = none →
      (∀ ds, s.walkIncumbents l (s.leaving l) [] (s.incumbents l) = some ds → ∃ t, exec .newcomerReevaluate s = .next t ∧
        ∀ i d, (i, d) ∈ ds → d = s.decide l i ∧ (d = .drain → l * 2 ^ 14 + i ∈ t.draining) ∧
          (d = .checkpoint → (t.launchOf i).phase = if (s.launchOf i).phase = .retiring then .retiring else .stopping) ∧ (d = .kill → (t.launchOf i).phase = .killing)) ∧
      (s.walkIncumbents l (s.leaving l) [] (s.incumbents l) = none → exec .newcomerReevaluate s = .next s)) ∧
    (s.dev.halted = true → exec .checkpoint s = .next s ∧ exec .rollbackBoundary s = .next s) ∧
    (s.dev.halted = false → v.phase = .stopping → s.retireReady l = false → (tfind s.launches l).isSome = true → Quiet s l →
      ∃ t, exec .checkpoint s = .next t ∧
      (t.launchOf l).phase = .checkpointed ∧ (t.launchOf l).ckptSeq = v.ckptSeq + 1 ∧
      (∀ c ∈ v.cores, ∀ e ∈ t.l1, e.1 / 2 ^ 32 ≠ c.phys) ∧
      ∀ i < v.m.streams, let u := s.stream (l * 4096 + i)
        let w := { u with fences := (t.stream (l * 4096 + i)).fences }
        t.stream (l * 4096 + i) = if u.stopped then w else { w with cut := u.cutAt u.pc }) ∧
    (v.phase = .checkpointed → v.cores ≠ [] → ∃ t, exec .checkpointComplete s = .next t ∧ (t.launchOf l).phase = .checkpointed ∧
      (t.launchOf l).cores = [] ∧ ∀ p s1, s.distPlace v.asid (v.m.ckpt + 32) = some (p, s1) → s.widxAt p 4 = none → t.mem.readLE p 4 = 1) ∧
    (s.dev.halted = false → l ∈ s.newcomers → v.phase = .checkpointed → v.cores = [] → s.handlesOf l = [] → ∀ cores,
      s.fitsNow l = some cores → ∃ t, exec .restore s = .next t ∧ l ∉ t.newcomers ∧ (t.launchOf l).phase = .placed ∧
        (t.launchOf l).cores = cores ∧ (t.launchOf l).est = v.est ∧ SameMemory s t ∧ t.tiles = s.tiles ∧ t.regions = s.regions ∧
        ∀ i < v.m.streams, let u := s.stream (l * 4096 + i)
          let w := t.stream (l * 4096 + i)
          w.scoord = (t.launchOf l).scoord i ∧ w.wait = none ∧ w.paging = none ∧ w.accesses = u.accesses ∧ w.cut = u.cut ∧
          w.x = u.x ∧ w.pc = u.pc ∧ w.ssr = u.ssr ∧ w.acc = u.acc ∧ w.running.length = u.running.length ∧
          (∀ unit ∈ [1, 2, 3, 4], (w.queue unit).wait = none ∧ (w.queue unit).paging = none ∧
            (w.queue unit).entries = (u.queue unit).entries ∧ (w.queue unit).appended = (u.queue unit).appended) ∧
          w = { u.restart with scoord := w.scoord }) ∧
    (v.phase = .killing → s.dev.halted = false → ∃ t, exec .kill s = .next t ∧ tfind t.launches l = none ∧ AtRest t l ∧
      (Quiet s l → Clear s l → ∀ p s1, v.complHost = false → v.complAddr ≠ 0 → s.distPlace v.asid v.complAddr = some (p, s1) →
        s.widxAt p 8 = none → t.mem.readLE p 8 = v.tag % 2 ^ 32 * 2 ^ 32 + 256 +
          (match v.fatal with | some code => code % 2 ^ 16 * 2 ^ 16 + 5 | none => 1))) ∧
    (v.phase ≠ .killing ∨ s.dev.halted = true → exec .kill s = .next s)

/-- R53, R392, R404 to R411: a rollback boundary that is due takes a checkpoint and goes on; a rollback puts back every stream, and
every sector that the launch wrote since, the newest first, so that a byte ends as its oldest entry has it, with its poison; a
token change among the launch's own parties is undone, one whose region has changed since stands (log entry 17); a launch that is ready retires when nothing it lent is out, or RETTO has expired; the
oldest held record is written into its slot of the pinned pages once that is free, and one without such a slot is lost; a release
lets the waiters of a generation go. A boundary and a rollback in one step are the model's choice (log entry 44), as is a halted
part without boundaries (log entry 48). That the registers of a retired launch stand is read from R54 and R366 (log entry 62). -/
def Obligations.LaunchesRollBackAndRetire : Prop :=
  ∀ s : State,
    let l := s.inp.a
    let v := s.launchOf l
    let due := v.resumeNs + v.m.rbint * 1000 ≤ s.dev.ns
    (s.dev.halted = false → v.phase = .placed → v.m.policy.testBit 2 = true → s.retireReady l = false →
      (tfind s.launches l).isSome = true → Quiet s l → s.handlesOf l = [] → due →
      ∃ t, exec .rollbackBoundary s = .next t ∧ (∀ e ∈ t.shadow, e.1 / 4096 ≠ l) ∧ (t.launchOf l).phase = .placed ∧ (t.launchOf l).snapshot.isSome = true ∧
        (t.launchOf l).sectorLog = [] ∧ (t.launchOf l).tokenLog = [] ∧ (t.launchOf l).resumeNs = s.dev.ns) ∧
    (s.dev.halted = true ∨ v.phase ≠ .placed ∨ v.m.policy.testBit 2 = false ∨ s.retireReady l = true ∨ (¬ due ∧ s.boundaryForced l = false) →
      exec .rollbackBoundary s = .next s) ∧
    (∀ lost n, v.phase = .rolling lost → v.snapshot = some n → s.handlesOf l = [] → ∃ t, exec .rollback s = .next t ∧
      (t.launchOf l).sectorLog = [] ∧ (t.launchOf l).tokenLog = [] ∧ (t.launchOf l).tags = n.tags ∧
      (let away := lost = true ∨ ∃ c ∈ v.cores, tget false s.dev.coreLost c.phys = true
       (away → (t.launchOf l).phase = .checkpointed ∧ (t.launchOf l).cores = []) ∧
       (¬ away → (t.launchOf l).phase = .placed ∧ (t.launchOf l).cores = v.cores)) ∧
      (∀ k u, k / 4096 = l → n.streams = [(k, u)] → t.stream k = { u.restart with scoord := (t.stream k).scoord }) ∧
      ((∀ e ∈ v.sectorLog, e.2.1.length = 256 ∧ e.1 + 256 ≤ 2 ^ 64) → (∀ e ∈ n.mem, 2 ^ 64 ≤ e.1) → (∀ e ∈ n.poison, 2 ^ 64 ≤ e.1) →
        v.m.replay = 0 → ∀ x < 2 ^ 64,
        match v.sectorLog.reverse.find? (fun e => decide (e.1 ≤ x ∧ x < e.1 + 256)) with
        | some e => t.mem.get x = e.2.1.getD (x - e.1) 0 ∧ (t.poisoned x 1 = true ↔ x - e.1 ∈ e.2.2)
        | none => t.mem.get x = s.mem.get x ∧ t.poisoned x 1 = s.poisoned x 1) ∧
      ∀ p old new r, v.tokenLog = [[(p, old, some new)]] → tfind s.regions p = some r →
        (r = new → tfind t.regions p = old) ∧ (r ≠ new → r.state ≠ .orphaned → tfind t.regions p = some r)) ∧
    (v.phase = .placed → s.dev.halted = false → s.retireReady l = true → Quiet s l → s.handlesOf l = [] → s.regions = [] →
      ∃ t, exec .retire s = .next t ∧ tfind t.launches l = none ∧ (Clear s l → ∀ k u, tfind s.streams k = some u → k / 4096 = l →
          (t.stream k).x = u.x ∧ (t.stream k).acc = u.acc ∧ (t.stream k).ssr = u.ssr) ∧
        ∀ p s1, Clear s l → v.complHost = false → v.complAddr ≠ 0 →
          s.distPlace v.asid v.complAddr = some (p, s1) → s.widxAt p 8 = none → v.m.replay ≠ 2 →
          t.mem.readLE p 8 = v.tag % 2 ^ 32 * 2 ^ 32 + min v.unreturned 0x7FFF * 2 ^ 16 + 256) ∧
    (v.phase = .retiring → s.lentOut l ≠ [] → exec .retire s = .next s) ∧
    (v.phase = .retiring → s.lentOut l = [] → ∃ t, exec .retire s = .next t ∧ tfind t.launches l = none) ∧
    (v.phase = .retiring → v.retireNs + v.m.retto * 1000 < s.dev.ns → s.lentOut l ≠ [] → ∃ t, exec .rettoExpiry s = .next t ∧
      tfind t.launches l = none ∧ ∀ p r, tfind s.regions p = some r → r.state = .lent → idOf l r.lender = true →
        idOf l v.m.returnto = false → p < 2 ^ 64 → ∃ u, tfind t.regions p = some u ∧ u.state = .lent ∧ u.lender = v.m.returnto) ∧
    (s.dev.ns ≤ v.retireNs + v.m.retto * 1000 → exec .rettoExpiry s = .next s) ∧
    (∀ r rest, (tfind s.launches l).isSome = true → v.held = r :: rest →
      let o := v.m.faultq % 4096 + ((r.extractLsb' 64 64).toNat - 1) % 2 ^ v.m.fqlog * 128
      (tfind v.pinned (o / 4096) = none → exec .faultRecordWrite s =
        .next (s.setLaunch l { v with held := rest, faultLost := min (v.faultLost + 1) 0xFFFFFFFF })) ∧
      ∀ page, tfind v.pinned (o / 4096) = some page →
      let p := page * 4096 + o % 4096
      (natLE (s.bytes p 4) < 2 ^ 31 → s.dev.memoryKeys = true → s.widxAt p 128 = none → ∃ t, exec .faultRecordWrite s = .next t ∧ (t.launchOf l).held = rest ∧
        (t.launchOf l).faultLost = 0 ∧ t.dev.signals = s.dev.signals ++ [{ vector := Config.msixVector 1, kind := 1, about := l }] ∧
        natLE (t.bytes p 128) = (r.toNat + v.faultLost * 2 ^ 480) % 2 ^ 1024) ∧
      (2 ^ 31 ≤ natLE (s.bytes p 4) → ∃ t, exec .faultRecordWrite s = .next t ∧ t.launches = s.launches ∧ SameMemory s t)) ∧
    ((tfind s.launches l).isSome = true → ∃ t, exec .barrierRelease s = .next t ∧
      ((t.launchOf l).barTag s.inp.b).released = (v.barTag s.inp.b).gen ∧
      ∀ j ≠ s.inp.b, (t.launchOf l).barTag j = v.barTag j)

/-! ### What comes back to a stream -/

/-- Stream `k` stops with a record: its cut is at its PC, and the record, where fewer than 64 are held, names the cause's code, the
unit, the stream, `pc` and the cause's first words (R116, R390, R391). -/
def StopsWith (s t : State) (k unit : Nat) (pc : Word) (code : Nat) (args : List Nat) : Prop :=
  let l := k / 4096
  (t.stream k).stopped = true ∧ (t.stream k).cut.pc = (s.stream k).pc ∧
    ((s.launchOf l).held.length < 64 → ∃ r : BitVec 1024, (t.launchOf l).held = (s.launchOf l).held ++ [r] ∧
      r.extractLsb' 0 8 = BitVec.ofNat 8 code ∧ r.extractLsb' 8 8 = BitVec.ofNat 8 unit ∧
      r.extractLsb' 32 16 = BitVec.ofNat 16 (k % 4096) ∧ r.extractLsb' 192 64 = pc ∧
      ∀ i < args.length, r.extractLsb' (512 + 64 * i) 64 = BitVec.ofNat 64 (args.getD i 0))

/-- R391: the words that a timed-out wait of stream `k` reports: of a tile its number, the expected and the observed count and the
first instruction word; of a barrier its tag, the generation and the arrivals counted; else those it holds. A NONE operand has no
expected count, so that word is not stated (log entry 11). -/
def timeoutWords (s : State) (k : Nat) (w : Wait) : List Nat :=
  match w.tile, w.tag with
  | some x, _ =>
    if x.mode = 0 then []
    else [x.num + x.exp.toNat * 2 ^ 16 + (s.tile x.key).count.toNat * 2 ^ 32, w.args.headD 0]
  | none, some tag =>
    let gen := tget 0 (s.stream k).pend tag - 1
    let b := (s.launchOf (k / 4096)).barTag tag
    [tag, gen % 2 ^ 32, if b.gen = gen then b.arrived.length else 0]
  | none, none => w.args

/-- R79, R107, R113, R114, R276: QUEUE_APPEND does what the sequencer does with the long instruction at its PC; an entry that
completes makes its version, gives up its marks and sets its flags, and may give up its marks before that. -/
def EntriesAreAppendedAndEnd : Prop :=
  ∀ (s s1 s2 : State) (w0 w1 : Word) (i : Instr),
    let k := s.inp.a
    let u := s.stream k
    let me := s.about k
    (me.fetchWord (me.physOf k) me.launchNo me.st.pc.toNat false = (.word w0, s1) → isLong w0 = true →
      s1.fetchWord (me.physOf k) me.launchNo (me.st.pc.toNat + 8) true = (.word w1, s2) → decode w0 w1 = .ok i →
      ∃ t, exec .queueAppend s = .next t ∧ exec i s2 = .next t) ∧
    (s.inp.c = 0 → s.runs k = false → exec .engineEntryComplete s = .next s) ∧
    (s.runs k = true → ∀ r m, u.running[s.inp.b]? = some r → r.marks = [m] →
      (s.inp.c = 2 → ∃ t, exec .engineEntryComplete s = .next t ∧ SameMemory s t ∧
        (t.tile m).inflight = (s.tile m).inflight - 1 ∧ (t.stream k).running = u.running.set s.inp.b { r with marks := [] }) ∧
      ∀ v, s.inp.c = 0 → r.unit ∈ [1, 2, 4] → r.paging = none → r.codebook = none → r.porter = none → r.versions = [v] →
        m ≠ v.tile → tef r.entry.ssr &&& r.flags = 0 → s.poison = [] →
        ∃ t, exec .engineEntryComplete s = .next t ∧ (t.stream k).running = u.running.eraseIdx s.inp.b ∧
          (t.stream k).ssr = u.ssr ||| (r.flags.setWidth 64 <<< 8) ∧ (t.tile m).inflight = (s.tile m).inflight - 1 ∧
          (t.tile v.tile).count = (s.tile v.tile).count + 1 ∧ (t.tile v.tile).quota = v.quota ∧ (t.tile v.tile).skip = v.skip ∧
          (t.tile v.tile).wip = false ∧ t.mem = (if v.skip then s.mem else s.mem.patch (tilePlace v.tile) v.bytes))

/-- R99: the flags of an entry that completes are sticky in SSR, and one that it enabled when it was captured stops its stream with
ARITH after its versions are made. -/
def EntryFlagsAreSticky : Prop :=
  ∀ (s : State) (r : Running),
    let k := s.inp.a
    let u := s.stream k
    s.runs k = true → s.inp.c = 0 → u.running[s.inp.b]? = some r → r.unit ∈ [1, 2, 4] → r.paging = none → r.codebook = none →
    r.porter = none → u.stopped = false →
    ∃ t, exec .engineEntryComplete s = .next t ∧ (t.stream k).ssr = u.ssr ||| (r.flags.setWidth 64 <<< 8) ∧
      (tef r.entry.ssr &&& r.flags = 0 → (t.stream k).stopped = false) ∧
      (tef r.entry.ssr &&& r.flags ≠ 0 →
        StopsWith s t k r.unit r.entry.pc 16 [r.flags.toNat, (u.ssr ||| (r.flags.setWidth 64 <<< 8)).toNat])

/-- R113, R354: a wait that has lasted WAITLIM raises WAIT_TIMEOUT, of the instruction at issue or of the head of a queue; one that
has not, or whose barrier is released or replay turn has come, does not. -/
def WaitsTimeOut : Prop :=
  ∀ s : State,
    let k := s.inp.a
    let u := s.stream k
    let me := s.about k
    s.inp.c = 0 → s.runs k = true → u.stopped = false →
    (∀ w, s.inp.b = 0 → u.wait = some w → u.halted = false →
      let done := (w.tag.isSome = true ∨ w.actor.isSome = true) ∧ me.waitOver k 0 w = true
      (waitlim u.ssr ≤ me.measure k w → ¬ done → ∃ t, exec .waitTimeout s = .next t ∧
        StopsWith s t k 0 u.pc 7 (timeoutWords s k w) ∧ (t.stream k).wait = none ∧ (∀ r, (t.stream k).xr r = u.xr r) ∧ SameMemory s t) ∧
      (me.measure k w < waitlim u.ssr ∨ done → exec .waitTimeout s = .next me)) ∧
    (∀ w e rest, s.inp.b ∈ [1, 2, 3, 4] → (u.queue s.inp.b).wait = some w → (u.queue s.inp.b).entries = e :: rest →
      (waitlim e.ssr ≤ me.measure k w → ∃ t, exec .waitTimeout s = .next t ∧
        StopsWith s t k s.inp.b e.pc 7 (timeoutWords s k w) ∧ ((t.stream k).queue s.inp.b).entries = e :: rest ∧ SameMemory s t) ∧
      (me.measure k w < waitlim e.ssr → exec .waitTimeout s = .next me))

/-- R218, R223, R326, R386: a pending access performs once nothing that it follows and no watermark or full log holds it back: a
load's bytes go to its register, a store's to their place; of a pair either 8-byte half may perform alone (R217). One that ends as a remote error gives all ones or drops its store,
sets REMERR, and stops its stream as REMOTE where TEREM is 1. -/
def PendingAccessesEnd : Prop :=
  ∀ (s : State) (p : Access),
    let k := s.inp.a
    let u := s.stream k
    let me := s.about k
    tfind u.accesses s.inp.b = some p →
    let rest := tdel u.accesses s.inp.b
    let one := p.isPair = true ∧ (s.inp.c = 1 ∨ s.inp.c = 2)
    let half := p.first (s.inp.c == 2)
    (¬ one → p.failed = true ∨ u.blocked s.inp.b p = true ∨ me.mayPerform k p = false → exec .loadDataArrives s = .next me) ∧
    (one → p.failed = true ∨ u.blocked s.inp.b half = true ∨ me.mayPerform k half = false → exec .loadDataArrives s = .next me) ∧
    (one → p.failed = false → u.blocked s.inp.b half = false → me.mayPerform k half = true → p.leaf = none → p.sem = 0 →
      ∀ a, p.places = [a] → Place.base .spad ≤ a →
        let o := if s.inp.c = 2 then 8 else 0
        let waits := tput u.accesses s.inp.b (p.rest (s.inp.c != 2))
        (p.todo = .load none → s.poison = [] → ∃ t, exec .loadDataArrives s = .next t ∧
          t.stream k = { u with x := (t.stream k).x, accesses := waits } ∧ SameMemory s t ∧
          ∀ r, (t.stream k).xr r = if r = 0 then 0 else if r = (if s.inp.c = 2 then p.xt + 1 else p.xt) then BitVec.ofNat 64 (s.readLE (a + o) 8)
            else u.xr r) ∧
        ∀ bs, p.todo = .store bs → bs.length = 16 → ∃ t, exec .loadDataArrives s = .next t ∧ t.stream k = { u with accesses := waits } ∧
          t.mem.read (a + o) 8 = (bs.drop o).take 8 ∧ SameOutside s t (a + o) 8) ∧
    (¬ one → p.failed = false → u.blocked s.inp.b p = false → me.mayPerform k p = true → u.fences = [] → p.leaf = none → p.sem = 0 →
      ∀ a, p.places = [a] → Place.base .spad ≤ a →
        (p.todo = .load none → s.poison = [] → ∃ t, exec .loadDataArrives s = .next t ∧
          t.stream k = { u with x := (t.stream k).x, accesses := rest } ∧ SameMemory s t ∧
          let v := s.readLE a p.n
          ∀ r, (t.stream k).xr r = if r = 0 then 0 else if p.n = 16 ∧ r = p.xt + 1 then BitVec.ofNat 64 (v / 2 ^ 64)
            else if r ≠ p.xt then u.xr r
            else if p.n ≠ 16 ∧ p.sx = true then BitVec.ofInt 64 (sextNat v (8 * p.n)) else BitVec.ofNat 64 v) ∧
        ∀ bs, p.todo = .store bs → bs.length = p.n → ∃ t, exec .loadDataArrives s = .next t ∧ t.stream k = { u with accesses := rest } ∧
          t.mem.read a bs.length = bs ∧ SameOutside s t a bs.length) ∧
    (p.space ≠ 4 ∧ p.space ≠ 5 ∨ (p.failed = false ∧ u.blocked s.inp.b p = true) → exec .remoteErrorReturn s = .next s) ∧
    (p.space = 4 ∨ p.space = 5 → p.failed = true ∨ u.blocked s.inp.b p = false → u.fences = [] →
      let stores : Prop := ∃ bs, p.todo = .store bs
      let reads : Prop := ∃ w, p.todo = .load w
      ∃ t, exec .remoteErrorReturn s = .next t ∧ SameMemory s t ∧
        (stores → t.dev.droppedStores = s.dev.droppedStores + 1) ∧ (¬ stores → t.dev.droppedStores = s.dev.droppedStores) ∧
        (∀ r, (r ≠ 0 ∧ ¬ stores ∧ (r = p.xt ∨ (p.n = 16 ∧ r = p.xt + 1)) → (t.stream k).xr r = BitVec.allOnes 64) ∧
          (r = 0 ∨ stores ∨ (r ≠ p.xt ∧ (p.n = 16 → r ≠ p.xt + 1)) → (t.stream k).xr r = u.xr r)) ∧
        (u.ssr.getLsbD 22 = false → t.stream k = { u with x := (t.stream k).x, ssr := u.ssr ||| 4, accesses := rest }) ∧
        (u.ssr.getLsbD 22 = true → u.stopped = false →
          (reads → StopsWith s t k 0 p.pc 17 [p.addr.toNat, p.space * 16]) ∧
          (¬ reads → StopsWith s t k 0 p.pc 17 [p.addr.toNat, 1 + p.space * 16])))

/-- R18, R398: a page request that is not answered ends in TRANSLATION after a second, of the sequencer that waits for it; on a
halted part nothing ends it, which is the model's reading of R18 (log entry 48). -/
def PageRequestsTimeOut : Prop :=
  ∀ s : State,
    let key := pageKey s.inp.a s.inp.b
    (tfind s.pageRequests key = none ∨ s.dev.halted = true → exec .pageServiceTimeout s = .next s) ∧
    ∀ t0, tfind s.pageRequests key = some t0 →
      (s.dev.ns < t0 + 10 ^ 9 → exec .pageServiceTimeout s = .next s) ∧
      (t0 + 10 ^ 9 ≤ s.dev.ns → s.dev.halted = false → s.copies = [] → s.colls = [] → ∀ j x w, s.streams = [(j, x)] → x.paging = some w →
        pageKey w.asid w.va = key → w.next = false → x.porterQ.paging = none → x.running = [] → x.stopped = false →
        ∃ t, exec .pageServiceTimeout s = .next t ∧ tfind t.pageRequests key = none ∧ (t.stream j).paging = none ∧
          StopsWith s t j 0 x.pc 12
            [w.va, (if w.store then 1 else 0) + (if w.fetch then 2 else 0) + w.space * 16])

/-- What comes back to a stream: `EntriesAreAppendedAndEnd`, `EntryFlagsAreSticky`, `WaitsTimeOut`, `PendingAccessesEnd`,
`PageRequestsTimeOut`. -/
def Obligations.StreamsAreAnswered : Prop :=
  EntriesAreAppendedAndEnd ∧ EntryFlagsAreSticky ∧ WaitsTimeOut ∧ PendingAccessesEnd ∧ PageRequestsTimeOut

/-! ### Errors, ports, the host -/

/-- R118, R119, R402: a comparison of the Rearguard's copy with the operation at a stream's PC or the head of one of its queues that
holds changes nothing, and one that fails is a machine check: it stops a launch with a rollback checkpoint for its rollback, and
is fatal to any other, and to any that is to be killed. Of an entry are compared its words, captured operands, SHAPE, SSR, rounding
mode, expected counts and the format word it is bound to. -/
def RearguardCompares : Prop :=
  ∀ (s : State) (sh : Stream),
    let a := s.inp.a
    let unit := s.inp.b
    let l := a / 4096
    let v := s.launchOf l
    let u := s.stream a
    let back := v.m.policy / 4 % 2 = 1 ∧ v.snapshot.isSome = true ∧ v.phase ≠ .killing
    let fails := (back → ∃ t lost, exec .rearguardCheck s = .next t ∧ (t.launchOf l).phase = .rolling lost) ∧
      (¬ back → ∃ t, exec .rearguardCheck s = .next t ∧ (t.launchOf l).phase = .killing ∧ (t.launchOf l).fatal.isSome = true ∧
        (v.fatal = none → (t.launchOf l).fatal = some 23))
    let holds := exec .rearguardCheck s = .next s
    (s.runs a = false ∨ tfind s.shadow a = none → holds) ∧
    (s.runs a = true → tfind s.shadow a = some sh →
      (unit = 0 → ∀ i, (s.about a).instrAt a = some i → leavesCore i = true → u.guardTrue i.guard = true ∨ sh.guardTrue i.guard = true →
        (opValues u i = opValues sh i → holds) ∧ (opValues u i ≠ opValues sh i → fails)) ∧
      ∀ e rest x more, unit ∈ [1, 2, 3, 4] → (u.queue unit).entries = e :: rest → (sh.queue unit).entries = x :: more →
        let same := e.w0 = x.w0 ∧ e.w1 = x.w1 ∧ e.xs1 = x.xs1 ∧ e.xs2 = x.xs2 ∧ e.shape = x.shape ∧ e.ssr = x.ssr ∧ e.rm = x.rm ∧
          e.edt = x.edt ∧ e.eta = x.eta ∧ e.etb = x.etb ∧ e.etc = x.etc ∧
          (e.pops = true → e.unbound = false → sh.boundWord unit = [u.fq.headD 0])
        (same → holds) ∧ (¬ same → fails))

/-- R211, R402, R403: an uncorrectable error poisons the bytes of a store or of an L1 sector that it strikes, or, in control state,
loses its core; a lost core leaves no sector in its L1, and the regions of its streams and channels are ORPHANED. -/
def UncorrectableErrors : Prop :=
  ∀ s : State,
    let a := s.inp.a
    let l := a / 4096
    (s.inp.c = 0 → a + s.inp.d ≤ Place.base .host → ∃ t, exec .uncorrectableError s = .next t ∧ SameMemory s t ∧
      ∀ p, t.poisoned p 1 = true ↔ (a ≤ p ∧ p < a + s.inp.d) ∨ s.poisoned p 1 = true) ∧
    (s.inp.c = 3 → ∀ x, tfind s.l1 a = some x → s.inp.b < 256 → ∃ t y, exec .uncorrectableError s = .next t ∧
      tfind t.l1 a = some y ∧ y = { x with poison := y.poison } ∧
      ∀ i < 256, y.poison.getLsbD i = true ↔ (s.inp.b ≤ i ∧ i < s.inp.b + s.inp.d) ∨ x.poison.getLsbD i = true) ∧
    (s.inp.c = 1 → s.hasStream a = true → s.checked l = true → ∃ t, exec .uncorrectableError s = .next t ∧
      tget false t.dev.coreLost (s.physOf a) = true ∧ t.dev.uncorrectable = s.dev.uncorrectable + 1) ∧
    (∀ i, i = .coreLost ∨ (i = .uncorrectableError ∧ s.inp.c = 2 ∧ s.streamsOn a = []) → a < 384 → ∃ t, exec i s = .next t ∧
      tget false t.dev.coreLost a = true ∧ (∀ e ∈ t.l1, e.1 / 2 ^ 32 ≠ a) ∧
      ∀ p r, tfind s.regions p = some r → r.state ≠ .quarantined → r.state ≠ .orphaned → idKind r.holder = 0 ∨ idKind r.holder = 2 →
        s.location r.holder = [a] → ∃ u, tfind t.regions p = some u ∧ u.state = .orphaned ∧ u.super = s.superOf r.holder)

/-- R407, R408: a corrected error fills its bucket, which at MARK disarms itself, raises its event and counts once; in Bloom mode one
whose row is in the filter already is not counted; a leak lowers every bucket of its class. What the event of a lane does to a
port that keeps four good lanes is here, of one that does not in `PortsSendAndRetrain`. -/
def CorrectedErrorsAreCounted : Prop :=
  ∀ s : State,
    let a := s.inp.a
    (let b := s.inp.b
     let key := a * 2 ^ 20 + b
     let n := tget 0 s.dev.buckets key
     let filtered := a = 0 ∧ (s.bktcfg 0).getLsbD 0 = true
     let bits := bloomBits (b % 64) s.inp.c
     let seen := (tget 0 s.dev.blooms (b / 64)).getLsbD bits.1 = true ∧ (tget 0 s.dev.blooms (b / 64)).getLsbD bits.2 = true
     s.dev.railsGood = true → a = 0 ∧ b < 65536 ∨ a = 1 ∧ b < 144 ∨ a = 2 ∧ b < 48 → s.inp.c < 2 ^ 18 → s.leak a = s →
       (a = 1 → (s.port (b / 9)).up = true → 5 ≤ (s.port (b / 9)).good) →
       ∃ t, exec .correctedError s = .next t ∧ (∀ j ≠ key, tget 0 t.dev.buckets j = tget 0 s.dev.buckets j) ∧
         (filtered → seen → tget 0 t.dev.buckets key = n) ∧
         (¬ (filtered ∧ seen) → tget 0 t.dev.buckets key = min (n + 1) 65535 ∧
           if min (n + 1) 65535 < s.mark a ∨ tget false s.dev.disarmed key = true then
             t.dev.events = s.dev.events ∧ t.dev.predictive = s.dev.predictive ∧ t.ports = s.ports
           else t.dev.events = s.dev.events ++ [2 ^ 32 + key] ∧ tget false t.dev.disarmed key = true ∧
             tget 0 t.dev.predictive a = tget 0 s.dev.predictive a + 1 ∧
             (a = 1 → (s.port (b / 9)).up = true → (t.port (b / 9)).good = (s.port (b / 9)).good - 1))) ∧
    ∃ t, exec .bucketLeak s = .next t ∧
      let n := s.dev.ns / (s.leakPeriod a * 10 ^ 6) - tget 0 s.dev.leaks a
      (∀ k, tget 0 t.dev.buckets k = if k / 2 ^ 20 = a then tget 0 s.dev.buckets k - n else tget 0 s.dev.buckets k) ∧
      (n ≠ 0 → a = 0 → t.dev.blooms = []) ∧ (n = 0 → t = s)

/-- Divergences, uncorrectable and corrected errors: `RearguardCompares`, `UncorrectableErrors`, `CorrectedErrorsAreCounted`. -/
def Obligations.ErrorsAreContained : Prop :=
  RearguardCompares ∧ UncorrectableErrors ∧ CorrectedErrorsAreCounted

/-- R381 to R383: a flit takes a permit and stays in the replay buffer until the peer has acknowledged it; a permit moves on and never
changes the sum, but one lost on the way lowers it, which the audit finds; a lane that fails is made up by the spare, then by four
lanes, then the port is down, and its replay buffer is sent again over another route. -/
def PortsSendAndRetrain : Prop :=
  ∀ s : State,
    let a := s.inp.a
    let b := s.inp.b
    let key := (a * 2 + b % 2) * 2 + b / 2
    let idx := a * 2 + b % 2
    let port := s.port a
    let old := tget Permits.default s.permits key
    let now : State → Permits := fun t => tget Permits.default t.permits key
    (port.up = true → port.retraining = false → a < 16 → b < 4 →
      (∃ t, exec .flitReceive s = .next t ∧
        (s.inp.c ≠ 3 ∨ old.returning = 0 → (now t).total = old.total) ∧
        (s.inp.c = 3 → old.returning ≠ 0 → (now t).total + 1 = old.total) ∧
        ∀ j ≠ key, tget Permits.default t.permits j = tget Permits.default s.permits j) ∧
      (s.inp.c = 0 → b < 2 → port.replaying = false → old.held ≠ 0 → ∃ t, exec .flitReceive s = .next t ∧
        (now t).held + 1 = old.held ∧ (t.port a).replaying = !s.inp.ok ∧
        (s.inp.ok = true → (now t).occupied = old.occupied + 1) ∧ (s.inp.ok = false → (now t).inflight = old.inflight + 1)) ∧
      (∀ x s1, s.inp.c = 4 → 2 ≤ b → old.held ≠ 0 → s.nextFlit port.routes (b - 2) s.inp.d = some (x, s1) →
        ∃ t, exec .flitReceive s = .next t ∧ (now t).held + 1 = old.held ∧ (now t).inflight = old.inflight + 1 ∧
          (t.port a).replay = port.replay ++ [x] ∧ t.sent = s1.sent ∧ t.resend = s1.resend) ∧
      (∀ x rest, s.inp.c = 0 → 2 ≤ b → port.replay = x :: rest → x.vc = b - 2 →
        (s.inp.ok = false → exec .flitReceive s = .next s) ∧
        (s.inp.ok = true → old.inflight ≠ 0 → ∃ t, exec .flitReceive s = .next t ∧ (t.port a).replay = rest ∧
          (now t).inflight + 1 = old.inflight ∧ (now t).occupied = old.occupied + 1))) ∧
    (port.up = true → a < 16 → b < 4 →
      (old.total = 256 → exec .permitAudit s = .next s) ∧
      (old.total ≠ 256 → ∃ t, exec .permitAudit s = .next t ∧ (t.port a).retraining = true ∧
        tget 0 t.dev.lostPermits idx = tget 0 s.dev.lostPermits idx + 1)) ∧
    (port.up = true → a < 16 → ∃ t, exec .laneFailure s = .next t ∧ (t.port a).good = port.good - 1 ∧
      (port.good - 1 < 4 → (t.port a).up = false) ∧
      (4 ≤ port.good - 1 → (t.port a).up = true ∧ (t.port a).spare = true ∧ (port.spare = true → (t.port a).retraining = true) ∧
        (port.spare = false → (t.port a).retraining = port.retraining))) ∧
    (port.up = true → port.retraining = true → ∃ t, exec .portRetrainComplete s = .next t ∧
      (s.inp.ok = true → (t.port a).up = true ∧ (t.port a).lanes = 4 ∧ (t.port a).retraining = false ∧ (t.port a).replay = port.replay ∧
        ∀ j < 4, (tget Permits.default t.permits (a * 4 + j)).total = 256) ∧
      (s.inp.ok = false → (t.port a).up = false ∧
        ((∀ dev ∈ port.routes, ∃ m p, (m, p) ∈ s.ports ∧ m ≠ a ∧ p.up = true ∧ dev ∈ p.routes) →
          t.resend = s.resend ++ port.replay ∧ t.peersLost = s.peersLost)))

/-- R370, R373, R374, R376: a packet of a chunk is stored, held for the next generation, or dropped; a chunk counts once all of its
bytes have arrived; a transfer to a peer is acknowledged once it is delivered; a refused packet comes again after 2 µs. -/
def ChunksArrive : Prop :=
  ∀ s : State,
    let a := s.inp.a
    (∀ c, s.inp.chunk = some c → c.dev ≠ Config.deviceNumber → s.routed c.dev = true → chunkOk c = true →
      (tfind s.handles c.handle = none → ∃ t, exec .chunkArrival s = .next t ∧ SameMemory s t ∧
        t.dev.droppedStores = s.dev.droppedStores + 1 ∧ t.reply = some .remoteError) ∧
      ∀ v, tfind s.handles c.handle = some v →
        (c.gen = (v.gen.getD 0 + 1) % 2 ^ 32 → ∃ t, exec .chunkArrival s = .next t ∧ SameMemory s t ∧
          (if s.heldBytes + c.bytes.length ≤ 65536 then tfind t.handles c.handle = some { v with held := v.held ++ [c] } else t = s)) ∧
        ∀ r p q s1, v.gen = some c.gen → v.recv = some r → c.op = 0 → c.bytes.length = 64 → c.off = 0 → c.bad = [] →
          (let m := 64 - c.dst % 64
           let parts := if m = 64 then [(p, 64)] else [(p, m), (q, 64 - m)]
           s.chunkPlaces c.handle v.asid (unitsAt c.dst 64) = .ok (parts, s1) ∧ (p + m ≤ q ∨ q + (64 - m) ≤ p)) →
          (∀ l, v.launch = some l → s1.logFull l p = false ∧ s1.logFull l q = false) →
          s.dev.memoryKeys = true → colHold r = true → colAkind r = 0 → s.colls = [] → v.held = [] → v.counts = [] →
          ∃ t x, exec .chunkArrival s = .next t ∧ tfind t.handles c.handle = some x ∧
            (let m := 64 - c.dst % 64
             t.bytes p m = c.bytes.take m ∧ (m < 64 → t.bytes q (64 - m) = c.bytes.drop m)) ∧
            (c.size = 64 → x.arrivals = v.arrivals + 1 ∧ x.counts = []) ∧
            (64 < c.size → x.arrivals = v.arrivals ∧ x.counts = [(chunkKey c, 64)])) ∧
    (s.inp.chunk = none → s.inp.b = 1 → tfind s.handles a = none → exec .chunkArrival s = .next s) ∧
    (∀ x, s.colls = [x] → x.id = a → s.inp.b ∈ x.unacked → colDevice x.record x.ring s.inp.b ≠ Config.deviceNumber →
      tfind s.handles x.handle = none →
      (s.inp.ok = true → s.delivered a s.inp.b = false → exec .transferAcknowledged s = .next s) ∧
      (s.inp.ok = false ∨ s.delivered a s.inp.b = true → ∃ t, exec .transferAcknowledged s = .next t ∧
        t.colls = [{ x with unacked := x.unacked.erase s.inp.b, failed := x.failed.or (if s.inp.ok then none else some s.inp.b) }])) ∧
    (∀ t0 c, s.refused[a]? = some (t0, c) → tfind s.handles c.handle = none →
      (s.dev.ns < t0 + 2000 → exec .chunkResend s = .next s) ∧
      (t0 + 2000 ≤ s.dev.ns → ∃ t, exec .chunkResend s = .next t ∧
        t.refused = s.refused.eraseIdx a ∧ t.dev.droppedStores = s.dev.droppedStores + 1))

/-- R386: the ports that lead to a lost peer alone go down, and no other leads to it; a new blade starts, in stage 6, without remote access.
That a port which leads to other peers too stays up is the model's reading (log entry 54). -/
def PeersComeAndGo : Prop :=
  ∀ s : State,
    let a := s.inp.a
    let six := s.dev.railsGood = true ∧ s.dev.stopped = false ∧ s.dev.halted = false ∧ s.dev.stage.toNat = 6
    (a < 4096 → a ≠ Config.deviceNumber → tget false s.peersLost a = false → ∃ t, exec .peerLost s = .next t ∧
      tget false t.peersLost a = true ∧ ∀ n, ((s.port n).routes = [a] → (t.port n).up = false) ∧ ((t.port n).up = true → a ∉ (t.port n).routes)) ∧
    (a < 4096 → a ≠ Config.deviceNumber → six → ∃ t, exec .bladeInserted s = .next t ∧ tget false t.peersLost a = false ∧
      (∀ asid, tget false t.spaces.remote (asid * 4096 + a) = false) ∧
      ∀ n ∈ s.inp.nums, (t.port (n % 16)).up = true ∧ a ∈ (t.port (n % 16)).routes) ∧
    (¬ six → exec .bladeInserted s = .next s)

/-- Ports, chunks and peers: `PortsSendAndRetrain`, `ChunksArrive`, `PeersComeAndGo`. -/
def Obligations.PortsAndChunks : Prop :=
  PortsSendAndRetrain ∧ ChunksArrive ∧ PeersComeAndGo

/-- R38, R191, R384 to R386, R412: what the host and a peer write, read and change of device memory through an open window, and how
each is turned away; an uncorrectable error of the link contains the host's traffic, and a link that goes down stays contained
until it is up again; the drained records of one event stand in their ring, all or none of them. That a ring is full after 2^n
records, later ones being lost, is the model's choice (log entry 13); that an AtomicOp of another size than 4 or 8 bytes is not
supported (log entry 65), and that containment fails the accesses on their way to the host (log entry 54), are its readings. -/
def Obligations.OutsideAccesses : Prop :=
  ∀ (s s1 : State) (asid p : Nat) (leaf : Option Leaf),
    let a := s.inp.a
    let n := s.inp.bytes.length
    let hears := s.dev.ready = true ∧ s.hostUp = true ∧ s.hostContained = false
    let whole := s.poison = [] ∧ s.own = [] ∧ s.dev.memoryKeys = true
    let host : Bool → Bool → Prop := fun load store =>
      s.outsideSpot asid [Config.hostId] 1 false a load store = (.ok p leaf none, s1) ∧ s.spaces.window = some asid ∧ a < 2 ^ 40
    let replies : Instr → Completion → Prop := fun i c => ∃ t, exec i s = .next t ∧ t.reply = some c ∧ SameMemory s t
    (s.hostUp = true → ∃ t, exec .hostLinkDown s = .next t ∧ t.hostContained = true ∧
      (s.inp.b ≠ 1 → t.hostUp = false) ∧ (s.inp.b = 1 → t.hostUp = true ∧ t.regions = s.regions) ∧
      ∀ k x no y, tfind s.streams k = some x → tfind x.accesses no = some y → y.space = 5 →
        tfind (t.stream k).accesses no = some { y with failed := true }) ∧
    (s.dev.ready = true → s.hostContained = true → s.inp.ok = true → ∃ t, exec .hostLinkRetrain s = .next t ∧
      t = { s with hostUp := true, hostContained := false, hostLanes := t.hostLanes, hostRate := t.hostRate }) ∧
    (hears → 0 < n → n ≤ 512 → a % 4096 + n ≤ 4096 → s.inp.flags = [] →
      (host false true → s1.widxAt p n = none → ∃ t, exec .hostPostedWrite s = .next t ∧ t.mem.read p n = s.inp.bytes ∧
        SameOutside s t p n ∧ t.regions = s.regions) ∧
      (s.spaces.window = none → ∃ t, exec .hostPostedWrite s = .next t ∧ SameMemory s t ∧
        t.dev.droppedStores = s.dev.droppedStores + 1)) ∧
    (hears →
      (s.spaces.window = none → replies .hostRead .abort ∧ (s.inp.c = 4 ∨ s.inp.c = 8 → replies .hostAtomicop .abort)) ∧
      (host true false → whole → a + s.inp.c ≤ 2 ^ 40 → 0 < s.inp.c → a % 4096 + s.inp.c ≤ 4096 →
        replies .hostRead (.data (s.mem.read p s.inp.c) [])) ∧
      (s.inp.c ≠ 4 → s.inp.c ≠ 8 → replies .hostAtomicop .unsupported) ∧
      (host true true → whole → s.inp.c = 4 ∨ s.inp.c = 8 → a % s.inp.c = 0 → s.widxOf asid a s.inp.c = none →
        let m := s.mem.readLE p s.inp.c
        let x := s.inp.w0.toNat % 2 ^ (8 * s.inp.c)
        let y := s.inp.w1.toNat % 2 ^ (8 * s.inp.c)
        ∃ t, exec .hostAtomicop s = .next t ∧ t.reply = some (.data (s.mem.read p s.inp.c) []) ∧ SameOutside s t p s.inp.c ∧
          t.mem.readLE p s.inp.c = (if s.inp.b = 0 then (m + x) % 2 ^ (8 * s.inp.c) else if s.inp.b = 1 then x else if m = y then x else m))) ∧
    (∀ x, s.inp.access = some x → s.dev.ready = true → x.dev ≠ Config.deviceNumber → s.routed x.dev = true →
      let open_ := tget false s.spaces.remote (x.asid * 4096 + x.dev) = true ∧ 1 ≤ x.size ∧ x.size ≤ 16 ∧ x.va % x.size = 0
      (¬ open_ → replies .remoteAccessRequest .remoteError) ∧
      (open_ → whole → x.kind = 0 → s.outsideSpot x.asid [peerId x.dev] 2 false x.va true false = (.ok p leaf none, s1) →
        replies .remoteAccessRequest (.data (s.mem.read p x.size) [])) ∧
      (open_ → x.kind = 1 → s.inp.flags = [] → s.widxOf x.asid x.va x.size = none →
        s.outsideSpot x.asid [peerId x.dev] 2 false x.va false true = (.ok p leaf none, s1) →
        ∃ t, exec .remoteAccessRequest s = .next t ∧ t.mem.readLE p x.size = x.value % 2 ^ (8 * x.size) ∧ SameOutside s t p x.size)) ∧
    (∀ l rs rest v, s.inp.c = 1 → (tget TraceBuf.default s.traceBufs a).recs = (l, rs) :: rest → tfind s.launches l = some v →
      ∃ t, exec .traceDrain s = .next t ∧ (tget TraceBuf.default t.traceBufs a).recs = rest ∧
        let before := (tget TraceBuf.default s.traceBufs a).ringLost
        (if v.traceIdx + rs.length ≤ 2 ^ v.traceLog then
            ((∀ i < rs.length, s.widxAt (v.traceBase + (v.traceIdx + i) * 32) 32 = none) → ∀ i r, rs[i]? = some r →
              let lost := (r.extractLsb' 128 32).toNat
              let more := if i = 0 then min (lost + before) 0xFFFFFFFF - lost else 0
              t.mem.readLE (v.traceBase + (v.traceIdx + i) * 32) 32 = (r + BitVec.ofNat 256 (more * 2 ^ 128)).toNat) ∧
            (t.launchOf l).traceIdx = v.traceIdx + rs.length ∧ (tget TraceBuf.default t.traceBufs a).ringLost = before
          else SameMemory s t ∧ (tget TraceBuf.default t.traceBufs a).ringLost = min (before + rs.length) 0xFFFFFFFF))
end

