-- ==== Sys2Proof/Laws/Encoding.lean ====
section
/-! SUPPORT. The encoder's words read back, format by format: the opcode, the guard, the function, the fields and the bits that
the format reserves. -/

namespace Sys2Proof

open BitVec

/-- A bit field of a widened word is that of the word. -/
theorem bits_setWidth {v : Nat} (x : BitVec v) (s l : Nat) (h : s + l ≤ 128) :
    extractLsb' s l (setWidth 128 x) = extractLsb' s l x := by
  apply BitVec.eq_of_getLsbD_eq
  intro i hi
  simp [hi]
  intro
  omega

/-- The format of fields. -/
def Fields.format : Fields → Format
  | .fma _ => .fma | .fmi _ => .fmi | .fmj _ => .fmj | .fmm _ => .fmm | .fmx _ => .fmx | .fmc _ => .fmc | .fmk _ => .fmk
  | .fmt _ => .fmt | .fms _ => .fms | .fmf _ => .fmf | .fml _ => .fml

/-- The guard in fields. -/
def Fields.guard : Fields → BitVec 4
  | .fma f => f.g
  | .fmi f => f.g
  | .fmj f => f.g
  | .fmm f => f.g
  | .fmx f => f.g
  | .fmc f => f.g
  | .fmk f => f.g
  | .fmt f => f.g
  | .fms f => f.g
  | .fmf f => f.g
  | .fml f => f.g

/-- How many functions a format's FN can name. -/
def Format.functions : Format → Nat
  | .fmj => 16
  | .fmm | .fmx | .fmc | .fmf => 1
  | _ => 256

theorem fieldsOf_pack_fma (op fn : Nat) (f : FA) : fieldsOf .fma (Fields.pack op fn (.fma f)) = .fma f := by
  simp (disch := decide) only [fieldsOf, Fields.pack, bits, bits_setWidth, extractLsb'_append_eq_of_add_le,
    extractLsb'_append_eq_of_le, -Nat.reduceAdd]
  simp

theorem fieldsOf_pack_fmi (op fn : Nat) (f : FI) : fieldsOf .fmi (Fields.pack op fn (.fmi f)) = .fmi f := by
  simp (disch := decide) only [fieldsOf, Fields.pack, bits, bits_setWidth, extractLsb'_append_eq_of_add_le,
    extractLsb'_append_eq_of_le, -Nat.reduceAdd]
  simp

theorem fieldsOf_pack_fmj (op fn : Nat) (f : FJ) : fieldsOf .fmj (Fields.pack op fn (.fmj f)) = .fmj f := by
  simp (disch := decide) only [fieldsOf, Fields.pack, bits, bits_setWidth, extractLsb'_append_eq_of_add_le,
    extractLsb'_append_eq_of_le, -Nat.reduceAdd]
  simp

theorem fieldsOf_pack_fmm (op fn : Nat) (f : FM) : fieldsOf .fmm (Fields.pack op fn (.fmm f)) = .fmm f := by
  simp (disch := decide) only [fieldsOf, Fields.pack, bits, bits_setWidth, extractLsb'_append_eq_of_add_le,
    extractLsb'_append_eq_of_le, -Nat.reduceAdd]
  simp

theorem fieldsOf_pack_fmx (op fn : Nat) (f : FX) : fieldsOf .fmx (Fields.pack op fn (.fmx f)) = .fmx f := by
  simp (disch := decide) only [fieldsOf, Fields.pack, bits, bits_setWidth, extractLsb'_append_eq_of_add_le,
    extractLsb'_append_eq_of_le, -Nat.reduceAdd]
  simp

theorem fieldsOf_pack_fmc (op fn : Nat) (f : FC) : fieldsOf .fmc (Fields.pack op fn (.fmc f)) = .fmc f := by
  simp (disch := decide) only [fieldsOf, Fields.pack, bits, bits_setWidth, extractLsb'_append_eq_of_add_le,
    extractLsb'_append_eq_of_le, -Nat.reduceAdd]
  simp

theorem fieldsOf_pack_fmk (op fn : Nat) (f : FK) : fieldsOf .fmk (Fields.pack op fn (.fmk f)) = .fmk f := by
  simp (disch := decide) only [fieldsOf, Fields.pack, bits, bits_setWidth, extractLsb'_append_eq_of_add_le,
    extractLsb'_append_eq_of_le, -Nat.reduceAdd]
  simp

theorem fieldsOf_pack_fmt (op fn : Nat) (f : FT) : fieldsOf .fmt (Fields.pack op fn (.fmt f)) = .fmt f := by
  simp (disch := decide) only [fieldsOf, Fields.pack, bits, bits_setWidth, extractLsb'_append_eq_of_add_le,
    extractLsb'_append_eq_of_le, -Nat.reduceAdd]
  simp

theorem fieldsOf_pack_fms (op fn : Nat) (f : FS) : fieldsOf .fms (Fields.pack op fn (.fms f)) = .fms f := by
  simp (disch := decide) only [fieldsOf, Fields.pack, bits, bits_setWidth, extractLsb'_append_eq_of_add_le,
    extractLsb'_append_eq_of_le, -Nat.reduceAdd]
  simp

theorem fieldsOf_pack_fmf (op fn : Nat) (f : FF) : fieldsOf .fmf (Fields.pack op fn (.fmf f)) = .fmf f := by
  simp (disch := decide) only [fieldsOf, Fields.pack, bits, bits_setWidth, extractLsb'_append_eq_of_add_le,
    extractLsb'_append_eq_of_le, -Nat.reduceAdd]
  simp

theorem fieldsOf_pack_fml (op fn : Nat) (f : FL) : fieldsOf .fml (Fields.pack op fn (.fml f)) = .fml f := by
  simp (disch := decide) only [fieldsOf, Fields.pack, bits, bits_setWidth, extractLsb'_append_eq_of_add_le,
    extractLsb'_append_eq_of_le, -Nat.reduceAdd]
  simp

/-- The fields read back are the fields encoded. -/
theorem fieldsOf_pack (op fn : Nat) (F : Fields) : fieldsOf F.format (F.pack op fn) = F := by
  cases F
  case fma f => exact fieldsOf_pack_fma op fn f
  case fmi f => exact fieldsOf_pack_fmi op fn f
  case fmj f => exact fieldsOf_pack_fmj op fn f
  case fmm f => exact fieldsOf_pack_fmm op fn f
  case fmx f => exact fieldsOf_pack_fmx op fn f
  case fmc f => exact fieldsOf_pack_fmc op fn f
  case fmk f => exact fieldsOf_pack_fmk op fn f
  case fmt f => exact fieldsOf_pack_fmt op fn f
  case fms f => exact fieldsOf_pack_fms op fn f
  case fmf f => exact fieldsOf_pack_fmf op fn f
  case fml f => exact fieldsOf_pack_fml op fn f

/-- The opcode of an encoded word. -/
theorem opcode_pack (op fn : Nat) (F : Fields) : bits (F.pack op fn) 0 8 = BitVec.ofNat 8 op := by
  cases F <;> simp (disch := decide) only [Fields.pack, bits, bits_setWidth, extractLsb'_append_eq_of_add_le,
    extractLsb'_eq_self, -Nat.reduceAdd]

/-- The guard of an encoded word. -/
theorem guard_pack (op fn : Nat) (F : Fields) : bits (F.pack op fn) 8 4 = F.guard := by
  cases F <;> simp (disch := decide) only [Fields.pack, Fields.guard, bits, bits_setWidth, extractLsb'_append_eq_of_add_le,
    extractLsb'_append_eq_of_le, -Nat.reduceAdd] <;> simp

/-- The function of an encoded word. -/
theorem fnOf_pack (op fn : Nat) (F : Fields) (h : fn < F.format.functions) : fnOf F.format (F.pack op fn) = fn := by
  cases F <;> simp only [Fields.format, Format.functions] at h <;>
    simp (disch := decide) only [fnOf, Fields.format, Fields.pack, bits, bits_setWidth, extractLsb'_append_eq_of_add_le,
      extractLsb'_append_eq_of_le, -Nat.reduceAdd] <;>
    (try simp only [Nat.reduceSub, extractLsb'_eq_self, BitVec.toNat_ofNat]) <;> omega

/-- A field above a word's bits is zero. -/
theorem bits_above {v : Nat} (x : BitVec v) (s l : Nat) (h : v ≤ s) : extractLsb' s l x = 0#l := by
  apply BitVec.eq_of_getLsbD_eq
  intro i hi
  simp [hi, BitVec.getLsbD_of_ge x (s + i) (by omega)]

/-- The bits that a format reserves are zero in an encoded word. -/
theorem reservedZero_pack (op fn : Nat) (F : Fields) : reservedZero F.format (F.pack op fn) = true := by
  cases F <;> simp (disch := decide) only [reservedZero, Fields.format, Fields.pack, bits, bits_setWidth,
      extractLsb'_append_eq_of_add_le, extractLsb'_append_eq_of_le, -Nat.reduceAdd] <;> simp [bits_above]

/-- An opcode from 0xC0 on, and no other, marks a long instruction (R67). -/
theorem isLong_pack (op fn : Nat) (F : Fields) (h : op < 256) :
    isLong ((F.pack op fn).extractLsb' 0 64) = decide (192 ≤ op) := by
  have same : ((F.pack op fn).extractLsb' 0 64).extractLsb' 6 2 = (bits (F.pack op fn) 0 8).extractLsb' 6 2 := by
    apply BitVec.eq_of_getLsbD_eq
    intro i hi
    simp [bits]
  unfold isLong
  rw [same, opcode_pack, Bool.eq_iff_iff, beq_iff_eq, ← BitVec.toNat_inj]
  simp [Nat.shiftRight_eq_div_pow]
  omega

/-- A short format fills the first word only. -/
theorem high_pack (op fn : Nat) (F : Fields) (h : F.format ≠ .fml) : (F.pack op fn).extractLsb' 64 64 = 0 := by
  cases F
  case fml => exact absurd rfl h
  all_goals exact (bits_setWidth _ _ _ (by decide)).trans (bits_above _ _ _ (by decide))

/-- The two words put together again. -/
theorem wide_words (w : BitVec 128) (h : isLong (w.extractLsb' 0 64) = true ∨ w.extractLsb' 64 64 = 0) :
    wide (w.extractLsb' 0 64) (w.extractLsb' 64 64) = w := by
  have key : (w.extractLsb' 64 64 ++ w.extractLsb' 0 64) = w := by
    apply BitVec.eq_of_getLsbD_eq
    intro i hi
    simp only [BitVec.getLsbD_append, BitVec.getLsbD_extractLsb']
    by_cases h : i < 64
    · simp [h]
    · have h' : i - 64 < 64 := by omega
      have e : 64 + (i - 64) = i := by omega
      simp [h, h', e]
  unfold wide
  split
  · exact key
  · rename_i hl
    rcases h with h | h
    · exact absurd h hl
    · rw [h] at key; exact key

end Sys2Proof
end

