-- ==== Sys2Proof/Laws/Table.lean ====
section
/-! SUPPORT. What the table and byte-store operations do: reads after writes, and the canonical form kept by every one. -/

namespace Sys2Proof

variable {α : Type}

/-! ### Sorted keys -/

theorem tsorted_some_weaken {lo lo' : Nat} (h : lo' ≤ lo) : ∀ {t : Table α}, tsorted (some lo) t → tsorted (some lo') t
  | [], _ => rfl
  | (k, _) :: _, s => by
    simp only [tsorted, Bool.and_eq_true, decide_eq_true_eq] at s ⊢
    exact ⟨by omega, s.2⟩

theorem tsorted_none_of_some {lo : Nat} : ∀ {t : Table α}, tsorted (some lo) t → tsorted none t
  | [], _ => rfl
  | (_, _) :: _, s => by simp only [tsorted, Bool.and_eq_true] at s ⊢; exact ⟨trivial, s.2⟩

theorem tsorted_cons {lo : Option Nat} {k : Nat} {v : α} {t : Table α} :
    tsorted lo ((k, v) :: t) = true ↔ (∀ b, lo = some b → b < k) ∧ tsorted (some k) t = true := by
  cases lo <;> simp [tsorted]

/-- Every key of a table above a bound is above it. -/
theorem tsorted_keys_above {lo : Nat} : ∀ {t : Table α}, tsorted (some lo) t → ∀ e ∈ t, lo < e.1
  | [], _ => by simp
  | (k, v) :: t, s => by
    rw [tsorted_cons] at s
    have hk := s.1 lo rfl
    intro e he
    rcases List.mem_cons.1 he with rfl | he
    · exact hk
    · exact Nat.lt_trans hk (tsorted_keys_above s.2 e he)

theorem tsorted_filter (p : Nat × α → Bool) : ∀ {lo : Option Nat} {t : Table α}, tsorted lo t → tsorted lo (t.filter p)
  | _, [], _ => rfl
  | lo, (k, v) :: t, s => by
    rw [tsorted_cons] at s
    by_cases hp : p (k, v) = true
    · rw [List.filter_cons_of_pos hp, tsorted_cons]; exact ⟨s.1, tsorted_filter p s.2⟩
    · rw [List.filter_cons_of_neg hp]
      have := tsorted_filter p s.2
      cases lo with
      | none => exact tsorted_none_of_some this
      | some b => exact tsorted_some_weaken (Nat.le_of_lt (s.1 b rfl)) this

theorem tsorted_tput : ∀ {lo : Option Nat} {t : Table α} (a : Nat) (v : α), (∀ b, lo = some b → b < a) → tsorted lo t →
    tsorted lo (tput t a v)
  | lo, [], a, v, h, _ => by simp only [tput]; rw [tsorted_cons]; exact ⟨h, rfl⟩
  | lo, (k, w) :: t, a, v, h, s => by
    have s' := tsorted_cons.1 s
    simp only [tput]
    split
    · rw [tsorted_cons]; exact s'
    · split
      · rw [tsorted_cons, tsorted_cons]; exact ⟨h, by rintro b ⟨⟩; assumption, s'.2⟩
      · rw [tsorted_cons]; exact ⟨s'.1, tsorted_tput a v (by rintro b ⟨⟩; omega) s'.2⟩

theorem tdel_eq_filter (a : Nat) : ∀ t : Table α, tdel t a = t.filter fun e => a != e.1
  | [] => rfl
  | (k, w) :: t => by
    simp only [tdel, List.filter_cons, tdel_eq_filter a t]
    by_cases h : a = k <;> simp [h]

theorem tsorted_tdel {lo : Option Nat} {t : Table α} (a : Nat) (s : tsorted lo t) : tsorted lo (tdel t a) := by
  rw [tdel_eq_filter]; exact tsorted_filter _ s

/-! ### Members of an updated table -/

theorem mem_tdel {t : Table α} {a : Nat} {e : Nat × α} (h : e ∈ tdel t a) : e ∈ t := by
  rw [tdel_eq_filter] at h; exact (List.mem_filter.1 h).1

theorem mem_tput : ∀ {t : Table α} {a : Nat} {v : α} {e : Nat × α}, e ∈ tput t a v → e = (a, v) ∨ e ∈ t
  | [], _, _, _, h => Or.inl (List.mem_singleton.1 h)
  | (k, w) :: t, a, v, e, h => by
    simp only [tput] at h
    split at h
    · rename_i hk; subst hk
      rcases List.mem_cons.1 h with rfl | h
      · exact Or.inl rfl
      · exact Or.inr (List.mem_cons_of_mem _ h)
    · split at h
      · exact (List.mem_cons.1 h).imp id id
      · rcases List.mem_cons.1 h with rfl | h
        · exact Or.inr List.mem_cons_self
        · exact (mem_tput h).imp id (List.mem_cons_of_mem _)

/-! ### Reading -/

@[simp] theorem tget_nil (d : α) (a : Nat) : tget d [] a = d := rfl

@[simp] theorem tfind_nil (a : Nat) : tfind ([] : Table α) a = none := rfl

/-- Reading after listing an entry. -/
theorem tget_tput (d : α) (v : α) (a b : Nat) : ∀ t : Table α, tget d (tput t a v) b = if b = a then v else tget d t b
  | [] => by simp only [tput, tget]
  | (k, w) :: t => by
    have ih := tget_tput d v a b t
    simp only [tput]
    split
    · rename_i h; subst h; simp only [tget]; split <;> rfl
    · split
      · simp only [tget]
      · simp only [tget, ih]
        split
        · rw [if_neg (by omega)]
        · rfl

theorem tfind_tput (v : α) (a b : Nat) : ∀ t : Table α, tfind (tput t a v) b = if b = a then some v else tfind t b
  | [] => by simp only [tput, tfind]
  | (k, w) :: t => by
    have ih := tfind_tput v a b t
    simp only [tput]
    split
    · rename_i h; subst h; simp only [tfind]; split <;> rfl
    · split
      · simp only [tfind]
      · simp only [tfind, ih]
        split
        · rw [if_neg (by omega)]
        · rfl

/-- Reading after removing a key. -/
theorem tget_tdel (d : α) (a b : Nat) : ∀ t : Table α, tget d (tdel t a) b = if b = a then d else tget d t b
  | [] => by simp [tdel]
  | (k, w) :: t => by
    have ih := tget_tdel d a b t
    simp only [tdel]
    split
    · rename_i h; subst h; rw [ih]; simp only [tget]; split <;> rfl
    · simp only [tget, ih]
      split
      · rw [if_neg (by omega)]
      · rfl

theorem tfind_tdel (a b : Nat) : ∀ t : Table α, tfind (tdel t a) b = if b = a then none else tfind t b
  | [] => by simp [tdel]
  | (k, w) :: t => by
    have ih := tfind_tdel a b t
    simp only [tdel]
    split
    · rename_i h; subst h; rw [ih]; simp only [tfind]; split <;> rfl
    · simp only [tfind, ih]
      split
      · rw [if_neg (by omega)]
      · rfl

/-- Reading after a write, on every table. -/
theorem tget_tset [DecidableEq α] (d v : α) (a b : Nat) (t : Table α) :
    tget d (tset d t a v) b = if b = a then v else tget d t b := by
  unfold tset
  split
  · rename_i h; rw [tget_tdel, h]
  · exact tget_tput d v a b t

@[simp] theorem tget_tset_self [DecidableEq α] (d v : α) (a : Nat) (t : Table α) : tget d (tset d t a v) a = v := by
  rw [tget_tset, if_pos rfl]

theorem tget_tset_ne [DecidableEq α] (d v : α) {a b : Nat} (h : b ≠ a) (t : Table α) :
    tget d (tset d t a v) b = tget d t b := by rw [tget_tset, if_neg h]

@[simp] theorem tget_tput_self (d v : α) (a : Nat) (t : Table α) : tget d (tput t a v) a = v := by
  rw [tget_tput, if_pos rfl]

/-- Below a sorted table's keys nothing is listed. -/
theorem tget_of_sorted_le (d : α) {lo b : Nat} (h : b ≤ lo) : ∀ {t : Table α}, tsorted (some lo) t → tget d t b = d
  | [], _ => rfl
  | (k, v) :: t, s => by
    have hk := (tsorted_cons.1 s).1 lo rfl
    simp only [tget]
    rw [if_neg (by omega)]
    exact tget_of_sorted_le d (by omega) (tsorted_cons.1 s).2

/-! ### The canonical form -/

variable [DecidableEq α]

theorem twf_iff {d : α} {t : Table α} : twf d t = true ↔ tsorted none t = true ∧ ∀ e ∈ t, e.2 ≠ d := by
  simp [twf]

theorem twf_nil (d : α) : twf d ([] : Table α) = true := rfl

theorem twf_sorted {d : α} {t : Table α} (h : twf d t) : tsorted none t := (twf_iff.1 h).1

theorem twf_filter {d : α} {t : Table α} (p : Nat × α → Bool) (h : twf d t) : twf d (t.filter p) :=
  twf_iff.2 ⟨tsorted_filter p (twf_iff.1 h).1, fun e he => (twf_iff.1 h).2 e (List.mem_filter.1 he).1⟩

theorem twf_tset {d : α} {t : Table α} (a : Nat) (v : α) (h : twf d t) : twf d (tset d t a v) := by
  have ⟨hs, hd⟩ := twf_iff.1 h
  unfold tset
  split
  · exact twf_iff.2 ⟨tsorted_tdel a hs, fun e he => hd e (mem_tdel he)⟩
  · rename_i hv
    exact twf_iff.2 ⟨tsorted_tput a v (by simp) hs, fun e he => (mem_tput he).elim (by rintro rfl; exact hv) (hd e)⟩

/-! ### Byte stores -/

theorem Memory.wf_nil : Memory.wf [] = true := rfl

theorem Memory.wf_set {m : Memory} (a : Nat) (b : Byte) (h : m.wf) : (m.set a b).wf := twf_tset a b h

theorem Memory.wf_write : ∀ {m : Memory} (a : Nat) (bs : List Byte), m.wf → (m.write a bs).wf
  | _, _, [], h => h
  | _, a, b :: bs, h => Memory.wf_write (a + 1) bs (Memory.wf_set a b h)

theorem Memory.wf_patch : ∀ {m : Memory} (a : Nat) (bs : List (Nat × Byte)), m.wf → (m.patch a bs).wf
  | _, _, [], h => h
  | _, a, (o, b) :: bs, h => Memory.wf_patch a bs (Memory.wf_set (a + o) b h)

theorem Memory.wf_zero {m : Memory} (a n : Nat) (h : m.wf) : (m.zero a n).wf := twf_filter _ h

theorem Memory.wf_filter {m : Memory} (p : Nat × Byte → Bool) (h : m.wf) : Memory.wf (m.filter p) := twf_filter p h

theorem Memory.wf_writeLE {m : Memory} (a v n : Nat) (h : m.wf) : (m.writeLE a v n).wf := Memory.wf_write a _ h

theorem Memory.get_set (m : Memory) (a c : Nat) (b : Byte) : (m.set a b).get c = if c = a then b else m.get c :=
  tget_tset 0 b a c m

/-- A write leaves every byte outside it as it was, and reads back inside it. -/
theorem Memory.get_write (m : Memory) (a c : Nat) (bs : List Byte) :
    (m.write a bs).get c = if a ≤ c ∧ c < a + bs.length then bs.getD (c - a) 0 else m.get c := by
  induction bs generalizing m a with
  | nil => simp only [Memory.write, List.length_nil]; rw [if_neg (by omega)]
  | cons b bs ih =>
    simp only [Memory.write, List.length_cons]
    rw [ih (m.set a b) (a + 1)]
    by_cases h1 : a + 1 ≤ c ∧ c < a + 1 + bs.length
    · rw [if_pos h1, if_pos (by omega)]
      obtain ⟨k, rfl⟩ : ∃ k, c = a + 1 + k := ⟨c - (a + 1), by omega⟩
      have e1 : a + 1 + k - (a + 1) = k := by omega
      have e2 : a + 1 + k - a = k + 1 := by omega
      rw [e1, e2, List.getD_cons_succ]
    · rw [if_neg h1, Memory.get_set]
      by_cases h2 : c = a
      · subst h2; simp
      · rw [if_neg h2, if_neg (by omega)]

theorem Memory.get_write_outside (m : Memory) {a c : Nat} {bs : List Byte} (hc : c < a ∨ a + bs.length ≤ c) :
    (m.write a bs).get c = m.get c := by
  rw [Memory.get_write, if_neg (by omega)]

theorem Memory.length_read (m : Memory) : ∀ a n, (m.read a n).length = n
  | _, 0 => rfl
  | a, n + 1 => by simp [Memory.read, Memory.length_read m (a + 1) n]

theorem Memory.read_congr {m m' : Memory} : ∀ {a n : Nat}, (∀ c, a ≤ c → c < a + n → m.get c = m'.get c) → m.read a n = m'.read a n
  | _, 0, _ => rfl
  | a, n + 1, h => by
    simp only [Memory.read]
    rw [h a (Nat.le_refl _) (by omega), Memory.read_congr (a := a + 1) (fun c h1 h2 => h c (by omega) (by omega))]

/-- Bytes written read back. -/
theorem Memory.read_write (m : Memory) (a : Nat) (bs : List Byte) : (m.write a bs).read a bs.length = bs := by
  induction bs generalizing m a with
  | nil => rfl
  | cons b bs ih =>
    simp only [Memory.write, List.length_cons, Memory.read]
    rw [ih (m.set a b) (a + 1), Memory.get_write_outside _ (by omega), Memory.get_set, if_pos rfl]

/-- A write elsewhere leaves a read as it was. -/
theorem Memory.read_write_outside (m : Memory) {a c n : Nat} {bs : List Byte} (hc : c + n ≤ a ∨ a + bs.length ≤ c) :
    (m.write a bs).read c n = m.read c n :=
  Memory.read_congr fun x h1 h2 => Memory.get_write_outside m (by omega)

/-- A patch reaches only the offsets it lists. -/
theorem Memory.get_patch_outside (m : Memory) {a c : Nat} {bs : List (Nat × Byte)} (hc : ∀ e ∈ bs, c ≠ a + e.1) :
    (m.patch a bs).get c = m.get c := by
  induction bs generalizing m with
  | nil => rfl
  | cons e bs ih =>
    obtain ⟨o, b⟩ := e
    simp only [Memory.patch]
    rw [ih (m.set _ b) (fun e he => hc e (List.mem_cons_of_mem _ he)), Memory.get_set,
      if_neg (hc (o, b) List.mem_cons_self)]

omit [DecidableEq α] in
/-- Two tables in canonical form that read alike are the same data. -/
theorem twf_ext {d : α} : ∀ {lo : Option Nat} {t u : Table α}, tsorted lo t → (∀ e ∈ t, e.2 ≠ d) → tsorted lo u →
    (∀ e ∈ u, e.2 ≠ d) → (∀ a, tget d t a = tget d u a) → t = u
  | _, [], [], _, _, _, _, _ => rfl
  | _, [], (k, v) :: u, _, _, _, hu, h => by
    have := h k; simp only [tget, if_true] at this
    exact absurd this.symm (hu (k, v) List.mem_cons_self)
  | _, (k, v) :: t, [], _, ht, _, _, h => by
    have := h k; simp only [tget, if_true] at this
    exact absurd this (ht (k, v) List.mem_cons_self)
  | lo, (k, v) :: t, (j, w) :: u, st, ht, su, hu, h => by
    have st' := tsorted_cons.1 st
    have su' := tsorted_cons.1 su
    have hv := ht (k, v) List.mem_cons_self
    have hw := hu (j, w) List.mem_cons_self
    have hkj : k = j := by
      have h1 := h k
      have h2 := h j
      rcases Nat.lt_trichotomy k j with hlt | heq | hgt
      · rw [tget_of_sorted_le (lo := k) d (Nat.le_refl _) (t := (j, w) :: u) (tsorted_cons.2 ⟨by rintro b ⟨⟩; exact hlt, su'.2⟩)] at h1
        simp only [tget, if_true] at h1
        exact absurd h1 hv
      · exact heq
      · rw [tget_of_sorted_le (lo := j) d (Nat.le_refl _) (t := (k, v) :: t) (tsorted_cons.2 ⟨by rintro b ⟨⟩; exact hgt, st'.2⟩)] at h2
        simp only [tget, if_true] at h2
        exact absurd h2.symm hw
    subst hkj
    have hvw : v = w := by have := h k; simpa [tget] using this
    subst hvw
    rw [twf_ext st'.2 (fun e he => ht e (List.mem_cons_of_mem _ he)) su'.2 (fun e he => hu e (List.mem_cons_of_mem _ he))
      (fun a => by
        rcases Nat.lt_or_ge k a with hgt | hle
        · have := h a
          simp only [tget] at this
          rwa [if_neg (by omega), if_neg (by omega)] at this
        · rw [tget_of_sorted_le d hle st'.2, tget_of_sorted_le d hle su'.2])]

theorem Memory.ext_of_wf {m m' : Memory} (h : m.wf) (h' : m'.wf) (he : ∀ a, m.get a = m'.get a) : m = m' :=
  twf_ext (twf_iff.1 h).1 (twf_iff.1 h).2 (twf_iff.1 h').1 (twf_iff.1 h').2 he

end Sys2Proof
end

