-- ==== Sys2Proof/Laws/State.lean ====
section
/-! SUPPORT. The small lemmas of the state's updates: one per field and update, then what the accessors read after each. -/

namespace Sys2Proof.Machine

/-! ### A stream written -/

@[simp] theorem State.setStream_dev (s : State) (k : Nat) (t : Stream) : (s.setStream k t).dev = s.dev := rfl
@[simp] theorem State.setStream_spaces (s : State) (k : Nat) (t : Stream) : (s.setStream k t).spaces = s.spaces := rfl
@[simp] theorem State.setStream_mem (s : State) (k : Nat) (t : Stream) : (s.setStream k t).mem = s.mem := rfl
@[simp] theorem State.setStream_poison (s : State) (k : Nat) (t : Stream) : (s.setStream k t).poison = s.poison := rfl
@[simp] theorem State.setStream_own (s : State) (k : Nat) (t : Stream) : (s.setStream k t).own = s.own := rfl
@[simp] theorem State.setStream_l1 (s : State) (k : Nat) (t : Stream) : (s.setStream k t).l1 = s.l1 := rfl
@[simp] theorem State.setStream_wc (s : State) (k : Nat) (t : Stream) : (s.setStream k t).wc = s.wc := rfl
@[simp] theorem State.setStream_regions (s : State) (k : Nat) (t : Stream) : (s.setStream k t).regions = s.regions := rfl
@[simp] theorem State.setStream_prefixes (s : State) (k : Nat) (t : Stream) : (s.setStream k t).prefixes = s.prefixes := rfl
@[simp] theorem State.setStream_prefixSeq (s : State) (k : Nat) (t : Stream) : (s.setStream k t).prefixSeq = s.prefixSeq := rfl
@[simp] theorem State.setStream_tiles (s : State) (k : Nat) (t : Stream) : (s.setStream k t).tiles = s.tiles := rfl
@[simp] theorem State.setStream_codebooks (s : State) (k : Nat) (t : Stream) : (s.setStream k t).codebooks = s.codebooks := rfl
@[simp] theorem State.setStream_launches (s : State) (k : Nat) (t : Stream) : (s.setStream k t).launches = s.launches := rfl
@[simp] theorem State.setStream_queues (s : State) (k : Nat) (t : Stream) : (s.setStream k t).queues = s.queues := rfl
@[simp] theorem State.setStream_copies (s : State) (k : Nat) (t : Stream) : (s.setStream k t).copies = s.copies := rfl
@[simp] theorem State.setStream_newcomers (s : State) (k : Nat) (t : Stream) : (s.setStream k t).newcomers = s.newcomers := rfl
@[simp] theorem State.setStream_draining (s : State) (k : Nat) (t : Stream) : (s.setStream k t).draining = s.draining := rfl
@[simp] theorem State.setStream_colls (s : State) (k : Nat) (t : Stream) : (s.setStream k t).colls = s.colls := rfl
@[simp] theorem State.setStream_handles (s : State) (k : Nat) (t : Stream) : (s.setStream k t).handles = s.handles := rfl
@[simp] theorem State.setStream_flying (s : State) (k : Nat) (t : Stream) : (s.setStream k t).flying = s.flying := rfl
@[simp] theorem State.setStream_refused (s : State) (k : Nat) (t : Stream) : (s.setStream k t).refused = s.refused := rfl
@[simp] theorem State.setStream_ports (s : State) (k : Nat) (t : Stream) : (s.setStream k t).ports = s.ports := rfl
@[simp] theorem State.setStream_permits (s : State) (k : Nat) (t : Stream) : (s.setStream k t).permits = s.permits := rfl
@[simp] theorem State.setStream_peersLost (s : State) (k : Nat) (t : Stream) : (s.setStream k t).peersLost = s.peersLost := rfl
@[simp] theorem State.setStream_hostUp (s : State) (k : Nat) (t : Stream) : (s.setStream k t).hostUp = s.hostUp := rfl
@[simp] theorem State.setStream_hostContained (s : State) (k : Nat) (t : Stream) : (s.setStream k t).hostContained = s.hostContained := rfl
@[simp] theorem State.setStream_reply (s : State) (k : Nat) (t : Stream) : (s.setStream k t).reply = s.reply := rfl
@[simp] theorem State.setStream_pageRequests (s : State) (k : Nat) (t : Stream) : (s.setStream k t).pageRequests = s.pageRequests := rfl
@[simp] theorem State.setStream_traceBufs (s : State) (k : Nat) (t : Stream) : (s.setStream k t).traceBufs = s.traceBufs := rfl
@[simp] theorem State.setStream_conflicts (s : State) (k : Nat) (t : Stream) : (s.setStream k t).conflicts = s.conflicts := rfl
@[simp] theorem State.setStream_tape (s : State) (k : Nat) (t : Stream) : (s.setStream k t).tape = s.tape := rfl
@[simp] theorem State.setStream_rota (s : State) (k : Nat) (t : Stream) : (s.setStream k t).rota = s.rota := rfl
@[simp] theorem State.setStream_cur (s : State) (k : Nat) (t : Stream) : (s.setStream k t).cur = s.cur := rfl
@[simp] theorem State.setStream_actor (s : State) (k : Nat) (t : Stream) : (s.setStream k t).actor = s.actor := rfl
@[simp] theorem State.setStream_late (s : State) (k : Nat) (t : Stream) : (s.setStream k t).late = s.late := rfl
@[simp] theorem State.setStream_inp (s : State) (k : Nat) (t : Stream) : (s.setStream k t).inp = s.inp := rfl
@[simp] theorem State.setStream_draws (s : State) (k : Nat) (t : Stream) : (s.setStream k t).draws = s.draws := rfl
@[simp] theorem State.setStream_displacing (s : State) (k : Nat) (t : Stream) : (s.setStream k t).displacing = s.displacing := rfl
@[simp] theorem State.setStream_sent (s : State) (k : Nat) (t : Stream) : (s.setStream k t).sent = s.sent := rfl
@[simp] theorem State.setStream_resend (s : State) (k : Nat) (t : Stream) : (s.setStream k t).resend = s.resend := rfl
@[simp] theorem State.setStream_hostLanes (s : State) (k : Nat) (t : Stream) : (s.setStream k t).hostLanes = s.hostLanes := rfl
@[simp] theorem State.setStream_hostRate (s : State) (k : Nat) (t : Stream) : (s.setStream k t).hostRate = s.hostRate := rfl
@[simp] theorem State.setStream_asked (s : State) (k : Nat) (t : Stream) : (s.setStream k t).asked = s.asked := rfl
@[simp] theorem State.setStream_failedPages (s : State) (k : Nat) (t : Stream) : (s.setStream k t).failedPages = s.failedPages := rfl
@[simp] theorem State.setStream_served (s : State) (k : Nat) (t : Stream) : (s.setStream k t).served = s.served := rfl
@[simp] theorem State.setStream_shadow (s : State) (k : Nat) (t : Stream) : (s.setStream k t).shadow = s.shadow := rfl
@[simp] theorem State.setStream_orders (s : State) (k : Nat) (t : Stream) : (s.setStream k t).orders = s.orders := rfl

/-! ### The acting stream written -/

@[simp] theorem State.setSt_dev (s : State) (t : Stream) : (s.setSt t).dev = s.dev := rfl
@[simp] theorem State.setSt_spaces (s : State) (t : Stream) : (s.setSt t).spaces = s.spaces := rfl
@[simp] theorem State.setSt_mem (s : State) (t : Stream) : (s.setSt t).mem = s.mem := rfl
@[simp] theorem State.setSt_poison (s : State) (t : Stream) : (s.setSt t).poison = s.poison := rfl
@[simp] theorem State.setSt_own (s : State) (t : Stream) : (s.setSt t).own = s.own := rfl
@[simp] theorem State.setSt_l1 (s : State) (t : Stream) : (s.setSt t).l1 = s.l1 := rfl
@[simp] theorem State.setSt_wc (s : State) (t : Stream) : (s.setSt t).wc = s.wc := rfl
@[simp] theorem State.setSt_regions (s : State) (t : Stream) : (s.setSt t).regions = s.regions := rfl
@[simp] theorem State.setSt_prefixes (s : State) (t : Stream) : (s.setSt t).prefixes = s.prefixes := rfl
@[simp] theorem State.setSt_prefixSeq (s : State) (t : Stream) : (s.setSt t).prefixSeq = s.prefixSeq := rfl
@[simp] theorem State.setSt_tiles (s : State) (t : Stream) : (s.setSt t).tiles = s.tiles := rfl
@[simp] theorem State.setSt_codebooks (s : State) (t : Stream) : (s.setSt t).codebooks = s.codebooks := rfl
@[simp] theorem State.setSt_launches (s : State) (t : Stream) : (s.setSt t).launches = s.launches := rfl
@[simp] theorem State.setSt_queues (s : State) (t : Stream) : (s.setSt t).queues = s.queues := rfl
@[simp] theorem State.setSt_copies (s : State) (t : Stream) : (s.setSt t).copies = s.copies := rfl
@[simp] theorem State.setSt_newcomers (s : State) (t : Stream) : (s.setSt t).newcomers = s.newcomers := rfl
@[simp] theorem State.setSt_draining (s : State) (t : Stream) : (s.setSt t).draining = s.draining := rfl
@[simp] theorem State.setSt_colls (s : State) (t : Stream) : (s.setSt t).colls = s.colls := rfl
@[simp] theorem State.setSt_handles (s : State) (t : Stream) : (s.setSt t).handles = s.handles := rfl
@[simp] theorem State.setSt_flying (s : State) (t : Stream) : (s.setSt t).flying = s.flying := rfl
@[simp] theorem State.setSt_refused (s : State) (t : Stream) : (s.setSt t).refused = s.refused := rfl
@[simp] theorem State.setSt_ports (s : State) (t : Stream) : (s.setSt t).ports = s.ports := rfl
@[simp] theorem State.setSt_permits (s : State) (t : Stream) : (s.setSt t).permits = s.permits := rfl
@[simp] theorem State.setSt_peersLost (s : State) (t : Stream) : (s.setSt t).peersLost = s.peersLost := rfl
@[simp] theorem State.setSt_hostUp (s : State) (t : Stream) : (s.setSt t).hostUp = s.hostUp := rfl
@[simp] theorem State.setSt_hostContained (s : State) (t : Stream) : (s.setSt t).hostContained = s.hostContained := rfl
@[simp] theorem State.setSt_reply (s : State) (t : Stream) : (s.setSt t).reply = s.reply := rfl
@[simp] theorem State.setSt_pageRequests (s : State) (t : Stream) : (s.setSt t).pageRequests = s.pageRequests := rfl
@[simp] theorem State.setSt_traceBufs (s : State) (t : Stream) : (s.setSt t).traceBufs = s.traceBufs := rfl
@[simp] theorem State.setSt_conflicts (s : State) (t : Stream) : (s.setSt t).conflicts = s.conflicts := rfl
@[simp] theorem State.setSt_tape (s : State) (t : Stream) : (s.setSt t).tape = s.tape := rfl
@[simp] theorem State.setSt_rota (s : State) (t : Stream) : (s.setSt t).rota = s.rota := rfl
@[simp] theorem State.setSt_cur (s : State) (t : Stream) : (s.setSt t).cur = s.cur := rfl
@[simp] theorem State.setSt_actor (s : State) (t : Stream) : (s.setSt t).actor = s.actor := rfl
@[simp] theorem State.setSt_late (s : State) (t : Stream) : (s.setSt t).late = s.late := rfl
@[simp] theorem State.setSt_inp (s : State) (t : Stream) : (s.setSt t).inp = s.inp := rfl
@[simp] theorem State.setSt_draws (s : State) (t : Stream) : (s.setSt t).draws = s.draws := rfl
@[simp] theorem State.setSt_displacing (s : State) (t : Stream) : (s.setSt t).displacing = s.displacing := rfl
@[simp] theorem State.setSt_sent (s : State) (t : Stream) : (s.setSt t).sent = s.sent := rfl
@[simp] theorem State.setSt_resend (s : State) (t : Stream) : (s.setSt t).resend = s.resend := rfl
@[simp] theorem State.setSt_hostLanes (s : State) (t : Stream) : (s.setSt t).hostLanes = s.hostLanes := rfl
@[simp] theorem State.setSt_hostRate (s : State) (t : Stream) : (s.setSt t).hostRate = s.hostRate := rfl
@[simp] theorem State.setSt_asked (s : State) (t : Stream) : (s.setSt t).asked = s.asked := rfl
@[simp] theorem State.setSt_failedPages (s : State) (t : Stream) : (s.setSt t).failedPages = s.failedPages := rfl
@[simp] theorem State.setSt_served (s : State) (t : Stream) : (s.setSt t).served = s.served := rfl
@[simp] theorem State.setSt_shadow (s : State) (t : Stream) : (s.setSt t).shadow = s.shadow := rfl
@[simp] theorem State.setSt_orders (s : State) (t : Stream) : (s.setSt t).orders = s.orders := rfl

/-! ### A launch written -/

@[simp] theorem State.setLaunch_dev (s : State) (l : Nat) (v : Launch) : (s.setLaunch l v).dev = s.dev := rfl
@[simp] theorem State.setLaunch_spaces (s : State) (l : Nat) (v : Launch) : (s.setLaunch l v).spaces = s.spaces := rfl
@[simp] theorem State.setLaunch_mem (s : State) (l : Nat) (v : Launch) : (s.setLaunch l v).mem = s.mem := rfl
@[simp] theorem State.setLaunch_poison (s : State) (l : Nat) (v : Launch) : (s.setLaunch l v).poison = s.poison := rfl
@[simp] theorem State.setLaunch_own (s : State) (l : Nat) (v : Launch) : (s.setLaunch l v).own = s.own := rfl
@[simp] theorem State.setLaunch_l1 (s : State) (l : Nat) (v : Launch) : (s.setLaunch l v).l1 = s.l1 := rfl
@[simp] theorem State.setLaunch_wc (s : State) (l : Nat) (v : Launch) : (s.setLaunch l v).wc = s.wc := rfl
@[simp] theorem State.setLaunch_regions (s : State) (l : Nat) (v : Launch) : (s.setLaunch l v).regions = s.regions := rfl
@[simp] theorem State.setLaunch_prefixes (s : State) (l : Nat) (v : Launch) : (s.setLaunch l v).prefixes = s.prefixes := rfl
@[simp] theorem State.setLaunch_prefixSeq (s : State) (l : Nat) (v : Launch) : (s.setLaunch l v).prefixSeq = s.prefixSeq := rfl
@[simp] theorem State.setLaunch_tiles (s : State) (l : Nat) (v : Launch) : (s.setLaunch l v).tiles = s.tiles := rfl
@[simp] theorem State.setLaunch_codebooks (s : State) (l : Nat) (v : Launch) : (s.setLaunch l v).codebooks = s.codebooks := rfl
@[simp] theorem State.setLaunch_streams (s : State) (l : Nat) (v : Launch) : (s.setLaunch l v).streams = s.streams := rfl
@[simp] theorem State.setLaunch_queues (s : State) (l : Nat) (v : Launch) : (s.setLaunch l v).queues = s.queues := rfl
@[simp] theorem State.setLaunch_copies (s : State) (l : Nat) (v : Launch) : (s.setLaunch l v).copies = s.copies := rfl
@[simp] theorem State.setLaunch_newcomers (s : State) (l : Nat) (v : Launch) : (s.setLaunch l v).newcomers = s.newcomers := rfl
@[simp] theorem State.setLaunch_draining (s : State) (l : Nat) (v : Launch) : (s.setLaunch l v).draining = s.draining := rfl
@[simp] theorem State.setLaunch_colls (s : State) (l : Nat) (v : Launch) : (s.setLaunch l v).colls = s.colls := rfl
@[simp] theorem State.setLaunch_handles (s : State) (l : Nat) (v : Launch) : (s.setLaunch l v).handles = s.handles := rfl
@[simp] theorem State.setLaunch_flying (s : State) (l : Nat) (v : Launch) : (s.setLaunch l v).flying = s.flying := rfl
@[simp] theorem State.setLaunch_refused (s : State) (l : Nat) (v : Launch) : (s.setLaunch l v).refused = s.refused := rfl
@[simp] theorem State.setLaunch_ports (s : State) (l : Nat) (v : Launch) : (s.setLaunch l v).ports = s.ports := rfl
@[simp] theorem State.setLaunch_permits (s : State) (l : Nat) (v : Launch) : (s.setLaunch l v).permits = s.permits := rfl
@[simp] theorem State.setLaunch_peersLost (s : State) (l : Nat) (v : Launch) : (s.setLaunch l v).peersLost = s.peersLost := rfl
@[simp] theorem State.setLaunch_hostUp (s : State) (l : Nat) (v : Launch) : (s.setLaunch l v).hostUp = s.hostUp := rfl
@[simp] theorem State.setLaunch_hostContained (s : State) (l : Nat) (v : Launch) : (s.setLaunch l v).hostContained = s.hostContained := rfl
@[simp] theorem State.setLaunch_reply (s : State) (l : Nat) (v : Launch) : (s.setLaunch l v).reply = s.reply := rfl
@[simp] theorem State.setLaunch_pageRequests (s : State) (l : Nat) (v : Launch) : (s.setLaunch l v).pageRequests = s.pageRequests := rfl
@[simp] theorem State.setLaunch_traceBufs (s : State) (l : Nat) (v : Launch) : (s.setLaunch l v).traceBufs = s.traceBufs := rfl
@[simp] theorem State.setLaunch_conflicts (s : State) (l : Nat) (v : Launch) : (s.setLaunch l v).conflicts = s.conflicts := rfl
@[simp] theorem State.setLaunch_tape (s : State) (l : Nat) (v : Launch) : (s.setLaunch l v).tape = s.tape := rfl
@[simp] theorem State.setLaunch_rota (s : State) (l : Nat) (v : Launch) : (s.setLaunch l v).rota = s.rota := rfl
@[simp] theorem State.setLaunch_cur (s : State) (l : Nat) (v : Launch) : (s.setLaunch l v).cur = s.cur := rfl
@[simp] theorem State.setLaunch_actor (s : State) (l : Nat) (v : Launch) : (s.setLaunch l v).actor = s.actor := rfl
@[simp] theorem State.setLaunch_late (s : State) (l : Nat) (v : Launch) : (s.setLaunch l v).late = s.late := rfl
@[simp] theorem State.setLaunch_inp (s : State) (l : Nat) (v : Launch) : (s.setLaunch l v).inp = s.inp := rfl
@[simp] theorem State.setLaunch_draws (s : State) (l : Nat) (v : Launch) : (s.setLaunch l v).draws = s.draws := rfl
@[simp] theorem State.setLaunch_displacing (s : State) (l : Nat) (v : Launch) : (s.setLaunch l v).displacing = s.displacing := rfl
@[simp] theorem State.setLaunch_sent (s : State) (l : Nat) (v : Launch) : (s.setLaunch l v).sent = s.sent := rfl
@[simp] theorem State.setLaunch_resend (s : State) (l : Nat) (v : Launch) : (s.setLaunch l v).resend = s.resend := rfl
@[simp] theorem State.setLaunch_hostLanes (s : State) (l : Nat) (v : Launch) : (s.setLaunch l v).hostLanes = s.hostLanes := rfl
@[simp] theorem State.setLaunch_hostRate (s : State) (l : Nat) (v : Launch) : (s.setLaunch l v).hostRate = s.hostRate := rfl
@[simp] theorem State.setLaunch_asked (s : State) (l : Nat) (v : Launch) : (s.setLaunch l v).asked = s.asked := rfl
@[simp] theorem State.setLaunch_failedPages (s : State) (l : Nat) (v : Launch) : (s.setLaunch l v).failedPages = s.failedPages := rfl
@[simp] theorem State.setLaunch_served (s : State) (l : Nat) (v : Launch) : (s.setLaunch l v).served = s.served := rfl
@[simp] theorem State.setLaunch_shadow (s : State) (l : Nat) (v : Launch) : (s.setLaunch l v).shadow = s.shadow := rfl
@[simp] theorem State.setLaunch_orders (s : State) (l : Nat) (v : Launch) : (s.setLaunch l v).orders = s.orders := rfl

/-! ### A tile written -/

@[simp] theorem State.setTile_dev (s : State) (key : Nat) (t : Tile) : (s.setTile key t).dev = s.dev := rfl
@[simp] theorem State.setTile_spaces (s : State) (key : Nat) (t : Tile) : (s.setTile key t).spaces = s.spaces := rfl
@[simp] theorem State.setTile_mem (s : State) (key : Nat) (t : Tile) : (s.setTile key t).mem = s.mem := rfl
@[simp] theorem State.setTile_poison (s : State) (key : Nat) (t : Tile) : (s.setTile key t).poison = s.poison := rfl
@[simp] theorem State.setTile_own (s : State) (key : Nat) (t : Tile) : (s.setTile key t).own = s.own := rfl
@[simp] theorem State.setTile_l1 (s : State) (key : Nat) (t : Tile) : (s.setTile key t).l1 = s.l1 := rfl
@[simp] theorem State.setTile_wc (s : State) (key : Nat) (t : Tile) : (s.setTile key t).wc = s.wc := rfl
@[simp] theorem State.setTile_regions (s : State) (key : Nat) (t : Tile) : (s.setTile key t).regions = s.regions := rfl
@[simp] theorem State.setTile_prefixes (s : State) (key : Nat) (t : Tile) : (s.setTile key t).prefixes = s.prefixes := rfl
@[simp] theorem State.setTile_prefixSeq (s : State) (key : Nat) (t : Tile) : (s.setTile key t).prefixSeq = s.prefixSeq := rfl
@[simp] theorem State.setTile_codebooks (s : State) (key : Nat) (t : Tile) : (s.setTile key t).codebooks = s.codebooks := rfl
@[simp] theorem State.setTile_streams (s : State) (key : Nat) (t : Tile) : (s.setTile key t).streams = s.streams := rfl
@[simp] theorem State.setTile_launches (s : State) (key : Nat) (t : Tile) : (s.setTile key t).launches = s.launches := rfl
@[simp] theorem State.setTile_queues (s : State) (key : Nat) (t : Tile) : (s.setTile key t).queues = s.queues := rfl
@[simp] theorem State.setTile_copies (s : State) (key : Nat) (t : Tile) : (s.setTile key t).copies = s.copies := rfl
@[simp] theorem State.setTile_newcomers (s : State) (key : Nat) (t : Tile) : (s.setTile key t).newcomers = s.newcomers := rfl
@[simp] theorem State.setTile_draining (s : State) (key : Nat) (t : Tile) : (s.setTile key t).draining = s.draining := rfl
@[simp] theorem State.setTile_colls (s : State) (key : Nat) (t : Tile) : (s.setTile key t).colls = s.colls := rfl
@[simp] theorem State.setTile_handles (s : State) (key : Nat) (t : Tile) : (s.setTile key t).handles = s.handles := rfl
@[simp] theorem State.setTile_flying (s : State) (key : Nat) (t : Tile) : (s.setTile key t).flying = s.flying := rfl
@[simp] theorem State.setTile_refused (s : State) (key : Nat) (t : Tile) : (s.setTile key t).refused = s.refused := rfl
@[simp] theorem State.setTile_ports (s : State) (key : Nat) (t : Tile) : (s.setTile key t).ports = s.ports := rfl
@[simp] theorem State.setTile_permits (s : State) (key : Nat) (t : Tile) : (s.setTile key t).permits = s.permits := rfl
@[simp] theorem State.setTile_peersLost (s : State) (key : Nat) (t : Tile) : (s.setTile key t).peersLost = s.peersLost := rfl
@[simp] theorem State.setTile_hostUp (s : State) (key : Nat) (t : Tile) : (s.setTile key t).hostUp = s.hostUp := rfl
@[simp] theorem State.setTile_hostContained (s : State) (key : Nat) (t : Tile) : (s.setTile key t).hostContained = s.hostContained := rfl
@[simp] theorem State.setTile_reply (s : State) (key : Nat) (t : Tile) : (s.setTile key t).reply = s.reply := rfl
@[simp] theorem State.setTile_pageRequests (s : State) (key : Nat) (t : Tile) : (s.setTile key t).pageRequests = s.pageRequests := rfl
@[simp] theorem State.setTile_traceBufs (s : State) (key : Nat) (t : Tile) : (s.setTile key t).traceBufs = s.traceBufs := rfl
@[simp] theorem State.setTile_conflicts (s : State) (key : Nat) (t : Tile) : (s.setTile key t).conflicts = s.conflicts := rfl
@[simp] theorem State.setTile_tape (s : State) (key : Nat) (t : Tile) : (s.setTile key t).tape = s.tape := rfl
@[simp] theorem State.setTile_rota (s : State) (key : Nat) (t : Tile) : (s.setTile key t).rota = s.rota := rfl
@[simp] theorem State.setTile_cur (s : State) (key : Nat) (t : Tile) : (s.setTile key t).cur = s.cur := rfl
@[simp] theorem State.setTile_actor (s : State) (key : Nat) (t : Tile) : (s.setTile key t).actor = s.actor := rfl
@[simp] theorem State.setTile_late (s : State) (key : Nat) (t : Tile) : (s.setTile key t).late = s.late := rfl
@[simp] theorem State.setTile_inp (s : State) (key : Nat) (t : Tile) : (s.setTile key t).inp = s.inp := rfl
@[simp] theorem State.setTile_draws (s : State) (key : Nat) (t : Tile) : (s.setTile key t).draws = s.draws := rfl
@[simp] theorem State.setTile_displacing (s : State) (key : Nat) (t : Tile) : (s.setTile key t).displacing = s.displacing := rfl
@[simp] theorem State.setTile_sent (s : State) (key : Nat) (t : Tile) : (s.setTile key t).sent = s.sent := rfl
@[simp] theorem State.setTile_resend (s : State) (key : Nat) (t : Tile) : (s.setTile key t).resend = s.resend := rfl
@[simp] theorem State.setTile_hostLanes (s : State) (key : Nat) (t : Tile) : (s.setTile key t).hostLanes = s.hostLanes := rfl
@[simp] theorem State.setTile_hostRate (s : State) (key : Nat) (t : Tile) : (s.setTile key t).hostRate = s.hostRate := rfl
@[simp] theorem State.setTile_asked (s : State) (key : Nat) (t : Tile) : (s.setTile key t).asked = s.asked := rfl
@[simp] theorem State.setTile_failedPages (s : State) (key : Nat) (t : Tile) : (s.setTile key t).failedPages = s.failedPages := rfl
@[simp] theorem State.setTile_served (s : State) (key : Nat) (t : Tile) : (s.setTile key t).served = s.served := rfl
@[simp] theorem State.setTile_shadow (s : State) (key : Nat) (t : Tile) : (s.setTile key t).shadow = s.shadow := rfl
@[simp] theorem State.setTile_orders (s : State) (key : Nat) (t : Tile) : (s.setTile key t).orders = s.orders := rfl

/-! ### A register written -/

@[simp] theorem State.xw_dev (s : State) (i : BitVec 6) (v : Word) : (s.xw i v).dev = s.dev := rfl
@[simp] theorem State.xw_spaces (s : State) (i : BitVec 6) (v : Word) : (s.xw i v).spaces = s.spaces := rfl
@[simp] theorem State.xw_mem (s : State) (i : BitVec 6) (v : Word) : (s.xw i v).mem = s.mem := rfl
@[simp] theorem State.xw_poison (s : State) (i : BitVec 6) (v : Word) : (s.xw i v).poison = s.poison := rfl
@[simp] theorem State.xw_own (s : State) (i : BitVec 6) (v : Word) : (s.xw i v).own = s.own := rfl
@[simp] theorem State.xw_l1 (s : State) (i : BitVec 6) (v : Word) : (s.xw i v).l1 = s.l1 := rfl
@[simp] theorem State.xw_wc (s : State) (i : BitVec 6) (v : Word) : (s.xw i v).wc = s.wc := rfl
@[simp] theorem State.xw_regions (s : State) (i : BitVec 6) (v : Word) : (s.xw i v).regions = s.regions := rfl
@[simp] theorem State.xw_prefixes (s : State) (i : BitVec 6) (v : Word) : (s.xw i v).prefixes = s.prefixes := rfl
@[simp] theorem State.xw_prefixSeq (s : State) (i : BitVec 6) (v : Word) : (s.xw i v).prefixSeq = s.prefixSeq := rfl
@[simp] theorem State.xw_tiles (s : State) (i : BitVec 6) (v : Word) : (s.xw i v).tiles = s.tiles := rfl
@[simp] theorem State.xw_codebooks (s : State) (i : BitVec 6) (v : Word) : (s.xw i v).codebooks = s.codebooks := rfl
@[simp] theorem State.xw_launches (s : State) (i : BitVec 6) (v : Word) : (s.xw i v).launches = s.launches := rfl
@[simp] theorem State.xw_queues (s : State) (i : BitVec 6) (v : Word) : (s.xw i v).queues = s.queues := rfl
@[simp] theorem State.xw_copies (s : State) (i : BitVec 6) (v : Word) : (s.xw i v).copies = s.copies := rfl
@[simp] theorem State.xw_newcomers (s : State) (i : BitVec 6) (v : Word) : (s.xw i v).newcomers = s.newcomers := rfl
@[simp] theorem State.xw_draining (s : State) (i : BitVec 6) (v : Word) : (s.xw i v).draining = s.draining := rfl
@[simp] theorem State.xw_colls (s : State) (i : BitVec 6) (v : Word) : (s.xw i v).colls = s.colls := rfl
@[simp] theorem State.xw_handles (s : State) (i : BitVec 6) (v : Word) : (s.xw i v).handles = s.handles := rfl
@[simp] theorem State.xw_flying (s : State) (i : BitVec 6) (v : Word) : (s.xw i v).flying = s.flying := rfl
@[simp] theorem State.xw_refused (s : State) (i : BitVec 6) (v : Word) : (s.xw i v).refused = s.refused := rfl
@[simp] theorem State.xw_ports (s : State) (i : BitVec 6) (v : Word) : (s.xw i v).ports = s.ports := rfl
@[simp] theorem State.xw_permits (s : State) (i : BitVec 6) (v : Word) : (s.xw i v).permits = s.permits := rfl
@[simp] theorem State.xw_peersLost (s : State) (i : BitVec 6) (v : Word) : (s.xw i v).peersLost = s.peersLost := rfl
@[simp] theorem State.xw_hostUp (s : State) (i : BitVec 6) (v : Word) : (s.xw i v).hostUp = s.hostUp := rfl
@[simp] theorem State.xw_hostContained (s : State) (i : BitVec 6) (v : Word) : (s.xw i v).hostContained = s.hostContained := rfl
@[simp] theorem State.xw_reply (s : State) (i : BitVec 6) (v : Word) : (s.xw i v).reply = s.reply := rfl
@[simp] theorem State.xw_pageRequests (s : State) (i : BitVec 6) (v : Word) : (s.xw i v).pageRequests = s.pageRequests := rfl
@[simp] theorem State.xw_traceBufs (s : State) (i : BitVec 6) (v : Word) : (s.xw i v).traceBufs = s.traceBufs := rfl
@[simp] theorem State.xw_conflicts (s : State) (i : BitVec 6) (v : Word) : (s.xw i v).conflicts = s.conflicts := rfl
@[simp] theorem State.xw_tape (s : State) (i : BitVec 6) (v : Word) : (s.xw i v).tape = s.tape := rfl
@[simp] theorem State.xw_rota (s : State) (i : BitVec 6) (v : Word) : (s.xw i v).rota = s.rota := rfl
@[simp] theorem State.xw_cur (s : State) (i : BitVec 6) (v : Word) : (s.xw i v).cur = s.cur := rfl
@[simp] theorem State.xw_actor (s : State) (i : BitVec 6) (v : Word) : (s.xw i v).actor = s.actor := rfl
@[simp] theorem State.xw_late (s : State) (i : BitVec 6) (v : Word) : (s.xw i v).late = s.late := rfl
@[simp] theorem State.xw_inp (s : State) (i : BitVec 6) (v : Word) : (s.xw i v).inp = s.inp := rfl
@[simp] theorem State.xw_draws (s : State) (i : BitVec 6) (v : Word) : (s.xw i v).draws = s.draws := rfl
@[simp] theorem State.xw_displacing (s : State) (i : BitVec 6) (v : Word) : (s.xw i v).displacing = s.displacing := rfl
@[simp] theorem State.xw_sent (s : State) (i : BitVec 6) (v : Word) : (s.xw i v).sent = s.sent := rfl
@[simp] theorem State.xw_resend (s : State) (i : BitVec 6) (v : Word) : (s.xw i v).resend = s.resend := rfl
@[simp] theorem State.xw_hostLanes (s : State) (i : BitVec 6) (v : Word) : (s.xw i v).hostLanes = s.hostLanes := rfl
@[simp] theorem State.xw_hostRate (s : State) (i : BitVec 6) (v : Word) : (s.xw i v).hostRate = s.hostRate := rfl
@[simp] theorem State.xw_asked (s : State) (i : BitVec 6) (v : Word) : (s.xw i v).asked = s.asked := rfl
@[simp] theorem State.xw_failedPages (s : State) (i : BitVec 6) (v : Word) : (s.xw i v).failedPages = s.failedPages := rfl
@[simp] theorem State.xw_served (s : State) (i : BitVec 6) (v : Word) : (s.xw i v).served = s.served := rfl
@[simp] theorem State.xw_shadow (s : State) (i : BitVec 6) (v : Word) : (s.xw i v).shadow = s.shadow := rfl
@[simp] theorem State.xw_orders (s : State) (i : BitVec 6) (v : Word) : (s.xw i v).orders = s.orders := rfl

/-! ### A predicate written -/

@[simp] theorem State.pw_dev (s : State) (i : Nat) (b : Bool) : (s.pw i b).dev = s.dev := rfl
@[simp] theorem State.pw_spaces (s : State) (i : Nat) (b : Bool) : (s.pw i b).spaces = s.spaces := rfl
@[simp] theorem State.pw_mem (s : State) (i : Nat) (b : Bool) : (s.pw i b).mem = s.mem := rfl
@[simp] theorem State.pw_poison (s : State) (i : Nat) (b : Bool) : (s.pw i b).poison = s.poison := rfl
@[simp] theorem State.pw_own (s : State) (i : Nat) (b : Bool) : (s.pw i b).own = s.own := rfl
@[simp] theorem State.pw_l1 (s : State) (i : Nat) (b : Bool) : (s.pw i b).l1 = s.l1 := rfl
@[simp] theorem State.pw_wc (s : State) (i : Nat) (b : Bool) : (s.pw i b).wc = s.wc := rfl
@[simp] theorem State.pw_regions (s : State) (i : Nat) (b : Bool) : (s.pw i b).regions = s.regions := rfl
@[simp] theorem State.pw_prefixes (s : State) (i : Nat) (b : Bool) : (s.pw i b).prefixes = s.prefixes := rfl
@[simp] theorem State.pw_prefixSeq (s : State) (i : Nat) (b : Bool) : (s.pw i b).prefixSeq = s.prefixSeq := rfl
@[simp] theorem State.pw_tiles (s : State) (i : Nat) (b : Bool) : (s.pw i b).tiles = s.tiles := rfl
@[simp] theorem State.pw_codebooks (s : State) (i : Nat) (b : Bool) : (s.pw i b).codebooks = s.codebooks := rfl
@[simp] theorem State.pw_launches (s : State) (i : Nat) (b : Bool) : (s.pw i b).launches = s.launches := rfl
@[simp] theorem State.pw_queues (s : State) (i : Nat) (b : Bool) : (s.pw i b).queues = s.queues := rfl
@[simp] theorem State.pw_copies (s : State) (i : Nat) (b : Bool) : (s.pw i b).copies = s.copies := rfl
@[simp] theorem State.pw_newcomers (s : State) (i : Nat) (b : Bool) : (s.pw i b).newcomers = s.newcomers := rfl
@[simp] theorem State.pw_draining (s : State) (i : Nat) (b : Bool) : (s.pw i b).draining = s.draining := rfl
@[simp] theorem State.pw_colls (s : State) (i : Nat) (b : Bool) : (s.pw i b).colls = s.colls := rfl
@[simp] theorem State.pw_handles (s : State) (i : Nat) (b : Bool) : (s.pw i b).handles = s.handles := rfl
@[simp] theorem State.pw_flying (s : State) (i : Nat) (b : Bool) : (s.pw i b).flying = s.flying := rfl
@[simp] theorem State.pw_refused (s : State) (i : Nat) (b : Bool) : (s.pw i b).refused = s.refused := rfl
@[simp] theorem State.pw_ports (s : State) (i : Nat) (b : Bool) : (s.pw i b).ports = s.ports := rfl
@[simp] theorem State.pw_permits (s : State) (i : Nat) (b : Bool) : (s.pw i b).permits = s.permits := rfl
@[simp] theorem State.pw_peersLost (s : State) (i : Nat) (b : Bool) : (s.pw i b).peersLost = s.peersLost := rfl
@[simp] theorem State.pw_hostUp (s : State) (i : Nat) (b : Bool) : (s.pw i b).hostUp = s.hostUp := rfl
@[simp] theorem State.pw_hostContained (s : State) (i : Nat) (b : Bool) : (s.pw i b).hostContained = s.hostContained := rfl
@[simp] theorem State.pw_reply (s : State) (i : Nat) (b : Bool) : (s.pw i b).reply = s.reply := rfl
@[simp] theorem State.pw_pageRequests (s : State) (i : Nat) (b : Bool) : (s.pw i b).pageRequests = s.pageRequests := rfl
@[simp] theorem State.pw_traceBufs (s : State) (i : Nat) (b : Bool) : (s.pw i b).traceBufs = s.traceBufs := rfl
@[simp] theorem State.pw_conflicts (s : State) (i : Nat) (b : Bool) : (s.pw i b).conflicts = s.conflicts := rfl
@[simp] theorem State.pw_tape (s : State) (i : Nat) (b : Bool) : (s.pw i b).tape = s.tape := rfl
@[simp] theorem State.pw_rota (s : State) (i : Nat) (b : Bool) : (s.pw i b).rota = s.rota := rfl
@[simp] theorem State.pw_cur (s : State) (i : Nat) (b : Bool) : (s.pw i b).cur = s.cur := rfl
@[simp] theorem State.pw_actor (s : State) (i : Nat) (b : Bool) : (s.pw i b).actor = s.actor := rfl
@[simp] theorem State.pw_late (s : State) (i : Nat) (b : Bool) : (s.pw i b).late = s.late := rfl
@[simp] theorem State.pw_inp (s : State) (i : Nat) (b : Bool) : (s.pw i b).inp = s.inp := rfl
@[simp] theorem State.pw_draws (s : State) (i : Nat) (b : Bool) : (s.pw i b).draws = s.draws := rfl
@[simp] theorem State.pw_displacing (s : State) (i : Nat) (b : Bool) : (s.pw i b).displacing = s.displacing := rfl
@[simp] theorem State.pw_sent (s : State) (i : Nat) (b : Bool) : (s.pw i b).sent = s.sent := rfl
@[simp] theorem State.pw_resend (s : State) (i : Nat) (b : Bool) : (s.pw i b).resend = s.resend := rfl
@[simp] theorem State.pw_hostLanes (s : State) (i : Nat) (b : Bool) : (s.pw i b).hostLanes = s.hostLanes := rfl
@[simp] theorem State.pw_hostRate (s : State) (i : Nat) (b : Bool) : (s.pw i b).hostRate = s.hostRate := rfl
@[simp] theorem State.pw_asked (s : State) (i : Nat) (b : Bool) : (s.pw i b).asked = s.asked := rfl
@[simp] theorem State.pw_failedPages (s : State) (i : Nat) (b : Bool) : (s.pw i b).failedPages = s.failedPages := rfl
@[simp] theorem State.pw_served (s : State) (i : Nat) (b : Bool) : (s.pw i b).served = s.served := rfl
@[simp] theorem State.pw_shadow (s : State) (i : Nat) (b : Bool) : (s.pw i b).shadow = s.shadow := rfl
@[simp] theorem State.pw_orders (s : State) (i : Nat) (b : Bool) : (s.pw i b).orders = s.orders := rfl

/-! ### The PC advanced -/

@[simp] theorem State.advance_dev (s : State) (n : Nat) : (s.advance n).dev = s.dev := rfl
@[simp] theorem State.advance_spaces (s : State) (n : Nat) : (s.advance n).spaces = s.spaces := rfl
@[simp] theorem State.advance_mem (s : State) (n : Nat) : (s.advance n).mem = s.mem := rfl
@[simp] theorem State.advance_poison (s : State) (n : Nat) : (s.advance n).poison = s.poison := rfl
@[simp] theorem State.advance_own (s : State) (n : Nat) : (s.advance n).own = s.own := rfl
@[simp] theorem State.advance_l1 (s : State) (n : Nat) : (s.advance n).l1 = s.l1 := rfl
@[simp] theorem State.advance_wc (s : State) (n : Nat) : (s.advance n).wc = s.wc := rfl
@[simp] theorem State.advance_regions (s : State) (n : Nat) : (s.advance n).regions = s.regions := rfl
@[simp] theorem State.advance_prefixes (s : State) (n : Nat) : (s.advance n).prefixes = s.prefixes := rfl
@[simp] theorem State.advance_prefixSeq (s : State) (n : Nat) : (s.advance n).prefixSeq = s.prefixSeq := rfl
@[simp] theorem State.advance_tiles (s : State) (n : Nat) : (s.advance n).tiles = s.tiles := rfl
@[simp] theorem State.advance_codebooks (s : State) (n : Nat) : (s.advance n).codebooks = s.codebooks := rfl
@[simp] theorem State.advance_launches (s : State) (n : Nat) : (s.advance n).launches = s.launches := rfl
@[simp] theorem State.advance_queues (s : State) (n : Nat) : (s.advance n).queues = s.queues := rfl
@[simp] theorem State.advance_copies (s : State) (n : Nat) : (s.advance n).copies = s.copies := rfl
@[simp] theorem State.advance_newcomers (s : State) (n : Nat) : (s.advance n).newcomers = s.newcomers := rfl
@[simp] theorem State.advance_draining (s : State) (n : Nat) : (s.advance n).draining = s.draining := rfl
@[simp] theorem State.advance_colls (s : State) (n : Nat) : (s.advance n).colls = s.colls := rfl
@[simp] theorem State.advance_handles (s : State) (n : Nat) : (s.advance n).handles = s.handles := rfl
@[simp] theorem State.advance_flying (s : State) (n : Nat) : (s.advance n).flying = s.flying := rfl
@[simp] theorem State.advance_refused (s : State) (n : Nat) : (s.advance n).refused = s.refused := rfl
@[simp] theorem State.advance_ports (s : State) (n : Nat) : (s.advance n).ports = s.ports := rfl
@[simp] theorem State.advance_permits (s : State) (n : Nat) : (s.advance n).permits = s.permits := rfl
@[simp] theorem State.advance_peersLost (s : State) (n : Nat) : (s.advance n).peersLost = s.peersLost := rfl
@[simp] theorem State.advance_hostUp (s : State) (n : Nat) : (s.advance n).hostUp = s.hostUp := rfl
@[simp] theorem State.advance_hostContained (s : State) (n : Nat) : (s.advance n).hostContained = s.hostContained := rfl
@[simp] theorem State.advance_reply (s : State) (n : Nat) : (s.advance n).reply = s.reply := rfl
@[simp] theorem State.advance_pageRequests (s : State) (n : Nat) : (s.advance n).pageRequests = s.pageRequests := rfl
@[simp] theorem State.advance_traceBufs (s : State) (n : Nat) : (s.advance n).traceBufs = s.traceBufs := rfl
@[simp] theorem State.advance_conflicts (s : State) (n : Nat) : (s.advance n).conflicts = s.conflicts := rfl
@[simp] theorem State.advance_tape (s : State) (n : Nat) : (s.advance n).tape = s.tape := rfl
@[simp] theorem State.advance_rota (s : State) (n : Nat) : (s.advance n).rota = s.rota := rfl
@[simp] theorem State.advance_cur (s : State) (n : Nat) : (s.advance n).cur = s.cur := rfl
@[simp] theorem State.advance_actor (s : State) (n : Nat) : (s.advance n).actor = s.actor := rfl
@[simp] theorem State.advance_late (s : State) (n : Nat) : (s.advance n).late = s.late := rfl
@[simp] theorem State.advance_inp (s : State) (n : Nat) : (s.advance n).inp = s.inp := rfl
@[simp] theorem State.advance_draws (s : State) (n : Nat) : (s.advance n).draws = s.draws := rfl
@[simp] theorem State.advance_displacing (s : State) (n : Nat) : (s.advance n).displacing = s.displacing := rfl
@[simp] theorem State.advance_sent (s : State) (n : Nat) : (s.advance n).sent = s.sent := rfl
@[simp] theorem State.advance_resend (s : State) (n : Nat) : (s.advance n).resend = s.resend := rfl
@[simp] theorem State.advance_hostLanes (s : State) (n : Nat) : (s.advance n).hostLanes = s.hostLanes := rfl
@[simp] theorem State.advance_hostRate (s : State) (n : Nat) : (s.advance n).hostRate = s.hostRate := rfl
@[simp] theorem State.advance_asked (s : State) (n : Nat) : (s.advance n).asked = s.asked := rfl
@[simp] theorem State.advance_failedPages (s : State) (n : Nat) : (s.advance n).failedPages = s.failedPages := rfl
@[simp] theorem State.advance_served (s : State) (n : Nat) : (s.advance n).served = s.served := rfl
@[simp] theorem State.advance_shadow (s : State) (n : Nat) : (s.advance n).shadow = s.shadow := rfl
@[simp] theorem State.advance_orders (s : State) (n : Nat) : (s.advance n).orders = s.orders := rfl

/-! ### A stream's PC advanced -/

@[simp] theorem Stream.advance_x (t : Stream) (n : Nat) : (t.advance n).x = t.x := rfl
@[simp] theorem Stream.advance_k (t : Stream) (n : Nat) : (t.advance n).k = t.k := rfl
@[simp] theorem Stream.advance_p (t : Stream) (n : Nat) : (t.advance n).p = t.p := rfl
@[simp] theorem Stream.advance_shape (t : Stream) (n : Nat) : (t.advance n).shape = t.shape := rfl
@[simp] theorem Stream.advance_fq (t : Stream) (n : Nat) : (t.advance n).fq = t.fq := rfl
@[simp] theorem Stream.advance_u (t : Stream) (n : Nat) : (t.advance n).u = t.u := rfl
@[simp] theorem Stream.advance_fqpos (t : Stream) (n : Nat) : (t.advance n).fqpos = t.fqpos := rfl
@[simp] theorem Stream.advance_ssr (t : Stream) (n : Nat) : (t.advance n).ssr = t.ssr := rfl
@[simp] theorem Stream.advance_arn (t : Stream) (n : Nat) : (t.advance n).arn = t.arn := rfl
@[simp] theorem Stream.advance_acc (t : Stream) (n : Nat) : (t.advance n).acc = t.acc := rfl
@[simp] theorem Stream.advance_wm (t : Stream) (n : Nat) : (t.advance n).wm = t.wm := rfl
@[simp] theorem Stream.advance_loopst (t : Stream) (n : Nat) : (t.advance n).loopst = t.loopst := rfl
@[simp] theorem Stream.advance_scoord (t : Stream) (n : Nat) : (t.advance n).scoord = t.scoord := rfl
@[simp] theorem Stream.advance_sleg (t : Stream) (n : Nat) : (t.advance n).sleg = t.sleg := rfl
@[simp] theorem Stream.advance_lastDrained (t : Stream) (n : Nat) : (t.advance n).lastDrained = t.lastDrained := rfl
@[simp] theorem Stream.advance_matrixQ (t : Stream) (n : Nat) : (t.advance n).matrixQ = t.matrixQ := rfl
@[simp] theorem Stream.advance_vectorQ (t : Stream) (n : Nat) : (t.advance n).vectorQ = t.vectorQ := rfl
@[simp] theorem Stream.advance_porterQ (t : Stream) (n : Nat) : (t.advance n).porterQ = t.porterQ := rfl
@[simp] theorem Stream.advance_assayerQ (t : Stream) (n : Nat) : (t.advance n).assayerQ = t.assayerQ := rfl
@[simp] theorem Stream.advance_running (t : Stream) (n : Nat) : (t.advance n).running = t.running := rfl
@[simp] theorem Stream.advance_halted (t : Stream) (n : Nat) : (t.advance n).halted = t.halted := rfl
@[simp] theorem Stream.advance_stopped (t : Stream) (n : Nat) : (t.advance n).stopped = t.stopped := rfl
@[simp] theorem Stream.advance_cut (t : Stream) (n : Nat) : (t.advance n).cut = t.cut := rfl
@[simp] theorem Stream.advance_wait (t : Stream) (n : Nat) : (t.advance n).wait = t.wait := rfl
@[simp] theorem Stream.advance_fences (t : Stream) (n : Nat) : (t.advance n).fences = t.fences := rfl
@[simp] theorem Stream.advance_pend (t : Stream) (n : Nat) : (t.advance n).pend = t.pend := rfl
@[simp] theorem Stream.advance_synced (t : Stream) (n : Nat) : (t.advance n).synced = t.synced := rfl
@[simp] theorem Stream.advance_yielded (t : Stream) (n : Nat) : (t.advance n).yielded = t.yielded := rfl
@[simp] theorem Stream.advance_yieldLeft (t : Stream) (n : Nat) : (t.advance n).yieldLeft = t.yieldLeft := rfl
@[simp] theorem Stream.advance_paging (t : Stream) (n : Nat) : (t.advance n).paging = t.paging := rfl
@[simp] theorem Stream.advance_accesses (t : Stream) (n : Nat) : (t.advance n).accesses = t.accesses := rfl
@[simp] theorem Stream.advance_accessNo (t : Stream) (n : Nat) : (t.advance n).accessNo = t.accessNo := rfl

/-! ### A stream's cursor written -/

@[simp] theorem Stream.kw_pc (t : Stream) (i : Nat) (v : BitVec 16) : (t.kw i v).pc = t.pc := rfl
@[simp] theorem Stream.kw_x (t : Stream) (i : Nat) (v : BitVec 16) : (t.kw i v).x = t.x := rfl
@[simp] theorem Stream.kw_p (t : Stream) (i : Nat) (v : BitVec 16) : (t.kw i v).p = t.p := rfl
@[simp] theorem Stream.kw_shape (t : Stream) (i : Nat) (v : BitVec 16) : (t.kw i v).shape = t.shape := rfl
@[simp] theorem Stream.kw_fq (t : Stream) (i : Nat) (v : BitVec 16) : (t.kw i v).fq = t.fq := rfl
@[simp] theorem Stream.kw_u (t : Stream) (i : Nat) (v : BitVec 16) : (t.kw i v).u = t.u := rfl
@[simp] theorem Stream.kw_fqpos (t : Stream) (i : Nat) (v : BitVec 16) : (t.kw i v).fqpos = t.fqpos := rfl
@[simp] theorem Stream.kw_ssr (t : Stream) (i : Nat) (v : BitVec 16) : (t.kw i v).ssr = t.ssr := rfl
@[simp] theorem Stream.kw_arn (t : Stream) (i : Nat) (v : BitVec 16) : (t.kw i v).arn = t.arn := rfl
@[simp] theorem Stream.kw_acc (t : Stream) (i : Nat) (v : BitVec 16) : (t.kw i v).acc = t.acc := rfl
@[simp] theorem Stream.kw_wm (t : Stream) (i : Nat) (v : BitVec 16) : (t.kw i v).wm = t.wm := rfl
@[simp] theorem Stream.kw_loopst (t : Stream) (i : Nat) (v : BitVec 16) : (t.kw i v).loopst = t.loopst := rfl
@[simp] theorem Stream.kw_scoord (t : Stream) (i : Nat) (v : BitVec 16) : (t.kw i v).scoord = t.scoord := rfl
@[simp] theorem Stream.kw_sleg (t : Stream) (i : Nat) (v : BitVec 16) : (t.kw i v).sleg = t.sleg := rfl
@[simp] theorem Stream.kw_lastDrained (t : Stream) (i : Nat) (v : BitVec 16) : (t.kw i v).lastDrained = t.lastDrained := rfl
@[simp] theorem Stream.kw_matrixQ (t : Stream) (i : Nat) (v : BitVec 16) : (t.kw i v).matrixQ = t.matrixQ := rfl
@[simp] theorem Stream.kw_vectorQ (t : Stream) (i : Nat) (v : BitVec 16) : (t.kw i v).vectorQ = t.vectorQ := rfl
@[simp] theorem Stream.kw_porterQ (t : Stream) (i : Nat) (v : BitVec 16) : (t.kw i v).porterQ = t.porterQ := rfl
@[simp] theorem Stream.kw_assayerQ (t : Stream) (i : Nat) (v : BitVec 16) : (t.kw i v).assayerQ = t.assayerQ := rfl
@[simp] theorem Stream.kw_running (t : Stream) (i : Nat) (v : BitVec 16) : (t.kw i v).running = t.running := rfl
@[simp] theorem Stream.kw_halted (t : Stream) (i : Nat) (v : BitVec 16) : (t.kw i v).halted = t.halted := rfl
@[simp] theorem Stream.kw_stopped (t : Stream) (i : Nat) (v : BitVec 16) : (t.kw i v).stopped = t.stopped := rfl
@[simp] theorem Stream.kw_cut (t : Stream) (i : Nat) (v : BitVec 16) : (t.kw i v).cut = t.cut := rfl
@[simp] theorem Stream.kw_wait (t : Stream) (i : Nat) (v : BitVec 16) : (t.kw i v).wait = t.wait := rfl
@[simp] theorem Stream.kw_fences (t : Stream) (i : Nat) (v : BitVec 16) : (t.kw i v).fences = t.fences := rfl
@[simp] theorem Stream.kw_pend (t : Stream) (i : Nat) (v : BitVec 16) : (t.kw i v).pend = t.pend := rfl
@[simp] theorem Stream.kw_synced (t : Stream) (i : Nat) (v : BitVec 16) : (t.kw i v).synced = t.synced := rfl
@[simp] theorem Stream.kw_yielded (t : Stream) (i : Nat) (v : BitVec 16) : (t.kw i v).yielded = t.yielded := rfl
@[simp] theorem Stream.kw_yieldLeft (t : Stream) (i : Nat) (v : BitVec 16) : (t.kw i v).yieldLeft = t.yieldLeft := rfl
@[simp] theorem Stream.kw_paging (t : Stream) (i : Nat) (v : BitVec 16) : (t.kw i v).paging = t.paging := rfl
@[simp] theorem Stream.kw_accesses (t : Stream) (i : Nat) (v : BitVec 16) : (t.kw i v).accesses = t.accesses := rfl
@[simp] theorem Stream.kw_accessNo (t : Stream) (i : Nat) (v : BitVec 16) : (t.kw i v).accessNo = t.accessNo := rfl

/-! ### A stream's register or predicate written -/

@[simp] theorem Stream.xw_pc (t : Stream) (i : BitVec 6) (v : Word) : (t.xw i v).pc = t.pc := by unfold Stream.xw; split <;> rfl
@[simp] theorem Stream.xw_k (t : Stream) (i : BitVec 6) (v : Word) : (t.xw i v).k = t.k := by unfold Stream.xw; split <;> rfl
@[simp] theorem Stream.xw_p (t : Stream) (i : BitVec 6) (v : Word) : (t.xw i v).p = t.p := by unfold Stream.xw; split <;> rfl
@[simp] theorem Stream.xw_shape (t : Stream) (i : BitVec 6) (v : Word) : (t.xw i v).shape = t.shape := by unfold Stream.xw; split <;> rfl
@[simp] theorem Stream.xw_fq (t : Stream) (i : BitVec 6) (v : Word) : (t.xw i v).fq = t.fq := by unfold Stream.xw; split <;> rfl
@[simp] theorem Stream.xw_u (t : Stream) (i : BitVec 6) (v : Word) : (t.xw i v).u = t.u := by unfold Stream.xw; split <;> rfl
@[simp] theorem Stream.xw_fqpos (t : Stream) (i : BitVec 6) (v : Word) : (t.xw i v).fqpos = t.fqpos := by unfold Stream.xw; split <;> rfl
@[simp] theorem Stream.xw_ssr (t : Stream) (i : BitVec 6) (v : Word) : (t.xw i v).ssr = t.ssr := by unfold Stream.xw; split <;> rfl
@[simp] theorem Stream.xw_arn (t : Stream) (i : BitVec 6) (v : Word) : (t.xw i v).arn = t.arn := by unfold Stream.xw; split <;> rfl
@[simp] theorem Stream.xw_acc (t : Stream) (i : BitVec 6) (v : Word) : (t.xw i v).acc = t.acc := by unfold Stream.xw; split <;> rfl
@[simp] theorem Stream.xw_wm (t : Stream) (i : BitVec 6) (v : Word) : (t.xw i v).wm = t.wm := by unfold Stream.xw; split <;> rfl
@[simp] theorem Stream.xw_loopst (t : Stream) (i : BitVec 6) (v : Word) : (t.xw i v).loopst = t.loopst := by unfold Stream.xw; split <;> rfl
@[simp] theorem Stream.xw_scoord (t : Stream) (i : BitVec 6) (v : Word) : (t.xw i v).scoord = t.scoord := by unfold Stream.xw; split <;> rfl
@[simp] theorem Stream.xw_sleg (t : Stream) (i : BitVec 6) (v : Word) : (t.xw i v).sleg = t.sleg := by unfold Stream.xw; split <;> rfl
@[simp] theorem Stream.xw_lastDrained (t : Stream) (i : BitVec 6) (v : Word) : (t.xw i v).lastDrained = t.lastDrained := by unfold Stream.xw; split <;> rfl
@[simp] theorem Stream.xw_matrixQ (t : Stream) (i : BitVec 6) (v : Word) : (t.xw i v).matrixQ = t.matrixQ := by unfold Stream.xw; split <;> rfl
@[simp] theorem Stream.xw_vectorQ (t : Stream) (i : BitVec 6) (v : Word) : (t.xw i v).vectorQ = t.vectorQ := by unfold Stream.xw; split <;> rfl
@[simp] theorem Stream.xw_porterQ (t : Stream) (i : BitVec 6) (v : Word) : (t.xw i v).porterQ = t.porterQ := by unfold Stream.xw; split <;> rfl
@[simp] theorem Stream.xw_assayerQ (t : Stream) (i : BitVec 6) (v : Word) : (t.xw i v).assayerQ = t.assayerQ := by unfold Stream.xw; split <;> rfl
@[simp] theorem Stream.xw_running (t : Stream) (i : BitVec 6) (v : Word) : (t.xw i v).running = t.running := by unfold Stream.xw; split <;> rfl
@[simp] theorem Stream.xw_halted (t : Stream) (i : BitVec 6) (v : Word) : (t.xw i v).halted = t.halted := by unfold Stream.xw; split <;> rfl
@[simp] theorem Stream.xw_stopped (t : Stream) (i : BitVec 6) (v : Word) : (t.xw i v).stopped = t.stopped := by unfold Stream.xw; split <;> rfl
@[simp] theorem Stream.xw_cut (t : Stream) (i : BitVec 6) (v : Word) : (t.xw i v).cut = t.cut := by unfold Stream.xw; split <;> rfl
@[simp] theorem Stream.xw_wait (t : Stream) (i : BitVec 6) (v : Word) : (t.xw i v).wait = t.wait := by unfold Stream.xw; split <;> rfl
@[simp] theorem Stream.xw_accesses (t : Stream) (i : BitVec 6) (v : Word) : (t.xw i v).accesses = t.accesses := by unfold Stream.xw; split <;> rfl
@[simp] theorem Stream.xw_accessNo (t : Stream) (i : BitVec 6) (v : Word) : (t.xw i v).accessNo = t.accessNo := by unfold Stream.xw; split <;> rfl
@[simp] theorem Stream.xw_fences (t : Stream) (i : BitVec 6) (v : Word) : (t.xw i v).fences = t.fences := by unfold Stream.xw; split <;> rfl
@[simp] theorem Stream.xw_pend (t : Stream) (i : BitVec 6) (v : Word) : (t.xw i v).pend = t.pend := by unfold Stream.xw; split <;> rfl
@[simp] theorem Stream.xw_synced (t : Stream) (i : BitVec 6) (v : Word) : (t.xw i v).synced = t.synced := by unfold Stream.xw; split <;> rfl
@[simp] theorem Stream.xw_yielded (t : Stream) (i : BitVec 6) (v : Word) : (t.xw i v).yielded = t.yielded := by unfold Stream.xw; split <;> rfl
@[simp] theorem Stream.xw_yieldLeft (t : Stream) (i : BitVec 6) (v : Word) : (t.xw i v).yieldLeft = t.yieldLeft := by unfold Stream.xw; split <;> rfl
@[simp] theorem Stream.xw_paging (t : Stream) (i : BitVec 6) (v : Word) : (t.xw i v).paging = t.paging := by unfold Stream.xw; split <;> rfl
@[simp] theorem Stream.pw_pc (t : Stream) (i : Nat) (b : Bool) : (t.pw i b).pc = t.pc := by unfold Stream.pw; split <;> rfl
@[simp] theorem Stream.pw_x (t : Stream) (i : Nat) (b : Bool) : (t.pw i b).x = t.x := by unfold Stream.pw; split <;> rfl
@[simp] theorem Stream.pw_k (t : Stream) (i : Nat) (b : Bool) : (t.pw i b).k = t.k := by unfold Stream.pw; split <;> rfl
@[simp] theorem Stream.pw_shape (t : Stream) (i : Nat) (b : Bool) : (t.pw i b).shape = t.shape := by unfold Stream.pw; split <;> rfl
@[simp] theorem Stream.pw_fq (t : Stream) (i : Nat) (b : Bool) : (t.pw i b).fq = t.fq := by unfold Stream.pw; split <;> rfl
@[simp] theorem Stream.pw_u (t : Stream) (i : Nat) (b : Bool) : (t.pw i b).u = t.u := by unfold Stream.pw; split <;> rfl
@[simp] theorem Stream.pw_fqpos (t : Stream) (i : Nat) (b : Bool) : (t.pw i b).fqpos = t.fqpos := by unfold Stream.pw; split <;> rfl
@[simp] theorem Stream.pw_ssr (t : Stream) (i : Nat) (b : Bool) : (t.pw i b).ssr = t.ssr := by unfold Stream.pw; split <;> rfl
@[simp] theorem Stream.pw_arn (t : Stream) (i : Nat) (b : Bool) : (t.pw i b).arn = t.arn := by unfold Stream.pw; split <;> rfl
@[simp] theorem Stream.pw_acc (t : Stream) (i : Nat) (b : Bool) : (t.pw i b).acc = t.acc := by unfold Stream.pw; split <;> rfl
@[simp] theorem Stream.pw_wm (t : Stream) (i : Nat) (b : Bool) : (t.pw i b).wm = t.wm := by unfold Stream.pw; split <;> rfl
@[simp] theorem Stream.pw_loopst (t : Stream) (i : Nat) (b : Bool) : (t.pw i b).loopst = t.loopst := by unfold Stream.pw; split <;> rfl
@[simp] theorem Stream.pw_scoord (t : Stream) (i : Nat) (b : Bool) : (t.pw i b).scoord = t.scoord := by unfold Stream.pw; split <;> rfl
@[simp] theorem Stream.pw_sleg (t : Stream) (i : Nat) (b : Bool) : (t.pw i b).sleg = t.sleg := by unfold Stream.pw; split <;> rfl
@[simp] theorem Stream.pw_lastDrained (t : Stream) (i : Nat) (b : Bool) : (t.pw i b).lastDrained = t.lastDrained := by unfold Stream.pw; split <;> rfl
@[simp] theorem Stream.pw_matrixQ (t : Stream) (i : Nat) (b : Bool) : (t.pw i b).matrixQ = t.matrixQ := by unfold Stream.pw; split <;> rfl
@[simp] theorem Stream.pw_vectorQ (t : Stream) (i : Nat) (b : Bool) : (t.pw i b).vectorQ = t.vectorQ := by unfold Stream.pw; split <;> rfl
@[simp] theorem Stream.pw_porterQ (t : Stream) (i : Nat) (b : Bool) : (t.pw i b).porterQ = t.porterQ := by unfold Stream.pw; split <;> rfl
@[simp] theorem Stream.pw_assayerQ (t : Stream) (i : Nat) (b : Bool) : (t.pw i b).assayerQ = t.assayerQ := by unfold Stream.pw; split <;> rfl
@[simp] theorem Stream.pw_running (t : Stream) (i : Nat) (b : Bool) : (t.pw i b).running = t.running := by unfold Stream.pw; split <;> rfl
@[simp] theorem Stream.pw_halted (t : Stream) (i : Nat) (b : Bool) : (t.pw i b).halted = t.halted := by unfold Stream.pw; split <;> rfl
@[simp] theorem Stream.pw_stopped (t : Stream) (i : Nat) (b : Bool) : (t.pw i b).stopped = t.stopped := by unfold Stream.pw; split <;> rfl
@[simp] theorem Stream.pw_cut (t : Stream) (i : Nat) (b : Bool) : (t.pw i b).cut = t.cut := by unfold Stream.pw; split <;> rfl
@[simp] theorem Stream.pw_wait (t : Stream) (i : Nat) (b : Bool) : (t.pw i b).wait = t.wait := by unfold Stream.pw; split <;> rfl
@[simp] theorem Stream.pw_accesses (t : Stream) (i : Nat) (b : Bool) : (t.pw i b).accesses = t.accesses := by unfold Stream.pw; split <;> rfl
@[simp] theorem Stream.pw_accessNo (t : Stream) (i : Nat) (b : Bool) : (t.pw i b).accessNo = t.accessNo := by unfold Stream.pw; split <;> rfl
@[simp] theorem Stream.pw_fences (t : Stream) (i : Nat) (b : Bool) : (t.pw i b).fences = t.fences := by unfold Stream.pw; split <;> rfl
@[simp] theorem Stream.pw_pend (t : Stream) (i : Nat) (b : Bool) : (t.pw i b).pend = t.pend := by unfold Stream.pw; split <;> rfl
@[simp] theorem Stream.pw_synced (t : Stream) (i : Nat) (b : Bool) : (t.pw i b).synced = t.synced := by unfold Stream.pw; split <;> rfl
@[simp] theorem Stream.pw_yielded (t : Stream) (i : Nat) (b : Bool) : (t.pw i b).yielded = t.yielded := by unfold Stream.pw; split <;> rfl
@[simp] theorem Stream.pw_yieldLeft (t : Stream) (i : Nat) (b : Bool) : (t.pw i b).yieldLeft = t.yieldLeft := by unfold Stream.pw; split <;> rfl
@[simp] theorem Stream.pw_paging (t : Stream) (i : Nat) (b : Bool) : (t.pw i b).paging = t.paging := by unfold Stream.pw; split <;> rfl

/-! ### What the accessors read -/

theorem State.stream_setStream (s : State) (k j : Nat) (t : Stream) :
    (s.setStream k t).stream j = if j = k then t else s.stream j := tget_tset _ t k j s.streams

@[simp] theorem State.stream_setStream_self (s : State) (k : Nat) (t : Stream) : (s.setStream k t).stream k = t := by
  simp [State.stream_setStream]

theorem State.stream_setSt (s : State) (j : Nat) (t : Stream) : (s.setSt t).stream j = if j = s.cur then t else s.stream j :=
  s.stream_setStream s.cur j t

@[simp] theorem State.st_setSt (s : State) (t : Stream) : (s.setSt t).st = t := s.stream_setStream_self s.cur t

@[simp] theorem State.stream_setLaunch (s : State) (l j : Nat) (v : Launch) : (s.setLaunch l v).stream j = s.stream j := rfl
@[simp] theorem State.st_setLaunch (s : State) (l : Nat) (v : Launch) : (s.setLaunch l v).st = s.st := rfl
@[simp] theorem State.stream_setTile (s : State) (key j : Nat) (t : Tile) : (s.setTile key t).stream j = s.stream j := rfl
@[simp] theorem State.st_setTile (s : State) (key : Nat) (t : Tile) : (s.setTile key t).st = s.st := rfl

theorem State.launchOf_setLaunch (s : State) (l j : Nat) (v : Launch) :
    (s.setLaunch l v).launchOf j = if j = l then v else s.launchOf j := tget_tput _ v l j s.launches

@[simp] theorem State.launchOf_setStream (s : State) (k l : Nat) (t : Stream) : (s.setStream k t).launchOf l = s.launchOf l := rfl
@[simp] theorem State.launchOf_setSt (s : State) (l : Nat) (t : Stream) : (s.setSt t).launchOf l = s.launchOf l := rfl

theorem State.tile_setTile (s : State) (key j : Nat) (t : Tile) :
    (s.setTile key t).tile j = if j = key then t.restamp (s.tile key) (s.aclkAt key) else s.tile j :=
  tget_tset _ _ key j s.tiles

@[simp] theorem Tile.restamp_count (t o : Tile) (now : Nat) : (t.restamp o now).count = t.count := by unfold Tile.restamp; split <;> rfl
@[simp] theorem Tile.restamp_quota (t o : Tile) (now : Nat) : (t.restamp o now).quota = t.quota := by unfold Tile.restamp; split <;> rfl
@[simp] theorem Tile.restamp_skip (t o : Tile) (now : Nat) : (t.restamp o now).skip = t.skip := by unfold Tile.restamp; split <;> rfl
@[simp] theorem Tile.restamp_writer (t o : Tile) (now : Nat) : (t.restamp o now).writer = t.writer := by unfold Tile.restamp; split <;> rfl
@[simp] theorem Tile.restamp_inflight (t o : Tile) (now : Nat) : (t.restamp o now).inflight = t.inflight := by unfold Tile.restamp; split <;> rfl
@[simp] theorem Tile.restamp_wip (t o : Tile) (now : Nat) : (t.restamp o now).wip = t.wip := by unfold Tile.restamp; split <;> rfl
@[simp] theorem Tile.restamp_pending (t o : Tile) (now : Nat) : (t.restamp o now).pending = t.pending := by unfold Tile.restamp; split <;> rfl

/-! ### Registers (R82, R97) -/

@[simp] theorem Stream.xr_zero (t : Stream) : t.xr 0 = 0 := rfl

/-- X0 reads as zero and ignores writes; another register holds what was written. -/
theorem Stream.xr_xw (t : Stream) (i j : BitVec 6) (v : Word) :
    (t.xw i v).xr j = if j = 0 then 0 else if j = i then v else t.xr j := by
  unfold Stream.xw Stream.xr
  by_cases hj : j = 0
  · simp [hj]
  · by_cases hi : i = 0
    · have hji : j ≠ i := hi ▸ hj
      rw [if_neg hj, if_neg hj, if_pos hi, if_neg hji, if_neg hj]
    · rw [if_neg hj, if_neg hj, if_neg hi]
      rw [tget_tset]
      by_cases h : j = i
      · simp [h]
      · rw [if_neg h, if_neg (fun e => h (BitVec.eq_of_toNat_eq e)), if_neg hj]

theorem State.xr_xw (s : State) (i j : BitVec 6) (v : Word) :
    (s.xw i v).xr j = if j = 0 then 0 else if j = i then v else s.xr j := by
  unfold State.xr State.xw
  rw [State.st_setSt, Stream.xr_xw]

@[simp] theorem State.st_xw (s : State) (i : BitVec 6) (v : Word) : (s.xw i v).st = s.st.xw i v := by
  unfold State.xw; rw [State.st_setSt]

@[simp] theorem State.st_pw (s : State) (i : Nat) (b : Bool) : (s.pw i b).st = s.st.pw i b := by
  unfold State.pw; rw [State.st_setSt]

@[simp] theorem State.st_advance (s : State) (n : Nat) : (s.advance n).st = s.st.advance n := by
  unfold State.advance; rw [State.st_setSt]

@[simp] theorem Stream.pr_zero (t : Stream) : t.pr 0 = true := rfl

/-- P0 reads as 1 and ignores writes; another predicate holds what was written. -/
theorem Stream.pr_pw (t : Stream) (i j : Nat) (hj : j < 8) (b : Bool) :
    (t.pw i b).pr j = if j = 0 then true else if j = i then b else t.pr j := by
  unfold Stream.pw Stream.pr
  by_cases h0 : j = 0
  · simp [h0]
  · by_cases hi : i = 0
    · have : j ≠ i := hi ▸ h0
      simp [h0, hi]
    · by_cases h : j = i
      · subst h; cases b <;> simp [h0, hj]
      · cases b <;> simp [h0, hi, h, hj] <;> intros <;> omega

@[simp] theorem Stream.advance_pc (t : Stream) (n : Nat) : (t.advance n).pc = t.pc + BitVec.ofNat 64 n := rfl
@[simp] theorem Stream.xr_advance (t : Stream) (n : Nat) (i : BitVec 6) : (t.advance n).xr i = t.xr i := rfl
@[simp] theorem Stream.pr_advance (t : Stream) (n i : Nat) : (t.advance n).pr i = t.pr i := rfl
@[simp] theorem Stream.kr_advance (t : Stream) (n i : Nat) : (t.advance n).kr i = t.kr i := rfl

theorem Stream.kr_kw (t : Stream) (i j : Nat) (v : BitVec 16) : (t.kw i v).kr j = if j = i then v else t.kr j :=
  tget_tset 0 v i j t.k

/-- The streams that do not act keep everything. -/
theorem State.stream_xw_ne (s : State) (i : BitVec 6) (v : Word) {j : Nat} (h : j ≠ s.cur) : (s.xw i v).stream j = s.stream j := by
  unfold State.xw; rw [State.stream_setSt, if_neg h]

theorem State.stream_advance_ne (s : State) (n : Nat) {j : Nat} (h : j ≠ s.cur) : (s.advance n).stream j = s.stream j := by
  unfold State.advance; rw [State.stream_setSt, if_neg h]

end Sys2Proof.Machine
end

