-- ==== Sys2Proof/Laws/Frame.lean ====
section
/-! SUPPORT. What the shared operations leave unchanged: the frames of a stream's update, of a trace record, of a fault record
of taking a trap, and of the notes of what dirty bytes are followed by, each said once. -/

namespace Sys2Proof.Machine

/-! ### One stream -/

theorem OnlyStream.refl (s : State) (k : Nat) : OnlyStream s s k := ⟨rfl, fun _ _ => rfl⟩

theorem OnlyStream.trans {s t u : State} {k : Nat} (h : OnlyStream s t k) (h' : OnlyStream t u k) : OnlyStream s u k :=
  ⟨by rw [h'.1, h.1], fun j hj => (h'.2 j hj).trans (h.2 j hj)⟩

theorem OnlyStream.setStream (s : State) (k : Nat) (t : Stream) : OnlyStream s (s.setStream k t) k :=
  ⟨rfl, fun j hj => by rw [State.stream_setStream, if_neg hj]⟩

theorem OnlyStream.setSt (s : State) (t : Stream) : OnlyStream s (s.setSt t) s.cur := OnlyStream.setStream s s.cur t

theorem OnlyStream.xw (s : State) (i : BitVec 6) (v : Word) : OnlyStream s (s.xw i v) s.cur := OnlyStream.setSt s _
theorem OnlyStream.pw (s : State) (i : Nat) (b : Bool) : OnlyStream s (s.pw i b) s.cur := OnlyStream.setSt s _
theorem OnlyStream.advance (s : State) (n : Nat) : OnlyStream s (s.advance n) s.cur := OnlyStream.setSt s _

theorem OnlyStream.mem {s t : State} {k : Nat} (h : OnlyStream s t k) : t.mem = s.mem := by rw [h.1]
theorem OnlyStream.cur {s t : State} {k : Nat} (h : OnlyStream s t k) : t.cur = s.cur := by rw [h.1]
theorem OnlyStream.launches {s t : State} {k : Nat} (h : OnlyStream s t k) : t.launches = s.launches := by rw [h.1]

theorem OnlyStream.sameMemory {s t : State} {k : Nat} (h : OnlyStream s t k) : SameMemory s t := fun a => by rw [h.mem]

theorem SameMemory.refl (s : State) : SameMemory s s := fun _ => rfl
theorem SameMemory.of_mem {s t : State} (h : t.mem = s.mem) : SameMemory s t := fun a => by rw [h]
theorem SameMemory.trans {s t u : State} (h : SameMemory s t) (h' : SameMemory t u) : SameMemory s u := fun a => (h' a).trans (h a)

/-! ### The guard and the end of a short instruction -/

theorem issue_of_guard {g : BitVec 4} {s : State} (h : s.st.guardTrue g = true) (body : State → Result) :
    issue g s body = body s := by simp [issue, h]

theorem issue_of_not_guard {g : BitVec 4} {s : State} (h : s.st.guardTrue g = false) (body : State → Result) :
    issue g s body = .next (s.advance 8) := by simp [issue, h]

/-! ### Trace records -/

/-- A trace record changes nothing but the trace buffers. -/
theorem State.trace_frame (s : State) (k kind loop cause iter tag arg : Nat) (extra : List (BitVec 256)) :
    s.trace k kind loop cause iter tag arg extra =
      { s with traceBufs := (s.trace k kind loop cause iter tag arg extra).traceBufs } := by
  unfold State.trace
  dsimp only
  split
  · split <;> rfl
  · rfl

/-- A launch that does not trace a kind gets no record of it. -/
theorem State.trace_of_mask {s : State} {k kind : Nat} (h : (s.launchOf (k / 4096)).traceMask.getLsbD kind = false)
    (loop cause iter tag arg : Nat) (extra : List (BitVec 256)) : s.trace k kind loop cause iter tag arg extra = s := by
  simp [State.trace, h]

/-! ### Fault records -/

/-- Posting a record changes nothing but its launch. -/
theorem State.post_frame (s : State) (l : Nat) (r : BitVec 1024) : s.post l r = s.setLaunch l ((s.post l r).launchOf l) := by
  unfold State.post
  dsimp only
  split <;> simp [State.launchOf_setLaunch]

/-- A launch holds at most 64 records: a further one is counted as lost. -/
theorem State.launchOf_post (s : State) (l j : Nat) (r : BitVec 1024) :
    (s.post l r).launchOf j = if j = l then
        (if (s.launchOf l).held.length < 64 then
          { s.launchOf l with
            faultSeq := (s.launchOf l).faultSeq + 1,
            held := (s.launchOf l).held ++ [r ||| BitVec.ofNat 1024 (((s.launchOf l).faultSeq + 1) % 2 ^ 64 * 2 ^ 64)] }
        else { s.launchOf l with faultLost := min ((s.launchOf l).faultLost + 1) 0xFFFFFFFF })
      else s.launchOf j := by
  unfold State.post
  dsimp only
  split <;> rw [State.launchOf_setLaunch]

/-- What reporting leaves: the launches' records and the trace buffers alone change. -/
theorem State.report_frame (s : State) (k unit : Nat) (fatal nostop : Bool) (pc : Word) (cut : Cut) (c : Cause) :
    s.report k unit fatal nostop pc cut c =
      { s with launches := (s.report k unit fatal nostop pc cut c).launches,
               traceBufs := (s.report k unit fatal nostop pc cut c).traceBufs } := by
  unfold State.report
  dsimp only
  rw [State.trace_frame, State.post_frame]
  rfl

/-! ### Taking a trap -/

/-- Taking a trap changes its stream, the launches' records and the trace buffers, and nothing else. -/
theorem State.takeTrap_frame (s : State) (k unit : Nat) (pc cutpc : Word) (c : Cause) :
    s.takeTrap k unit pc cutpc c =
      { s with streams := (s.takeTrap k unit pc cutpc c).streams, launches := (s.takeTrap k unit pc cutpc c).launches,
               traceBufs := (s.takeTrap k unit pc cutpc c).traceBufs } := by
  unfold State.takeTrap
  dsimp only
  rw [State.report_frame]
  rfl

/-- The stream that takes a trap stops, its wait over and its cut recorded; one that has stopped keeps everything. -/
theorem State.takeTrap_stream (s : State) (k unit : Nat) (pc cutpc : Word) (c : Cause) (j : Nat) :
    (s.takeTrap k unit pc cutpc c).stream j =
      if j = k ∧ (s.stream k).stopped = false then
        { s.stream k with stopped := true, cut := (s.stream k).cutAt cutpc, wait := none, passed := [] }
      else s.stream j := by
  unfold State.takeTrap
  dsimp only
  rw [State.report_frame]
  show (s.setStream k _).stream j = _
  rw [State.stream_setStream]
  cases h : (s.stream k).stopped <;> by_cases hj : j = k <;> simp [hj]

@[simp] theorem State.takeTrap_mem (s : State) (k unit : Nat) (pc cutpc : Word) (c : Cause) :
    (s.takeTrap k unit pc cutpc c).mem = s.mem := by rw [State.takeTrap_frame]
@[simp] theorem State.takeTrap_tiles (s : State) (k unit : Nat) (pc cutpc : Word) (c : Cause) :
    (s.takeTrap k unit pc cutpc c).tiles = s.tiles := by rw [State.takeTrap_frame]
@[simp] theorem State.takeTrap_cur (s : State) (k unit : Nat) (pc cutpc : Word) (c : Cause) :
    (s.takeTrap k unit pc cutpc c).cur = s.cur := by rw [State.takeTrap_frame]

/-- The record that a trap posts. -/
def State.trapRecord (s : State) (k unit : Nat) (pc cutpc : Word) (c : Cause) : BitVec 1024 :=
  faultRecord false false unit c (k % 4096) ((s.stream k).sleg.toNat % 16) (s.stream k).scoord pc
    (if (s.stream k).stopped then (s.stream k).cut else (s.stream k).cutAt cutpc)

/-- The launch of a stream that takes a trap is posted its record. -/
theorem State.takeTrap_launchOf (s : State) (k unit : Nat) (pc cutpc : Word) (c : Cause) (l : Nat) :
    (s.takeTrap k unit pc cutpc c).launchOf l = (s.post (k / 4096) (s.trapRecord k unit pc cutpc c)).launchOf l := by
  unfold State.takeTrap State.report
  dsimp only
  rw [State.trace_frame]
  show (State.post _ _ _).launchOf l = _
  rw [State.launchOf_post, State.launchOf_post, State.stream_setStream_self]
  simp only [State.launchOf_setStream, State.trapRecord]
  cases h : (s.stream k).stopped <;> rfl

/-! ### What is ordered after dirty bytes -/

/-- A note of what may be ordered after dirty bytes changes nothing but that note in sectors that an L1 holds. -/
theorem State.orderAfter_frame (s : State) (phys : Nat) (p : Nat → Sector → Bool) (names : BitVec 128) :
    s.orderAfter phys p names = { s with l1 := (s.orderAfter phys p names).l1 } ∧
      (s.orderAfter phys p names).l1.map Prod.fst = s.l1.map Prod.fst := by
  unfold State.orderAfter
  dsimp only
  split
  · refine ⟨rfl, ?_⟩
    simp only [List.map_map]
    refine List.map_congr_left fun e _ => ?_
    simp only [Function.comp]
    split <;> rfl
  · exact ⟨rfl, rfl⟩

/-- With no sector in any L1 there is nothing to note. -/
theorem State.orderAfter_nil {s : State} (h : s.l1 = []) (phys : Nat) (p : Nat → Sector → Bool) (names : BitVec 128) :
    s.orderAfter phys p names = s := by
  unfold State.orderAfter
  rw [h]
  rfl

@[simp] theorem State.orderAfter_mem (s : State) (phys : Nat) (p : Nat → Sector → Bool) (names : BitVec 128) :
    (s.orderAfter phys p names).mem = s.mem := by rw [(s.orderAfter_frame phys p names).1]
@[simp] theorem State.orderAfter_streams (s : State) (phys : Nat) (p : Nat → Sector → Bool) (names : BitVec 128) :
    (s.orderAfter phys p names).streams = s.streams := by rw [(s.orderAfter_frame phys p names).1]
@[simp] theorem State.noteUse_mem (s : State) (phys pa : Nat) (cls : BitVec 4) (load : Bool) : (s.noteUse phys pa cls load).mem = s.mem :=
  State.orderAfter_mem ..
@[simp] theorem State.noteUse_streams (s : State) (phys pa : Nat) (cls : BitVec 4) (load : Bool) :
    (s.noteUse phys pa cls load).streams = s.streams := State.orderAfter_streams ..
theorem State.noteUse_nil {s : State} (h : s.l1 = []) (phys pa : Nat) (cls : BitVec 4) (load : Bool) : s.noteUse phys pa cls load = s :=
  State.orderAfter_nil h ..

/-- An owner instruction's order, where nothing combines and no sector is held, changes nothing. -/
theorem State.ownerOrder_nil {s : State} (h : s.l1 = []) (hw : s.wc = []) : s.ownerOrder = s := by
  have hb : s.buffersOf (s.physOf s.cur) = [] := by unfold State.buffersOf; rw [hw]; rfl
  unfold State.ownerOrder State.enginesAfter
  dsimp only
  rw [hb]
  exact State.orderAfter_nil (show (s.combineAll []).l1 = [] from h) ..

end Sys2Proof.Machine
end

