-- ==== Sys2Proof/Laws/PerInstr.lean ====
section
/-! SUPPORT. Facts about every instruction as syntax, one lemma per constructor. Family Encoding: the opcode map, the decoder's
table and the encoder's table agree on the instruction. -/

namespace Sys2Proof.Laws.Encoding

/-- What the tables of the encoding (R77, R78) say of an instruction: a word's opcode has its format and allocates its function,
the decoder's table gives the instruction back from its fields, and opcode, guard and length are those of the word; a device
step has no word. -/
def Statement (i : Instr) : Prop :=
  match i.parts with
  | none => i.isWord = false
  | some (op, fn, F) =>
    i.isWord = true ∧ op < 256 ∧ (∃ n, opcode op = some (F.format, n) ∧ (if n = 0 then fn = 0 else fn < n)) ∧
      instrOf op fn F = some i ∧ F.guard = i.guard ∧ i.long?.isSome = decide (192 ≤ op)

theorem add (f : FA) : Statement (.add f) := ⟨rfl, by decide, ⟨_, rfl, by decide⟩, rfl, rfl, rfl⟩
theorem sub (f : FA) : Statement (.sub f) := ⟨rfl, by decide, ⟨_, rfl, by decide⟩, rfl, rfl, rfl⟩
theorem mul (f : FA) : Statement (.mul f) := ⟨rfl, by decide, ⟨_, rfl, by decide⟩, rfl, rfl, rfl⟩
theorem mulh (f : FA) : Statement (.mulh f) := ⟨rfl, by decide, ⟨_, rfl, by decide⟩, rfl, rfl, rfl⟩
theorem mulhn (f : FA) : Statement (.mulhn f) := ⟨rfl, by decide, ⟨_, rfl, by decide⟩, rfl, rfl, rfl⟩
theorem div (f : FA) : Statement (.div f) := ⟨rfl, by decide, ⟨_, rfl, by decide⟩, rfl, rfl, rfl⟩
theorem divn (f : FA) : Statement (.divn f) := ⟨rfl, by decide, ⟨_, rfl, by decide⟩, rfl, rfl, rfl⟩
theorem rem (f : FA) : Statement (.rem f) := ⟨rfl, by decide, ⟨_, rfl, by decide⟩, rfl, rfl, rfl⟩
theorem remn (f : FA) : Statement (.remn f) := ⟨rfl, by decide, ⟨_, rfl, by decide⟩, rfl, rfl, rfl⟩
theorem andR (f : FA) : Statement (.andR f) := ⟨rfl, by decide, ⟨_, rfl, by decide⟩, rfl, rfl, rfl⟩
theorem orR (f : FA) : Statement (.orR f) := ⟨rfl, by decide, ⟨_, rfl, by decide⟩, rfl, rfl, rfl⟩
theorem xor (f : FA) : Statement (.xor f) := ⟨rfl, by decide, ⟨_, rfl, by decide⟩, rfl, rfl, rfl⟩
theorem andn (f : FA) : Statement (.andn f) := ⟨rfl, by decide, ⟨_, rfl, by decide⟩, rfl, rfl, rfl⟩
theorem shl (f : FA) : Statement (.shl f) := ⟨rfl, by decide, ⟨_, rfl, by decide⟩, rfl, rfl, rfl⟩
theorem shr (f : FA) : Statement (.shr f) := ⟨rfl, by decide, ⟨_, rfl, by decide⟩, rfl, rfl, rfl⟩
theorem sra (f : FA) : Statement (.sra f) := ⟨rfl, by decide, ⟨_, rfl, by decide⟩, rfl, rfl, rfl⟩
theorem rol (f : FA) : Statement (.rol f) := ⟨rfl, by decide, ⟨_, rfl, by decide⟩, rfl, rfl, rfl⟩
theorem min (f : FA) : Statement (.min f) := ⟨rfl, by decide, ⟨_, rfl, by decide⟩, rfl, rfl, rfl⟩
theorem max (f : FA) : Statement (.max f) := ⟨rfl, by decide, ⟨_, rfl, by decide⟩, rfl, rfl, rfl⟩
theorem minn (f : FA) : Statement (.minn f) := ⟨rfl, by decide, ⟨_, rfl, by decide⟩, rfl, rfl, rfl⟩
theorem maxn (f : FA) : Statement (.maxn f) := ⟨rfl, by decide, ⟨_, rfl, by decide⟩, rfl, rfl, rfl⟩
theorem clz (f : FA) : Statement (.clz f) := ⟨rfl, by decide, ⟨_, rfl, by decide⟩, rfl, rfl, rfl⟩
theorem ctz (f : FA) : Statement (.ctz f) := ⟨rfl, by decide, ⟨_, rfl, by decide⟩, rfl, rfl, rfl⟩
theorem popc (f : FA) : Statement (.popc f) := ⟨rfl, by decide, ⟨_, rfl, by decide⟩, rfl, rfl, rfl⟩
theorem brev (f : FA) : Statement (.brev f) := ⟨rfl, by decide, ⟨_, rfl, by decide⟩, rfl, rfl, rfl⟩
theorem sext (f : FA) : Statement (.sext f) := ⟨rfl, by decide, ⟨_, rfl, by decide⟩, rfl, rfl, rfl⟩
theorem zext (f : FA) : Statement (.zext f) := ⟨rfl, by decide, ⟨_, rfl, by decide⟩, rfl, rfl, rfl⟩
theorem sel (f : FA) : Statement (.sel f) := ⟨rfl, by decide, ⟨_, rfl, by decide⟩, rfl, rfl, rfl⟩
theorem abs (f : FA) : Statement (.abs f) := ⟨rfl, by decide, ⟨_, rfl, by decide⟩, rfl, rfl, rfl⟩
theorem neg (f : FA) : Statement (.neg f) := ⟨rfl, by decide, ⟨_, rfl, by decide⟩, rfl, rfl, rfl⟩
theorem addi (f : FI) : Statement (.addi f) := ⟨rfl, by decide, ⟨_, rfl, by decide⟩, rfl, rfl, rfl⟩
theorem muli (f : FI) : Statement (.muli f) := ⟨rfl, by decide, ⟨_, rfl, by decide⟩, rfl, rfl, rfl⟩
theorem andi (f : FI) : Statement (.andi f) := ⟨rfl, by decide, ⟨_, rfl, by decide⟩, rfl, rfl, rfl⟩
theorem ori (f : FI) : Statement (.ori f) := ⟨rfl, by decide, ⟨_, rfl, by decide⟩, rfl, rfl, rfl⟩
theorem xori (f : FI) : Statement (.xori f) := ⟨rfl, by decide, ⟨_, rfl, by decide⟩, rfl, rfl, rfl⟩
theorem shli (f : FI) : Statement (.shli f) := ⟨rfl, by decide, ⟨_, rfl, by decide⟩, rfl, rfl, rfl⟩
theorem shri (f : FI) : Statement (.shri f) := ⟨rfl, by decide, ⟨_, rfl, by decide⟩, rfl, rfl, rfl⟩
theorem srai (f : FI) : Statement (.srai f) := ⟨rfl, by decide, ⟨_, rfl, by decide⟩, rfl, rfl, rfl⟩
theorem movi (f : FI) : Statement (.movi f) := ⟨rfl, by decide, ⟨_, rfl, by decide⟩, rfl, rfl, rfl⟩
theorem movhi (f : FI) : Statement (.movhi f) := ⟨rfl, by decide, ⟨_, rfl, by decide⟩, rfl, rfl, rfl⟩
theorem cmpeq (f : FA) : Statement (.cmpeq f) := ⟨rfl, by decide, ⟨_, rfl, by decide⟩, rfl, rfl, rfl⟩
theorem cmpne (f : FA) : Statement (.cmpne f) := ⟨rfl, by decide, ⟨_, rfl, by decide⟩, rfl, rfl, rfl⟩
theorem cmplt (f : FA) : Statement (.cmplt f) := ⟨rfl, by decide, ⟨_, rfl, by decide⟩, rfl, rfl, rfl⟩
theorem cmple (f : FA) : Statement (.cmple f) := ⟨rfl, by decide, ⟨_, rfl, by decide⟩, rfl, rfl, rfl⟩
theorem cmpltn (f : FA) : Statement (.cmpltn f) := ⟨rfl, by decide, ⟨_, rfl, by decide⟩, rfl, rfl, rfl⟩
theorem cmplen (f : FA) : Statement (.cmplen f) := ⟨rfl, by decide, ⟨_, rfl, by decide⟩, rfl, rfl, rfl⟩
theorem cmpeqi (f : FI) : Statement (.cmpeqi f) := ⟨rfl, by decide, ⟨_, rfl, by decide⟩, rfl, rfl, rfl⟩
theorem cmpnei (f : FI) : Statement (.cmpnei f) := ⟨rfl, by decide, ⟨_, rfl, by decide⟩, rfl, rfl, rfl⟩
theorem cmplti (f : FI) : Statement (.cmplti f) := ⟨rfl, by decide, ⟨_, rfl, by decide⟩, rfl, rfl, rfl⟩
theorem cmplei (f : FI) : Statement (.cmplei f) := ⟨rfl, by decide, ⟨_, rfl, by decide⟩, rfl, rfl, rfl⟩
theorem cmpltni (f : FI) : Statement (.cmpltni f) := ⟨rfl, by decide, ⟨_, rfl, by decide⟩, rfl, rfl, rfl⟩
theorem cmpleni (f : FI) : Statement (.cmpleni f) := ⟨rfl, by decide, ⟨_, rfl, by decide⟩, rfl, rfl, rfl⟩
theorem fadd (f : FA) : Statement (.fadd f) := ⟨rfl, by decide, ⟨_, rfl, by decide⟩, rfl, rfl, rfl⟩
theorem fsub (f : FA) : Statement (.fsub f) := ⟨rfl, by decide, ⟨_, rfl, by decide⟩, rfl, rfl, rfl⟩
theorem fmul (f : FA) : Statement (.fmul f) := ⟨rfl, by decide, ⟨_, rfl, by decide⟩, rfl, rfl, rfl⟩
theorem ffma (f : FA) : Statement (.ffma f) := ⟨rfl, by decide, ⟨_, rfl, by decide⟩, rfl, rfl, rfl⟩
theorem fdiv (f : FA) : Statement (.fdiv f) := ⟨rfl, by decide, ⟨_, rfl, by decide⟩, rfl, rfl, rfl⟩
theorem fsqrt (f : FA) : Statement (.fsqrt f) := ⟨rfl, by decide, ⟨_, rfl, by decide⟩, rfl, rfl, rfl⟩
theorem fmin (f : FA) : Statement (.fmin f) := ⟨rfl, by decide, ⟨_, rfl, by decide⟩, rfl, rfl, rfl⟩
theorem fmax (f : FA) : Statement (.fmax f) := ⟨rfl, by decide, ⟨_, rfl, by decide⟩, rfl, rfl, rfl⟩
theorem fcvti (f : FA) : Statement (.fcvti f) := ⟨rfl, by decide, ⟨_, rfl, by decide⟩, rfl, rfl, rfl⟩
theorem fcvtf (f : FA) : Statement (.fcvtf f) := ⟨rfl, by decide, ⟨_, rfl, by decide⟩, rfl, rfl, rfl⟩
theorem fcmplt (f : FA) : Statement (.fcmplt f) := ⟨rfl, by decide, ⟨_, rfl, by decide⟩, rfl, rfl, rfl⟩
theorem fcmpeq (f : FA) : Statement (.fcmpeq f) := ⟨rfl, by decide, ⟨_, rfl, by decide⟩, rfl, rfl, rfl⟩
theorem br (f : FJ) : Statement (.br f) := ⟨rfl, by decide, ⟨_, rfl, by decide⟩, rfl, rfl, rfl⟩
theorem call (f : FJ) : Statement (.call f) := ⟨rfl, by decide, ⟨_, rfl, by decide⟩, rfl, rfl, rfl⟩
theorem jr (f : FJ) : Statement (.jr f) := ⟨rfl, by decide, ⟨_, rfl, by decide⟩, rfl, rfl, rfl⟩
theorem jlr (f : FJ) : Statement (.jlr f) := ⟨rfl, by decide, ⟨_, rfl, by decide⟩, rfl, rfl, rfl⟩
theorem loop (f : FJ) : Statement (.loop f) := ⟨rfl, by decide, ⟨_, rfl, by decide⟩, rfl, rfl, rfl⟩
theorem breakl (f : FJ) : Statement (.breakl f) := ⟨rfl, by decide, ⟨_, rfl, by decide⟩, rfl, rfl, rfl⟩
theorem pset (f : FA) : Statement (.pset f) := ⟨rfl, by decide, ⟨_, rfl, by decide⟩, rfl, rfl, rfl⟩
theorem pclr (f : FA) : Statement (.pclr f) := ⟨rfl, by decide, ⟨_, rfl, by decide⟩, rfl, rfl, rfl⟩
theorem pand (f : FA) : Statement (.pand f) := ⟨rfl, by decide, ⟨_, rfl, by decide⟩, rfl, rfl, rfl⟩
theorem por (f : FA) : Statement (.por f) := ⟨rfl, by decide, ⟨_, rfl, by decide⟩, rfl, rfl, rfl⟩
theorem pxor (f : FA) : Statement (.pxor f) := ⟨rfl, by decide, ⟨_, rfl, by decide⟩, rfl, rfl, rfl⟩
theorem pnot (f : FA) : Statement (.pnot f) := ⟨rfl, by decide, ⟨_, rfl, by decide⟩, rfl, rfl, rfl⟩
theorem halt (f : FS) : Statement (.halt f) := ⟨rfl, by decide, ⟨_, rfl, by decide⟩, rfl, rfl, rfl⟩
theorem yield (f : FS) : Statement (.yield f) := ⟨rfl, by decide, ⟨_, rfl, by decide⟩, rfl, rfl, rfl⟩
theorem nop (f : FS) : Statement (.nop f) := ⟨rfl, by decide, ⟨_, rfl, by decide⟩, rfl, rfl, rfl⟩
theorem estim (f : FS) : Statement (.estim f) := ⟨rfl, by decide, ⟨_, rfl, by decide⟩, rfl, rfl, rfl⟩
theorem sysr (f : FS) : Statement (.sysr f) := ⟨rfl, by decide, ⟨_, rfl, by decide⟩, rfl, rfl, rfl⟩
theorem sysw (f : FS) : Statement (.sysw f) := ⟨rfl, by decide, ⟨_, rfl, by decide⟩, rfl, rfl, rfl⟩
theorem twait (f : FK) : Statement (.twait f) := ⟨rfl, by decide, ⟨_, rfl, by decide⟩, rfl, rfl, rfl⟩
theorem tskip (f : FK) : Statement (.tskip f) := ⟨rfl, by decide, ⟨_, rfl, by decide⟩, rfl, rfl, rfl⟩
theorem tsig (f : FK) : Statement (.tsig f) := ⟨rfl, by decide, ⟨_, rfl, by decide⟩, rfl, rfl, rfl⟩
theorem tstat (f : FK) : Statement (.tstat f) := ⟨rfl, by decide, ⟨_, rfl, by decide⟩, rfl, rfl, rfl⟩
theorem tdone (f : FK) : Statement (.tdone f) := ⟨rfl, by decide, ⟨_, rfl, by decide⟩, rfl, rfl, rfl⟩
theorem tquota (f : FK) : Statement (.tquota f) := ⟨rfl, by decide, ⟨_, rfl, by decide⟩, rfl, rfl, rfl⟩
theorem treset (f : FK) : Statement (.treset f) := ⟨rfl, by decide, ⟨_, rfl, by decide⟩, rfl, rfl, rfl⟩
theorem tget (f : FK) : Statement (.tget f) := ⟨rfl, by decide, ⟨_, rfl, by decide⟩, rfl, rfl, rfl⟩
theorem tins (f : FK) : Statement (.tins f) := ⟨rfl, by decide, ⟨_, rfl, by decide⟩, rfl, rfl, rfl⟩
theorem kset (f : FI) : Statement (.kset f) := ⟨rfl, by decide, ⟨_, rfl, by decide⟩, rfl, rfl, rfl⟩
theorem kadd (f : FI) : Statement (.kadd f) := ⟨rfl, by decide, ⟨_, rfl, by decide⟩, rfl, rfl, rfl⟩
theorem kmovx (f : FI) : Statement (.kmovx f) := ⟨rfl, by decide, ⟨_, rfl, by decide⟩, rfl, rfl, rfl⟩
theorem fqpush (f : FI) : Statement (.fqpush f) := ⟨rfl, by decide, ⟨_, rfl, by decide⟩, rfl, rfl, rfl⟩
theorem fqpushi (f : FI) : Statement (.fqpushi f) := ⟨rfl, by decide, ⟨_, rfl, by decide⟩, rfl, rfl, rfl⟩
theorem fqclr (f : FI) : Statement (.fqclr f) := ⟨rfl, by decide, ⟨_, rfl, by decide⟩, rfl, rfl, rfl⟩
theorem shapeset (f : FI) : Statement (.shapeset f) := ⟨rfl, by decide, ⟨_, rfl, by decide⟩, rfl, rfl, rfl⟩
theorem shapei (f : FI) : Statement (.shapei f) := ⟨rfl, by decide, ⟨_, rfl, by decide⟩, rfl, rfl, rfl⟩
theorem kvaddr (f : FA) : Statement (.kvaddr f) := ⟨rfl, by decide, ⟨_, rfl, by decide⟩, rfl, rfl, rfl⟩
theorem arnset (f : FA) : Statement (.arnset f) := ⟨rfl, by decide, ⟨_, rfl, by decide⟩, rfl, rfl, rfl⟩
theorem pfxfind (f : FA) : Statement (.pfxfind f) := ⟨rfl, by decide, ⟨_, rfl, by decide⟩, rfl, rfl, rfl⟩
theorem pfxpin (f : FA) : Statement (.pfxpin f) := ⟨rfl, by decide, ⟨_, rfl, by decide⟩, rfl, rfl, rfl⟩
theorem pfxunpin (f : FA) : Statement (.pfxunpin f) := ⟨rfl, by decide, ⟨_, rfl, by decide⟩, rfl, rfl, rfl⟩
theorem pfxins (f : FA) : Statement (.pfxins f) := ⟨rfl, by decide, ⟨_, rfl, by decide⟩, rfl, rfl, rfl⟩
theorem bhash (f : FK) : Statement (.bhash f) := ⟨rfl, by decide, ⟨_, rfl, by decide⟩, rfl, rfl, rfl⟩
theorem claim (f : FC) : Statement (.claim f) := ⟨rfl, by decide, ⟨_, rfl, by decide⟩, rfl, rfl, rfl⟩
theorem fence (f : FF) : Statement (.fence f) := ⟨rfl, by decide, ⟨_, rfl, by decide⟩, rfl, rfl, rfl⟩
theorem barArrive (f : FS) : Statement (.barArrive f) := ⟨rfl, by decide, ⟨_, rfl, by decide⟩, rfl, rfl, rfl⟩
theorem barWait (f : FS) : Statement (.barWait f) := ⟨rfl, by decide, ⟨_, rfl, by decide⟩, rfl, rfl, rfl⟩
theorem barSync (f : FS) : Statement (.barSync f) := ⟨rfl, by decide, ⟨_, rfl, by decide⟩, rfl, rfl, rfl⟩
theorem barLeave (f : FS) : Statement (.barLeave f) := ⟨rfl, by decide, ⟨_, rfl, by decide⟩, rfl, rfl, rfl⟩
theorem amh (f : FX) : Statement (.amh f) := ⟨rfl, by decide, ⟨_, rfl, by decide⟩, rfl, rfl, rfl⟩
theorem lds (f : FM) : Statement (.lds f) := ⟨rfl, by decide, ⟨_, rfl, by decide⟩, rfl, rfl, rfl⟩
theorem sts (f : FM) : Statement (.sts f) := ⟨rfl, by decide, ⟨_, rfl, by decide⟩, rfl, rfl, rfl⟩
theorem ldc (f : FM) : Statement (.ldc f) := ⟨rfl, by decide, ⟨_, rfl, by decide⟩, rfl, rfl, rfl⟩
theorem stc (f : FM) : Statement (.stc f) := ⟨rfl, by decide, ⟨_, rfl, by decide⟩, rfl, rfl, rfl⟩
theorem ldd (f : FM) : Statement (.ldd f) := ⟨rfl, by decide, ⟨_, rfl, by decide⟩, rfl, rfl, rfl⟩
theorem std (f : FM) : Statement (.std f) := ⟨rfl, by decide, ⟨_, rfl, by decide⟩, rfl, rfl, rfl⟩
theorem ldm (f : FM) : Statement (.ldm f) := ⟨rfl, by decide, ⟨_, rfl, by decide⟩, rfl, rfl, rfl⟩
theorem stm (f : FM) : Statement (.stm f) := ⟨rfl, by decide, ⟨_, rfl, by decide⟩, rfl, rfl, rfl⟩
theorem ldx (f : FM) : Statement (.ldx f) := ⟨rfl, by decide, ⟨_, rfl, by decide⟩, rfl, rfl, rfl⟩
theorem stx (f : FM) : Statement (.stx f) := ⟨rfl, by decide, ⟨_, rfl, by decide⟩, rfl, rfl, rfl⟩
theorem ldh (f : FM) : Statement (.ldh f) := ⟨rfl, by decide, ⟨_, rfl, by decide⟩, rfl, rfl, rfl⟩
theorem sth (f : FM) : Statement (.sth f) := ⟨rfl, by decide, ⟨_, rfl, by decide⟩, rfl, rfl, rfl⟩
theorem amc (f : FX) : Statement (.amc f) := ⟨rfl, by decide, ⟨_, rfl, by decide⟩, rfl, rfl, rfl⟩
theorem amd (f : FX) : Statement (.amd f) := ⟨rfl, by decide, ⟨_, rfl, by decide⟩, rfl, rfl, rfl⟩
theorem amm (f : FX) : Statement (.amm f) := ⟨rfl, by decide, ⟨_, rfl, by decide⟩, rfl, rfl, rfl⟩
theorem amx (f : FX) : Statement (.amx f) := ⟨rfl, by decide, ⟨_, rfl, by decide⟩, rfl, rfl, rfl⟩
theorem olend (f : FT) : Statement (.olend f) := ⟨rfl, by decide, ⟨_, rfl, by decide⟩, rfl, rfl, rfl⟩
theorem ogive (f : FT) : Statement (.ogive f) := ⟨rfl, by decide, ⟨_, rfl, by decide⟩, rfl, rfl, rfl⟩
theorem ortrn (f : FT) : Statement (.ortrn f) := ⟨rfl, by decide, ⟨_, rfl, by decide⟩, rfl, rfl, rfl⟩
theorem osplit (f : FT) : Statement (.osplit f) := ⟨rfl, by decide, ⟨_, rfl, by decide⟩, rfl, rfl, rfl⟩
theorem ojoin (f : FT) : Statement (.ojoin f) := ⟨rfl, by decide, ⟨_, rfl, by decide⟩, rfl, rfl, rfl⟩
theorem oshare (f : FT) : Statement (.oshare f) := ⟨rfl, by decide, ⟨_, rfl, by decide⟩, rfl, rfl, rfl⟩
theorem odrop (f : FT) : Statement (.odrop f) := ⟨rfl, by decide, ⟨_, rfl, by decide⟩, rfl, rfl, rfl⟩
theorem oquery (f : FT) : Statement (.oquery f) := ⟨rfl, by decide, ⟨_, rfl, by decide⟩, rfl, rfl, rfl⟩
theorem oreclaim (f : FT) : Statement (.oreclaim f) := ⟨rfl, by decide, ⟨_, rfl, by decide⟩, rfl, rfl, rfl⟩
theorem trap (f : FS) : Statement (.trap f) := ⟨rfl, by decide, ⟨_, rfl, by decide⟩, rfl, rfl, rfl⟩
theorem tret (f : FS) : Statement (.tret f) := ⟨rfl, by decide, ⟨_, rfl, by decide⟩, rfl, rfl, rfl⟩
theorem dbgbrk (f : FS) : Statement (.dbgbrk f) := ⟨rfl, by decide, ⟨_, rfl, by decide⟩, rfl, rfl, rfl⟩
theorem trcmark (f : FS) : Statement (.trcmark f) := ⟨rfl, by decide, ⟨_, rfl, by decide⟩, rfl, rfl, rfl⟩
theorem cntsave (f : FS) : Statement (.cntsave f) := ⟨rfl, by decide, ⟨_, rfl, by decide⟩, rfl, rfl, rfl⟩
theorem cntload (f : FS) : Statement (.cntload f) := ⟨rfl, by decide, ⟨_, rfl, by decide⟩, rfl, rfl, rfl⟩
theorem tlbinv (f : FS) : Statement (.tlbinv f) := ⟨rfl, by decide, ⟨_, rfl, by decide⟩, rfl, rfl, rfl⟩
theorem vadd (f : FL) : Statement (.vadd f) := ⟨rfl, by decide, ⟨_, rfl, by decide⟩, rfl, rfl, rfl⟩
theorem vsub (f : FL) : Statement (.vsub f) := ⟨rfl, by decide, ⟨_, rfl, by decide⟩, rfl, rfl, rfl⟩
theorem vmul (f : FL) : Statement (.vmul f) := ⟨rfl, by decide, ⟨_, rfl, by decide⟩, rfl, rfl, rfl⟩
theorem vfma (f : FL) : Statement (.vfma f) := ⟨rfl, by decide, ⟨_, rfl, by decide⟩, rfl, rfl, rfl⟩
theorem vfms (f : FL) : Statement (.vfms f) := ⟨rfl, by decide, ⟨_, rfl, by decide⟩, rfl, rfl, rfl⟩
theorem vmin (f : FL) : Statement (.vmin f) := ⟨rfl, by decide, ⟨_, rfl, by decide⟩, rfl, rfl, rfl⟩
theorem vmax (f : FL) : Statement (.vmax f) := ⟨rfl, by decide, ⟨_, rfl, by decide⟩, rfl, rfl, rfl⟩
theorem vabs (f : FL) : Statement (.vabs f) := ⟨rfl, by decide, ⟨_, rfl, by decide⟩, rfl, rfl, rfl⟩
theorem vneg (f : FL) : Statement (.vneg f) := ⟨rfl, by decide, ⟨_, rfl, by decide⟩, rfl, rfl, rfl⟩
theorem vscale (f : FL) : Statement (.vscale f) := ⟨rfl, by decide, ⟨_, rfl, by decide⟩, rfl, rfl, rfl⟩
theorem vaddx (f : FL) : Statement (.vaddx f) := ⟨rfl, by decide, ⟨_, rfl, by decide⟩, rfl, rfl, rfl⟩
theorem vand (f : FL) : Statement (.vand f) := ⟨rfl, by decide, ⟨_, rfl, by decide⟩, rfl, rfl, rfl⟩
theorem vor (f : FL) : Statement (.vor f) := ⟨rfl, by decide, ⟨_, rfl, by decide⟩, rfl, rfl, rfl⟩
theorem vxor (f : FL) : Statement (.vxor f) := ⟨rfl, by decide, ⟨_, rfl, by decide⟩, rfl, rfl, rfl⟩
theorem vnot (f : FL) : Statement (.vnot f) := ⟨rfl, by decide, ⟨_, rfl, by decide⟩, rfl, rfl, rfl⟩
theorem vshl (f : FL) : Statement (.vshl f) := ⟨rfl, by decide, ⟨_, rfl, by decide⟩, rfl, rfl, rfl⟩
theorem vshr (f : FL) : Statement (.vshr f) := ⟨rfl, by decide, ⟨_, rfl, by decide⟩, rfl, rfl, rfl⟩
theorem vsra (f : FL) : Statement (.vsra f) := ⟨rfl, by decide, ⟨_, rfl, by decide⟩, rfl, rfl, rfl⟩
theorem vcmpeq (f : FL) : Statement (.vcmpeq f) := ⟨rfl, by decide, ⟨_, rfl, by decide⟩, rfl, rfl, rfl⟩
theorem vcmplt (f : FL) : Statement (.vcmplt f) := ⟨rfl, by decide, ⟨_, rfl, by decide⟩, rfl, rfl, rfl⟩
theorem vcmple (f : FL) : Statement (.vcmple f) := ⟨rfl, by decide, ⟨_, rfl, by decide⟩, rfl, rfl, rfl⟩
theorem vsel (f : FL) : Statement (.vsel f) := ⟨rfl, by decide, ⟨_, rfl, by decide⟩, rfl, rfl, rfl⟩
theorem vclamp (f : FL) : Statement (.vclamp f) := ⟨rfl, by decide, ⟨_, rfl, by decide⟩, rfl, rfl, rfl⟩
theorem vcvt (f : FL) : Statement (.vcvt f) := ⟨rfl, by decide, ⟨_, rfl, by decide⟩, rfl, rfl, rfl⟩
theorem vquant (f : FL) : Statement (.vquant f) := ⟨rfl, by decide, ⟨_, rfl, by decide⟩, rfl, rfl, rfl⟩
theorem vdeq (f : FL) : Statement (.vdeq f) := ⟨rfl, by decide, ⟨_, rfl, by decide⟩, rfl, rfl, rfl⟩
theorem vrcp (f : FL) : Statement (.vrcp f) := ⟨rfl, by decide, ⟨_, rfl, by decide⟩, rfl, rfl, rfl⟩
theorem vrsqrt (f : FL) : Statement (.vrsqrt f) := ⟨rfl, by decide, ⟨_, rfl, by decide⟩, rfl, rfl, rfl⟩
theorem vsqrt (f : FL) : Statement (.vsqrt f) := ⟨rfl, by decide, ⟨_, rfl, by decide⟩, rfl, rfl, rfl⟩
theorem vexp2 (f : FL) : Statement (.vexp2 f) := ⟨rfl, by decide, ⟨_, rfl, by decide⟩, rfl, rfl, rfl⟩
theorem vexp (f : FL) : Statement (.vexp f) := ⟨rfl, by decide, ⟨_, rfl, by decide⟩, rfl, rfl, rfl⟩
theorem vlog2 (f : FL) : Statement (.vlog2 f) := ⟨rfl, by decide, ⟨_, rfl, by decide⟩, rfl, rfl, rfl⟩
theorem vlog (f : FL) : Statement (.vlog f) := ⟨rfl, by decide, ⟨_, rfl, by decide⟩, rfl, rfl, rfl⟩
theorem vsin (f : FL) : Statement (.vsin f) := ⟨rfl, by decide, ⟨_, rfl, by decide⟩, rfl, rfl, rfl⟩
theorem vcos (f : FL) : Statement (.vcos f) := ⟨rfl, by decide, ⟨_, rfl, by decide⟩, rfl, rfl, rfl⟩
theorem vtanh (f : FL) : Statement (.vtanh f) := ⟨rfl, by decide, ⟨_, rfl, by decide⟩, rfl, rfl, rfl⟩
theorem vsigm (f : FL) : Statement (.vsigm f) := ⟨rfl, by decide, ⟨_, rfl, by decide⟩, rfl, rfl, rfl⟩
theorem verf (f : FL) : Statement (.verf f) := ⟨rfl, by decide, ⟨_, rfl, by decide⟩, rfl, rfl, rfl⟩
theorem vmov (f : FL) : Statement (.vmov f) := ⟨rfl, by decide, ⟨_, rfl, by decide⟩, rfl, rfl, rfl⟩
theorem vfill (f : FL) : Statement (.vfill f) := ⟨rfl, by decide, ⟨_, rfl, by decide⟩, rfl, rfl, rfl⟩
theorem viota (f : FL) : Statement (.viota f) := ⟨rfl, by decide, ⟨_, rfl, by decide⟩, rfl, rfl, rfl⟩
theorem vtrans (f : FL) : Statement (.vtrans f) := ⟨rfl, by decide, ⟨_, rfl, by decide⟩, rfl, rfl, rfl⟩
theorem vshuf (f : FL) : Statement (.vshuf f) := ⟨rfl, by decide, ⟨_, rfl, by decide⟩, rfl, rfl, rfl⟩
theorem vbcrow (f : FL) : Statement (.vbcrow f) := ⟨rfl, by decide, ⟨_, rfl, by decide⟩, rfl, rfl, rfl⟩
theorem vbccol (f : FL) : Statement (.vbccol f) := ⟨rfl, by decide, ⟨_, rfl, by decide⟩, rfl, rfl, rfl⟩
theorem mma (f : FL) : Statement (.mma f) := ⟨rfl, by decide, ⟨_, rfl, by decide⟩, rfl, rfl, rfl⟩
theorem mmach (f : FL) : Statement (.mmach f) := ⟨rfl, by decide, ⟨_, rfl, by decide⟩, rfl, rfl, rfl⟩
theorem mmai (f : FL) : Statement (.mmai f) := ⟨rfl, by decide, ⟨_, rfl, by decide⟩, rfl, rfl, rfl⟩
theorem mdrain (f : FL) : Statement (.mdrain f) := ⟨rfl, by decide, ⟨_, rfl, by decide⟩, rfl, rfl, rfl⟩
theorem mzero (f : FL) : Statement (.mzero f) := ⟨rfl, by decide, ⟨_, rfl, by decide⟩, rfl, rfl, rfl⟩
theorem mldacc (f : FL) : Statement (.mldacc f) := ⟨rfl, by decide, ⟨_, rfl, by decide⟩, rfl, rfl, rfl⟩
theorem cbload (f : FL) : Statement (.cbload f) := ⟨rfl, by decide, ⟨_, rfl, by decide⟩, rfl, rfl, rfl⟩
theorem tload (f : FL) : Statement (.tload f) := ⟨rfl, by decide, ⟨_, rfl, by decide⟩, rfl, rfl, rfl⟩
theorem tstore (f : FL) : Statement (.tstore f) := ⟨rfl, by decide, ⟨_, rfl, by decide⟩, rfl, rfl, rfl⟩
theorem bcopy (f : FL) : Statement (.bcopy f) := ⟨rfl, by decide, ⟨_, rfl, by decide⟩, rfl, rfl, rfl⟩
theorem cxfer (f : FL) : Statement (.cxfer f) := ⟨rfl, by decide, ⟨_, rfl, by decide⟩, rfl, rfl, rfl⟩
theorem wmwait (f : FL) : Statement (.wmwait f) := ⟨rfl, by decide, ⟨_, rfl, by decide⟩, rfl, rfl, rfl⟩
theorem sinit (f : FL) : Statement (.sinit f) := ⟨rfl, by decide, ⟨_, rfl, by decide⟩, rfl, rfl, rfl⟩
theorem qadd (f : FL) : Statement (.qadd f) := ⟨rfl, by decide, ⟨_, rfl, by decide⟩, rfl, rfl, rfl⟩
theorem qmerge (f : FL) : Statement (.qmerge f) := ⟨rfl, by decide, ⟨_, rfl, by decide⟩, rfl, rfl, rfl⟩
theorem qquant (f : FL) : Statement (.qquant f) := ⟨rfl, by decide, ⟨_, rfl, by decide⟩, rfl, rfl, rfl⟩
theorem qrank (f : FL) : Statement (.qrank f) := ⟨rfl, by decide, ⟨_, rfl, by decide⟩, rfl, rfl, rfl⟩
theorem hadd (f : FL) : Statement (.hadd f) := ⟨rfl, by decide, ⟨_, rfl, by decide⟩, rfl, rfl, rfl⟩
theorem hmerge (f : FL) : Statement (.hmerge f) := ⟨rfl, by decide, ⟨_, rfl, by decide⟩, rfl, rfl, rfl⟩
theorem htop (f : FL) : Statement (.htop f) := ⟨rfl, by decide, ⟨_, rfl, by decide⟩, rfl, rfl, rfl⟩
theorem dadd (f : FL) : Statement (.dadd f) := ⟨rfl, by decide, ⟨_, rfl, by decide⟩, rfl, rfl, rfl⟩
theorem dmerge (f : FL) : Statement (.dmerge f) := ⟨rfl, by decide, ⟨_, rfl, by decide⟩, rfl, rfl, rfl⟩
theorem dcest (f : FL) : Statement (.dcest f) := ⟨rfl, by decide, ⟨_, rfl, by decide⟩, rfl, rfl, rfl⟩
theorem msum (f : FL) : Statement (.msum f) := ⟨rfl, by decide, ⟨_, rfl, by decide⟩, rfl, rfl, rfl⟩
theorem msmerge (f : FL) : Statement (.msmerge f) := ⟨rfl, by decide, ⟨_, rfl, by decide⟩, rfl, rfl, rfl⟩
theorem msrow (f : FL) : Statement (.msrow f) := ⟨rfl, by decide, ⟨_, rfl, by decide⟩, rfl, rfl, rfl⟩
theorem lserow (f : FL) : Statement (.lserow f) := ⟨rfl, by decide, ⟨_, rfl, by decide⟩, rfl, rfl, rfl⟩
theorem lsemerge (f : FL) : Statement (.lsemerge f) := ⟨rfl, by decide, ⟨_, rfl, by decide⟩, rfl, rfl, rfl⟩
theorem sread (f : FL) : Statement (.sread f) := ⟨rfl, by decide, ⟨_, rfl, by decide⟩, rfl, rfl, rfl⟩
theorem coll (f : FL) : Statement (.coll f) := ⟨rfl, by decide, ⟨_, rfl, by decide⟩, rfl, rfl, rfl⟩
theorem collstop (f : FL) : Statement (.collstop f) := ⟨rfl, by decide, ⟨_, rfl, by decide⟩, rfl, rfl, rfl⟩
theorem railsGood : Statement .railsGood := rfl
theorem railsLost : Statement .railsLost := rfl
theorem firmwareVerify : Statement .firmwareVerify := rfl
theorem selfCalibration : Statement .selfCalibration := rfl
theorem memoryInitialisation : Statement .memoryInitialisation := rfl
theorem applyConfiguration : Statement .applyConfiguration := rfl
theorem linkTraining : Statement .linkTraining := rfl
theorem securityAlarm : Statement .securityAlarm := rfl
theorem supplySag : Statement .supplySag := rfl
theorem supplyRecover : Statement .supplyRecover := rfl
theorem sagStretchEnd : Statement .sagStretchEnd := rfl
theorem registerWrite : Statement .registerWrite := rfl
theorem mailboxAnswer : Statement .mailboxAnswer := rfl
theorem unknownCommand : Statement .unknownCommand := rfl
theorem attest : Statement .attest := rfl
theorem telem : Statement .telem := rfl
theorem qreg : Statement .qreg := rfl
theorem qunreg : Statement .qunreg := rfl
theorem qresume : Statement .qresume := rfl
theorem qskip : Statement .qskip := rfl
theorem qsetprio : Statement .qsetprio := rfl
theorem fresume : Statement .fresume := rfl
theorem lkill : Statement .lkill := rfl
theorem pgdone : Statement .pgdone := rfl
theorem trcset : Statement .trcset := rfl
theorem brkset : Statement .brkset := rfl
theorem asreg : Statement .asreg := rfl
theorem asunreg : Statement .asunreg := rfl
theorem asinv : Statement .asinv := rfl
theorem rmten : Statement .rmten := rfl
theorem fgrant : Statement .fgrant := rfl
theorem freclaim : Statement .freclaim := rfl
theorem hwin : Statement .hwin := rfl
theorem queueExamine : Statement .queueExamine := rfl
theorem headerPoll : Statement .headerPoll := rfl
theorem stalledSlot : Statement .stalledSlot := rfl
theorem packetNop : Statement .packetNop := rfl
theorem packetLaunch : Statement .packetLaunch := rfl
theorem packetCopy : Statement .packetCopy := rfl
theorem copyComplete : Statement .copyComplete := rfl
theorem packetColl : Statement .packetColl := rfl
theorem packetSignal : Statement .packetSignal := rfl
theorem signalComplete : Statement .signalComplete := rfl
theorem selection : Statement .selection := rfl
theorem placement : Statement .placement := rfl
theorem newcomerReevaluate : Statement .newcomerReevaluate := rfl
theorem checkpoint : Statement .checkpoint := rfl
theorem checkpointComplete : Statement .checkpointComplete := rfl
theorem restore : Statement .restore := rfl
theorem kill : Statement .kill := rfl
theorem rollbackBoundary : Statement .rollbackBoundary := rfl
theorem rollback : Statement .rollback := rfl
theorem retire : Statement .retire := rfl
theorem rettoExpiry : Statement .rettoExpiry := rfl
theorem queueAppend : Statement .queueAppend := rfl
theorem engineEntryComplete : Statement .engineEntryComplete := rfl
theorem waitTimeout : Statement .waitTimeout := rfl
theorem loadDataArrives : Statement .loadDataArrives := rfl
theorem remoteErrorReturn : Statement .remoteErrorReturn := rfl
theorem faultRecordWrite : Statement .faultRecordWrite := rfl
theorem pageServiceTimeout : Statement .pageServiceTimeout := rfl
theorem rearguardCheck : Statement .rearguardCheck := rfl
theorem uncorrectableError : Statement .uncorrectableError := rfl
theorem coreLost : Statement .coreLost := rfl
theorem barrierRelease : Statement .barrierRelease := rfl
theorem chunkArrival : Statement .chunkArrival := rfl
theorem transferAcknowledged : Statement .transferAcknowledged := rfl
theorem chunkResend : Statement .chunkResend := rfl
theorem flitReceive : Statement .flitReceive := rfl
theorem permitAudit : Statement .permitAudit := rfl
theorem laneFailure : Statement .laneFailure := rfl
theorem peerLost : Statement .peerLost := rfl
theorem hostLinkDown : Statement .hostLinkDown := rfl
theorem hostPostedWrite : Statement .hostPostedWrite := rfl
theorem hostRead : Statement .hostRead := rfl
theorem hostAtomicop : Statement .hostAtomicop := rfl
theorem remoteAccessRequest : Statement .remoteAccessRequest := rfl
theorem correctedError : Statement .correctedError := rfl
theorem bucketLeak : Statement .bucketLeak := rfl
theorem refreshDue : Statement .refreshDue := rfl
theorem clusterPowerGate : Statement .clusterPowerGate := rfl
theorem traceDrain : Statement .traceDrain := rfl
theorem hostLinkRetrain : Statement .hostLinkRetrain := rfl
theorem bladeInserted : Statement .bladeInserted := rfl
theorem portRetrainComplete : Statement .portRetrainComplete := rfl

end Sys2Proof.Laws.Encoding
end

