-- ==== Sys2Proof/Laws/Tile.lean ====
section
/-! SUPPORT. What the shared operations on tiles do (R102 to R110): the start of an instruction on one source or one
destination, the finish of a write, and the elements of a tile's data (R160). -/

namespace Sys2Proof.Machine

/-! ### The accessors after the tile operations -/

@[simp] theorem State.tile_setSt (s : State) (t : Stream) (key : Nat) : (s.setSt t).tile key = s.tile key := rfl
@[simp] theorem State.tile_setStream (s : State) (k : Nat) (t : Stream) (key : Nat) : (s.setStream k t).tile key = s.tile key := rfl
@[simp] theorem State.tile_xw (s : State) (i : BitVec 6) (v : Word) (key : Nat) : (s.xw i v).tile key = s.tile key := rfl
@[simp] theorem State.tile_pw (s : State) (i : Nat) (b : Bool) (key : Nat) : (s.pw i b).tile key = s.tile key := rfl
@[simp] theorem State.tile_advance (s : State) (n : Nat) (key : Nat) : (s.advance n).tile key = s.tile key := rfl
@[simp] theorem State.aclk_setSt (s : State) (t : Stream) (k : Nat) : (s.setSt t).aclk k = s.aclk k := rfl

@[simp] theorem State.tile_setTile_self (s : State) (key : Nat) (t : Tile) :
    (s.setTile key t).tile key = t.restamp (s.tile key) (s.aclkAt key) := by rw [State.tile_setTile, if_pos rfl]

theorem State.tile_setTile_ne (s : State) {key j : Nat} (h : j ≠ key) (t : Tile) : (s.setTile key t).tile j = s.tile j := by
  rw [State.tile_setTile, if_neg h]

/-! ### Finishing a write (R107) -/

/-- The tile that a finished write leaves: the next version, with its quota, its skip flag and its writer. -/
theorem State.tile_finishWrite (s : State) (key j : Nat) (bytes : List (Nat × Byte)) (dq : BitVec 4) (skip : Bool)
    (who : Option (BitVec 3)) :
    (s.finishWrite key bytes dq skip who).tile j = if j = key then
      ({ s.tile key with count := (s.tile key).count + 1, quota := dq, skip := skip, writer := who, wip := false } : Tile).restamp
        (s.tile key) (s.aclkAt key) else s.tile j := by
  unfold State.finishWrite
  cases skip
  · exact State.tile_setTile _ key j _
  · exact State.tile_setTile _ key j _

/-- The data that a finished write leaves: a real version's bytes, and a skipped version changes none. -/
theorem State.mem_finishWrite (s : State) (key : Nat) (bytes : List (Nat × Byte)) (dq : BitVec 4) (skip : Bool)
    (who : Option (BitVec 3)) :
    (s.finishWrite key bytes dq skip who).mem = if skip then s.mem else s.mem.patch (tilePlace key) bytes := by
  unfold State.finishWrite
  cases skip <;> rfl

/-- What a finished write leaves alone. -/
theorem State.finishWrite_frame (s : State) (key : Nat) (bytes : List (Nat × Byte)) (dq : BitVec 4) (skip : Bool)
    (who : Option (BitVec 3)) :
    s.finishWrite key bytes dq skip who =
      { s with tiles := (s.finishWrite key bytes dq skip who).tiles, mem := (s.finishWrite key bytes dq skip who).mem,
               poison := (s.finishWrite key bytes dq skip who).poison } := by
  unfold State.finishWrite
  cases skip <;> rfl

theorem State.stream_finishWrite (s : State) (key j : Nat) (bytes : List (Nat × Byte)) (dq : BitVec 4) (skip : Bool)
    (who : Option (BitVec 3)) : (s.finishWrite key bytes dq skip who).stream j = s.stream j := by
  rw [State.finishWrite_frame]; rfl

/-! ### Starting on one operand (R106, R107) -/

/-- What an instruction's one source leaves: its tile admitted, and OVERREAD set where the quota was 0. -/
def State.admitted (s : State) (o : Operand) : State :=
  let s1 := s.setTile o.key (admitRead (s.tile o.key) o).1
  if (admitRead (s.tile o.key) o).2 then s1.setSt { s1.st with ssr := s1.st.ssr ||| 2 } else s1

theorem State.startTiles_source {s : State} {me : Nat} {o : Operand} (h : s.readTest o me = true) :
    s.startTiles me false [o] [] = .starts (s.admitted o) := by
  simp [State.startTiles, h, State.admitAll, State.reserve, State.admitted]

theorem State.startTiles_source_waits {s : State} {me : Nat} {o : Operand} (st : Bool) (ds : List Operand)
    (h : s.readTest o me = false) : s.startTiles me st [o] ds = .waits s o true := by
  simp [State.startTiles, h]

theorem State.startTiles_dest {s : State} {me : Nat} {o : Operand} (h : writeTest (s.tile o.key) o = true)
    (hi : (s.tile o.key).inflight = 0) (hp : s.readFirst o.key me = false) :
    s.startTiles me false [] [o] = .starts (s.setTile o.key { s.tile o.key with wip := true, pending := none }) := by
  simp [State.startTiles, h, hp, hi, State.admitAll, State.reserve]

theorem State.startTiles_dest_waits {s : State} {me : Nat} {o : Operand} (st : Bool)
    (h : writeTest (s.tile o.key) o = false) : s.startTiles me st [] [o] = .waits s o false := by
  simp [State.startTiles, h, State.admitAll]

/-- A write that passes its test but meets a read, in flight or first in this cycle, becomes pending and waits. -/
theorem State.startTiles_dest_pends {s : State} {me : Nat} {o : Operand} (st : Bool) (h : writeTest (s.tile o.key) o = true)
    (hp : (s.tile o.key).inflight ≠ 0 ∨ s.readFirst o.key me = true) :
    s.startTiles me st [] [o] = .waits (s.setPending me [o]) o false := by
  rcases hp with hp | hp <;> simp [State.startTiles, h, hp, State.admitAll]

/-- An admission changes the quota and the reads in flight of its tile, and nothing else of it. -/
theorem admitRead_frame (t : Tile) (o : Operand) :
    (admitRead t o).1 = { t with quota := (admitRead t o).1.quota, inflight := t.inflight + if o.mark then 1 else 0 } := by
  unfold admitRead
  dsimp only
  split <;> split <;> simp_all

theorem admitRead_quota (t : Tile) (o : Operand) :
    (admitRead t o).1.quota = if o.retires = true ∧ t.count = o.exp ∧ t.quota ≠ 0 ∧ t.quota ≠ 15 then t.quota - 1 else t.quota := by
  unfold admitRead
  have : o.retires = true → o.mode ≠ 0 := by
    intro h e; simp [Operand.retires, e] at h
  cases ho : o.retires <;> cases hm : o.mark <;> by_cases h0 : t.count = o.exp <;> by_cases h1 : t.quota = 0 <;> by_cases h2 : t.quota = 15 <;>
    simp_all

theorem admitRead_overread (t : Tile) (o : Operand) :
    (admitRead t o).2 = true ↔ o.retires = true ∧ t.count = o.exp ∧ t.quota = 0 := by
  unfold admitRead
  have : o.retires = true → o.mode ≠ 0 := by
    intro h e; simp [Operand.retires, e] at h
  cases ho : o.retires <;> by_cases h0 : t.count = o.exp <;> by_cases h1 : t.quota = 0 <;> simp_all

theorem State.tile_admitted (s : State) (o : Operand) (j : Nat) :
    (s.admitted o).tile j =
      if j = o.key then ((admitRead (s.tile o.key) o).1).restamp (s.tile o.key) (s.aclkAt o.key) else s.tile j := by
  unfold State.admitted
  dsimp only
  split
  · rw [State.tile_setSt, State.tile_setTile]
  · rw [State.tile_setTile]

theorem State.stream_admitted (s : State) (o : Operand) (j : Nat) :
    (s.admitted o).stream j =
      if j = s.cur ∧ (admitRead (s.tile o.key) o).2 = true then { s.st with ssr := s.st.ssr ||| 2 } else s.stream j := by
  unfold State.admitted
  dsimp only
  split
  · rename_i h
    rw [State.stream_setSt]
    by_cases hj : j = s.cur
    · rw [if_pos (by simpa using hj), if_pos ⟨hj, h⟩]; rfl
    · rw [if_neg (by simpa using hj), if_neg (fun e => hj e.1)]; rfl
  · rename_i h
    rw [if_neg (fun e => h e.2)]; rfl

theorem State.admitted_frame (s : State) (o : Operand) :
    s.admitted o = { s with streams := (s.admitted o).streams, tiles := (s.admitted o).tiles } := by
  unfold State.admitted
  dsimp only
  split <;> rfl

@[simp] theorem State.admitted_mem (s : State) (o : Operand) : (s.admitted o).mem = s.mem := by rw [State.admitted_frame]
@[simp] theorem State.admitted_cur (s : State) (o : Operand) : (s.admitted o).cur = s.cur := by rw [State.admitted_frame]

/-! ### The start of a sequencer instruction -/

theorem tileGuard_of {i : Instr} {top : BitVec 16} {s : State} (hw : topTile top < s.launch.m.twin)
    (hg : s.st.guardTrue i.guard = true) (body : State → Result) : tileGuard i top s body = body s := by
  unfold tileGuard
  rw [if_neg (by omega), issue_of_guard hg]

theorem tileStart_starts {i : Instr} {top : BitVec 16} {srcs dsts mark : Bool} {s t : State}
    (h : s.startTiles (s.cur * 8) (strict s.st.ssr) (if srcs then [s.operand top mark] else [])
      (if dsts then [s.operand top mark] else []) = .starts t) (body : Operand → State → Result) :
    tileStart i top srcs dsts mark s body = body (s.operand top mark) (t.setSt { t.st with wait := none }) := by
  unfold tileStart
  simp only [h]

end Sys2Proof.Machine
end

