-- ==== Sys2Proof/Tests/Slice0.lean ====
section
/-! SUPPORT. Tests: words written out from the spec's encodings decode to their instructions, ill-formed terms are refused by
each check, single steps on small states give what the spec's rules say, and every statement with hypotheses has a witness
that meets them. -/

namespace Sys2Proof.Tests
open Sys2Proof Sys2Proof.Machine
set_option Elab.async false

/-! ### Decoding: one word for every instruction, from the layouts of R70 and R73 and the lists of R77 and R78 -/

/-- The words decode to the instruction. -/
def reads (w0 w1 : Word) (i : Instr) : Bool := match decode w0 w1 with | .ok j => j == i | .error _ => false
/-- The words are refused with the subcode. -/
def refuses (w0 w1 : Word) (sub : Nat) : Bool := match decode w0 w1 with | .ok _ => false | .error e => e == sub

theorem test_words_alu : [
  reads 0x000000403F881300 0x0 (.add ⟨3, 1, 0x22, 0x3f, 1, 0⟩),
  reads 0x000000407F881300 0x0 (.sub ⟨3, 1, 0x22, 0x3f, 1, 0⟩),
  reads 0x00000040BF881300 0x0 (.mul ⟨3, 1, 0x22, 0x3f, 1, 0⟩),
  reads 0x00000040FF881300 0x0 (.mulh ⟨3, 1, 0x22, 0x3f, 1, 0⟩),
  reads 0x000000413F881300 0x0 (.mulhn ⟨3, 1, 0x22, 0x3f, 1, 0⟩),
  reads 0x000000417F881300 0x0 (.div ⟨3, 1, 0x22, 0x3f, 1, 0⟩),
  reads 0x00000041BF881300 0x0 (.divn ⟨3, 1, 0x22, 0x3f, 1, 0⟩),
  reads 0x00000041FF881300 0x0 (.rem ⟨3, 1, 0x22, 0x3f, 1, 0⟩),
  reads 0x000000423F881300 0x0 (.remn ⟨3, 1, 0x22, 0x3f, 1, 0⟩),
  reads 0x000000427F881300 0x0 (.andR ⟨3, 1, 0x22, 0x3f, 1, 0⟩),
  reads 0x00000042BF881300 0x0 (.orR ⟨3, 1, 0x22, 0x3f, 1, 0⟩),
  reads 0x00000042FF881300 0x0 (.xor ⟨3, 1, 0x22, 0x3f, 1, 0⟩),
  reads 0x000000433F881300 0x0 (.andn ⟨3, 1, 0x22, 0x3f, 1, 0⟩),
  reads 0x000000437F881300 0x0 (.shl ⟨3, 1, 0x22, 0x3f, 1, 0⟩),
  reads 0x00000043BF881300 0x0 (.shr ⟨3, 1, 0x22, 0x3f, 1, 0⟩),
  reads 0x00000043FF881300 0x0 (.sra ⟨3, 1, 0x22, 0x3f, 1, 0⟩),
  reads 0x000000443F881300 0x0 (.rol ⟨3, 1, 0x22, 0x3f, 1, 0⟩),
  reads 0x000000447F881300 0x0 (.min ⟨3, 1, 0x22, 0x3f, 1, 0⟩),
  reads 0x00000044BF881300 0x0 (.max ⟨3, 1, 0x22, 0x3f, 1, 0⟩),
  reads 0x00000044FF881300 0x0 (.minn ⟨3, 1, 0x22, 0x3f, 1, 0⟩),
  reads 0x000000453F881300 0x0 (.maxn ⟨3, 1, 0x22, 0x3f, 1, 0⟩),
  reads 0x000000C540A95B00 0x0 (.clz ⟨0xb, 0x15, 0x2a, 0, 3, 0⟩),
  reads 0x000000C580A95B00 0x0 (.ctz ⟨0xb, 0x15, 0x2a, 0, 3, 0⟩),
  reads 0x000000C5C0A95B00 0x0 (.popc ⟨0xb, 0x15, 0x2a, 0, 3, 0⟩),
  reads 0x000000C600A95B00 0x0 (.brev ⟨0xb, 0x15, 0x2a, 0, 3, 0⟩),
  reads 0x000000C640A95B00 0x0 (.sext ⟨0xb, 0x15, 0x2a, 0, 3, 0⟩),
  reads 0x000000C680A95B00 0x0 (.zext ⟨0xb, 0x15, 0x2a, 0, 3, 0⟩),
  reads 0x00000586C3081000 0x0 (.sel ⟨0, 1, 2, 3, 2, 5⟩),
  reads 0x000000C700A95B00 0x0 (.abs ⟨0xb, 0x15, 0x2a, 0, 3, 0⟩),
  reads 0x000000C740A95B00 0x0 (.neg ⟨0xb, 0x15, 0x2a, 0, 3, 0⟩)].all id = true := by decide

theorem test_words_alui : [
  reads 0x8000000100C42101 0x0 (.addi ⟨1, 2, 0x31, 0x80000001⟩),
  reads 0x8000000101C42101 0x0 (.muli ⟨1, 2, 0x31, 0x80000001⟩),
  reads 0x8000000102C42101 0x0 (.andi ⟨1, 2, 0x31, 0x80000001⟩),
  reads 0x8000000103C42101 0x0 (.ori ⟨1, 2, 0x31, 0x80000001⟩),
  reads 0x8000000104C42101 0x0 (.xori ⟨1, 2, 0x31, 0x80000001⟩),
  reads 0x0000003F05C42101 0x0 (.shli ⟨1, 2, 0x31, 0x3f⟩),
  reads 0x0000003F06C42101 0x0 (.shri ⟨1, 2, 0x31, 0x3f⟩),
  reads 0x0000003F07C42101 0x0 (.srai ⟨1, 2, 0x31, 0x3f⟩),
  reads 0xDEADBEEF0803F001 0x0 (.movi ⟨0, 0x3f, 0, 0xdeadbeef⟩),
  reads 0xDEADBEEF0903F001 0x0 (.movhi ⟨0, 0x3f, 0, 0xdeadbeef⟩)].all id = true := by decide

theorem test_words_cmp : [
  reads 0x000000402E447002 0x0 (.cmpeq ⟨0, 7, 0x11, 0x2e, 1, 0⟩),
  reads 0x000000406E447002 0x0 (.cmpne ⟨0, 7, 0x11, 0x2e, 1, 0⟩),
  reads 0x00000040AE447002 0x0 (.cmplt ⟨0, 7, 0x11, 0x2e, 1, 0⟩),
  reads 0x00000040EE447002 0x0 (.cmple ⟨0, 7, 0x11, 0x2e, 1, 0⟩),
  reads 0x000000412E447002 0x0 (.cmpltn ⟨0, 7, 0x11, 0x2e, 1, 0⟩),
  reads 0x000000416E447002 0x0 (.cmplen ⟨0, 7, 0x11, 0x2e, 1, 0⟩)].all id = true := by decide

theorem test_words_cmpi : [
  reads 0x0000004000341003 0x0 (.cmpeqi ⟨0, 1, 0xd, 0x40⟩),
  reads 0x0000004001341003 0x0 (.cmpnei ⟨0, 1, 0xd, 0x40⟩),
  reads 0x0000004002341003 0x0 (.cmplti ⟨0, 1, 0xd, 0x40⟩),
  reads 0x0000004003341003 0x0 (.cmplei ⟨0, 1, 0xd, 0x40⟩),
  reads 0x0000004004341003 0x0 (.cmpltni ⟨0, 1, 0xd, 0x40⟩),
  reads 0x0000004005341003 0x0 (.cmpleni ⟨0, 1, 0xd, 0x40⟩)].all id = true := by decide

theorem test_words_fps : [
  reads 0x0000000003081004 0x0 (.fadd ⟨0, 1, 2, 3, 0, 0⟩),
  reads 0x0000000043081004 0x0 (.fsub ⟨0, 1, 2, 3, 0, 0⟩),
  reads 0x0000000083081004 0x0 (.fmul ⟨0, 1, 2, 3, 0, 0⟩),
  reads 0x00000400C3081004 0x0 (.ffma ⟨0, 1, 2, 3, 0, 4⟩),
  reads 0x0000000103081004 0x0 (.fdiv ⟨0, 1, 2, 3, 0, 0⟩),
  reads 0x0000000140081004 0x0 (.fsqrt ⟨0, 1, 2, 0, 0, 0⟩),
  reads 0x0000000183081004 0x0 (.fmin ⟨0, 1, 2, 3, 0, 0⟩),
  reads 0x00000001C3081004 0x0 (.fmax ⟨0, 1, 2, 3, 0, 0⟩),
  reads 0x0000000200081004 0x0 (.fcvti ⟨0, 1, 2, 0, 0, 0⟩),
  reads 0x0000000240081004 0x0 (.fcvtf ⟨0, 1, 2, 0, 0, 0⟩),
  reads 0x0000000283081004 0x0 (.fcmplt ⟨0, 1, 2, 3, 0, 0⟩),
  reads 0x00000002C3081004 0x0 (.fcmpeq ⟨0, 1, 2, 3, 0, 0⟩)].all id = true := by decide

theorem test_words_br : [
  reads 0xFFFFFFFE00000040 0x0 (.br ⟨0, 0, 0, 0, 0xfffffffe⟩),
  reads 0x000000051003F040 0x0 (.call ⟨0, 0x3f, 0, 0, 5⟩),
  reads 0x000000002003F040 0x0 (.jr ⟨0, 0x3f, 0, 0, 0⟩),
  reads 0x0000000030FFE040 0x0 (.jlr ⟨0, 0x3e, 0x3f, 0, 0⟩),
  reads 0xFFFFFFFE00006041 0x0 (.loop ⟨0, 6, 0, 0, 0xfffffffe⟩),
  reads 0x0000000417000041 0x0 (.breakl ⟨0, 0, 0, 7, 4⟩)].all id = true := by decide

theorem test_words_pred : [
  reads 0x0000000000001042 0x0 (.pset ⟨0, 1, 0, 0, 0, 0⟩),
  reads 0x0000000040002042 0x0 (.pclr ⟨0, 2, 0, 0, 0, 0⟩),
  reads 0x0000000083081042 0x0 (.pand ⟨0, 1, 2, 3, 0, 0⟩),
  reads 0x00000000C3081042 0x0 (.por ⟨0, 1, 2, 3, 0, 0⟩),
  reads 0x0000000103081042 0x0 (.pxor ⟨0, 1, 2, 3, 0, 0⟩),
  reads 0x00000001401C1042 0x0 (.pnot ⟨0, 1, 7, 0, 0, 0⟩)].all id = true := by decide

theorem test_words_ctl : [
  reads 0x0000000000000043 0x0 (.halt ⟨0, 0, 0, 0, 0⟩),
  reads 0x0000001000000043 0x0 (.yield ⟨0, 0, 0, 0, 0⟩),
  reads 0x0000002000000943 0x0 (.nop ⟨9, 0, 0, 0, 0⟩),
  reads 0x0000003000240043 0x0 (.estim ⟨0, 0, 9, 0, 0⟩),
  reads 0x0000004001005043 0x0 (.sysr ⟨0, 5, 0, 1, 0⟩),
  reads 0x0000005027140043 0x0 (.sysw ⟨0, 0, 5, 0x27, 0⟩)].all id = true := by decide

theorem test_words_tile : [
  reads 0x000040490B000060 0x0 (.twait ⟨0, 0, 0, 0x490b, 0, 4⟩),
  reads 0x0001034512000060 0x0 (.tskip ⟨0, 0, 0, 0x4512, 3, 0⟩),
  reads 0x00020F8112000060 0x0 (.tsig ⟨0, 0, 0, 0x8112, 0xf, 0⟩),
  reads 0x0003000012009060 0x0 (.tstat ⟨0, 9, 0, 0x12, 0, 0⟩),
  reads 0x0004008312000060 0x0 (.tdone ⟨0, 0, 0, 0x8312, 0, 0⟩),
  reads 0x0005020012000060 0x0 (.tquota ⟨0, 0, 0, 0x12, 2, 0⟩),
  reads 0x0006014512000060 0x0 (.treset ⟨0, 0, 0, 0x4512, 1, 0⟩),
  reads 0x0007004512103060 0x0 (.tget ⟨0, 3, 4, 0x4512, 0, 0⟩),
  reads 0x0008014512103060 0x0 (.tins ⟨0, 3, 4, 0x4512, 1, 0⟩),
  reads 0x0000004512103064 0x0 (.bhash ⟨0, 3, 4, 0x4512, 0, 0⟩)].all id = true := by decide

theorem test_words_cur : [
  reads 0x000012340000F061 0x0 (.kset ⟨0, 0xf, 0, 0x1234⟩),
  reads 0x0000FFFF0100F061 0x0 (.kadd ⟨0, 0xf, 0, 0xffff⟩),
  reads 0x00000000023C3061 0x0 (.kmovx ⟨0, 3, 0xf, 0⟩),
  reads 0x0000000000200062 0x0 (.fqpush ⟨0, 0, 8, 0⟩),
  reads 0x0080000001000062 0x0 (.fqpushi ⟨0, 0, 0, 0x800000⟩),
  reads 0x0000000002000062 0x0 (.fqclr ⟨0, 0, 0, 0⟩),
  reads 0x0000000003200062 0x0 (.shapeset ⟨0, 0, 8, 0⟩),
  reads 0x0008010104000062 0x0 (.shapei ⟨0, 0, 0, 0x80101⟩)].all id = true := by decide

theorem test_words_kv : [
  reads 0x0000030003081063 0x0 (.kvaddr ⟨0, 1, 2, 3, 0, 3⟩),
  reads 0x0000010040080063 0x0 (.arnset ⟨0, 0, 2, 0, 0, 1⟩),
  reads 0x0000000083081063 0x0 (.pfxfind ⟨0, 1, 2, 3, 0, 0⟩),
  reads 0x00000000C3081063 0x0 (.pfxpin ⟨0, 1, 2, 3, 0, 0⟩),
  reads 0x0000000103080063 0x0 (.pfxunpin ⟨0, 0, 2, 3, 0, 0⟩),
  reads 0x0000040143081063 0x0 (.pfxins ⟨0, 1, 2, 3, 0, 4⟩)].all id = true := by decide

theorem test_words_claim : [
  reads 0xFFF064234614406C 0x0 (.claim ⟨0, 4, 5, 6, 1, 3, 0, 2, 4, 0, 3, 0xfff0⟩)].all id = true := by decide

theorem test_words_fence : [
  reads 0x000058FE0004006D 0x0 (.fence ⟨0, 0x8001, 0x3f, 6, 2⟩)].all id = true := by decide

theorem test_words_bar : [
  reads 0x000070000000006E 0x0 (.barArrive ⟨0, 0, 0, 0, 7⟩),
  reads 0x000010100000006E 0x0 (.barWait ⟨0, 0, 0, 0, 1⟩),
  reads 0x000020200000006E 0x0 (.barSync ⟨0, 0, 0, 0, 2⟩),
  reads 0x000000300000006E 0x0 (.barLeave ⟨0, 0, 0, 0, 0⟩)].all id = true := by decide

theorem test_words_atomics : [
  reads 0x098165A30308106F 0x0 (.amh ⟨0, 1, 2, 3, 3, 0, 0xa, 5, 0, 3, 0x81, 9⟩),
  reads 0x0B8165A30308107C 0x0 (.amc ⟨0, 1, 2, 3, 3, 0, 0xa, 5, 0, 3, 0x81, 0xb⟩),
  reads 0x0A8165A20308107D 0x0 (.amd ⟨0, 1, 2, 3, 2, 0, 0xa, 5, 0, 3, 0x81, 0xa⟩),
  reads 0x098165A30308107E 0x0 (.amm ⟨0, 1, 2, 3, 3, 0, 0xa, 5, 0, 3, 0x81, 9⟩),
  reads 0x008105A30308107F 0x0 (.amx ⟨0, 1, 2, 3, 3, 0, 0xa, 5, 0, 0, 0x81, 0⟩)].all id = true := by decide

theorem test_words_loads : [
  reads 0x8000211AC3802070 0x0 (.lds ⟨0, 2, 0x20, 3, 3, 2, 1, 1, 1, 0, 1, 0x8000⟩),
  reads 0x001046F443804071 0x0 (.sts ⟨0, 4, 0x20, 3, 1, 4, 0, 0xf, 6, 0, 2, 0x10⟩),
  reads 0x8000211AC3802072 0x0 (.ldc ⟨0, 2, 0x20, 3, 3, 2, 1, 1, 1, 0, 1, 0x8000⟩),
  reads 0x001046F443804073 0x0 (.stc ⟨0, 4, 0x20, 3, 1, 4, 0, 0xf, 6, 0, 2, 0x10⟩),
  reads 0x8000211AC3802074 0x0 (.ldd ⟨0, 2, 0x20, 3, 3, 2, 1, 1, 1, 0, 1, 0x8000⟩),
  reads 0x001046F443804075 0x0 (.std ⟨0, 4, 0x20, 3, 1, 4, 0, 0xf, 6, 0, 2, 0x10⟩),
  reads 0x8000211AC3802076 0x0 (.ldm ⟨0, 2, 0x20, 3, 3, 2, 1, 1, 1, 0, 1, 0x8000⟩),
  reads 0x001046F443804077 0x0 (.stm ⟨0, 4, 0x20, 3, 1, 4, 0, 0xf, 6, 0, 2, 0x10⟩),
  reads 0x8000211AC3802078 0x0 (.ldx ⟨0, 2, 0x20, 3, 3, 2, 1, 1, 1, 0, 1, 0x8000⟩),
  reads 0x001046F443804079 0x0 (.stx ⟨0, 4, 0x20, 3, 1, 4, 0, 0xf, 6, 0, 2, 0x10⟩),
  reads 0x8000211AC380207A 0x0 (.ldh ⟨0, 2, 0x20, 3, 3, 2, 1, 1, 1, 0, 1, 0x8000⟩),
  reads 0x001046F44380407B 0x0 (.sth ⟨0, 4, 0x20, 3, 1, 4, 0, 0xf, 6, 0, 2, 0x10⟩)].all id = true := by decide

theorem test_words_own : [
  reads 0x0000003A34480080 0x0 (.olend ⟨0, 0, 0x12, 0x34, 0x28, 3⟩),
  reads 0x0000013A34480080 0x0 (.ogive ⟨0, 0, 0x12, 0x34, 0x28, 3⟩),
  reads 0x0000022300480080 0x0 (.ortrn ⟨0, 0, 0x12, 0, 0xc, 2⟩),
  reads 0x0000032300480080 0x0 (.osplit ⟨0, 0, 0x12, 0, 0xc, 2⟩),
  reads 0x0000042300480080 0x0 (.ojoin ⟨0, 0, 0x12, 0, 0xc, 2⟩),
  reads 0x0000053A34480080 0x0 (.oshare ⟨0, 0, 0x12, 0x34, 0x28, 3⟩),
  reads 0x0000063A34480080 0x0 (.odrop ⟨0, 0, 0x12, 0x34, 0x28, 3⟩),
  reads 0x00000712C0487080 0x0 (.oquery ⟨0, 7, 0x12, 0, 0xb, 1⟩),
  reads 0x0000082300480080 0x0 (.oreclaim ⟨0, 0, 0x12, 0, 0xc, 2⟩)].all id = true := by decide

theorem test_words_sys : [
  reads 0xFFFFF000000000A0 0x0 (.trap ⟨0, 0, 0, 0, 0xfffff⟩),
  reads 0x00003010001440A0 0x0 (.tret ⟨0, 4, 5, 0, 3⟩),
  reads 0x00001020000000A0 0x0 (.dbgbrk ⟨0, 0, 0, 0, 1⟩),
  reads 0x12345030001800A0 0x0 (.trcmark ⟨0, 0, 6, 0, 0x12345⟩),
  reads 0x01F20040001C00A0 0x0 (.cntsave ⟨0, 0, 7, 0, 0x1f20⟩),
  reads 0x00001050001C00A0 0x0 (.cntload ⟨0, 0, 7, 0, 1⟩),
  reads 0x00001060002000A0 0x0 (.tlbinv ⟨0, 0, 8, 0, 1⟩)].all id = true := by decide

theorem test_words_varith : [
  reads 0x00741102850210C0 0xC211 (.vadd ⟨0, 1, 0x8502, 2, 0x4110, 1, 1, 1, 0, 0, 0xc211, 0, 0, 0, 0⟩),
  reads 0x00141102850210C0 0x10000000C211 (.vsub ⟨0, 1, 0x8502, 2, 0x4110, 1, 0, 0, 0, 0, 0xc211, 0, 0, 0, 0⟩),
  reads 0x00141102850210C0 0x20000000C211 (.vmul ⟨0, 1, 0x8502, 2, 0x4110, 1, 0, 0, 0, 0, 0xc211, 0, 0, 0, 0⟩),
  reads 0x00D41102850210C0 0x30000005C211 (.vfma ⟨0, 1, 0x8502, 2, 0x4110, 1, 0, 3, 0, 0, 0xc211, 5, 0, 0, 0⟩),
  reads 0x00141102850210C0 0x40000005C211 (.vfms ⟨0, 1, 0x8502, 2, 0x4110, 1, 0, 0, 0, 0, 0xc211, 5, 0, 0, 0⟩),
  reads 0x00141102850210C0 0x50000000C211 (.vmin ⟨0, 1, 0x8502, 2, 0x4110, 1, 0, 0, 0, 0, 0xc211, 0, 0, 0, 0⟩),
  reads 0x00141102850210C0 0x60000000C211 (.vmax ⟨0, 1, 0x8502, 2, 0x4110, 1, 0, 0, 0, 0, 0xc211, 0, 0, 0, 0⟩),
  reads 0x00341102850200C0 0x700000000000 (.vabs ⟨0, 0, 0x8502, 2, 0x4110, 1, 1, 0, 0, 0, 0, 0, 0, 0, 0⟩),
  reads 0x00141102850200C0 0x800000000000 (.vneg ⟨0, 0, 0x8502, 2, 0x4110, 1, 0, 0, 0, 0, 0, 0, 0, 0, 0⟩),
  reads 0x00941102850200C0 0x902100000000 (.vscale ⟨0, 0, 0x8502, 2, 0x4110, 1, 0, 2, 0, 0, 0, 0, 0x21, 0, 0⟩),
  reads 0x02141102850210C0 0xA0000000C211 (.vaddx ⟨0, 1, 0x8502, 2, 0x4110, 1, 0, 0, 0, 1, 0xc211, 0, 0, 0, 0⟩)].all id = true := by decide

theorem test_words_vbit : [
  reads 0x00141102850210C1 0xC211 (.vand ⟨0, 1, 0x8502, 2, 0x4110, 1, 0, 0, 0, 0, 0xc211, 0, 0, 0, 0⟩),
  reads 0x00141102850210C1 0x10000000C211 (.vor ⟨0, 1, 0x8502, 2, 0x4110, 1, 0, 0, 0, 0, 0xc211, 0, 0, 0, 0⟩),
  reads 0x00141102850210C1 0x20000000C211 (.vxor ⟨0, 1, 0x8502, 2, 0x4110, 1, 0, 0, 0, 0, 0xc211, 0, 0, 0, 0⟩),
  reads 0x00141102850200C1 0x300000000000 (.vnot ⟨0, 0, 0x8502, 2, 0x4110, 1, 0, 0, 0, 0, 0, 0, 0, 0, 0⟩),
  reads 0x00141102850230C1 0x400900000000 (.vshl ⟨0, 3, 0x8502, 2, 0x4110, 1, 0, 0, 0, 0, 0, 0, 9, 0, 0⟩),
  reads 0x00141102850230C1 0x500900000000 (.vshr ⟨0, 3, 0x8502, 2, 0x4110, 1, 0, 0, 0, 0, 0, 0, 9, 0, 0⟩),
  reads 0x00141102850230C1 0x600900000000 (.vsra ⟨0, 3, 0x8502, 2, 0x4110, 1, 0, 0, 0, 0, 0, 0, 9, 0, 0⟩)].all id = true := by decide

theorem test_words_vcmpsel : [
  reads 0x00141102850210C2 0xC211 (.vcmpeq ⟨0, 1, 0x8502, 2, 0x4110, 1, 0, 0, 0, 0, 0xc211, 0, 0, 0, 0⟩),
  reads 0x00141102850210C2 0x10000000C211 (.vcmplt ⟨0, 1, 0x8502, 2, 0x4110, 1, 0, 0, 0, 0, 0xc211, 0, 0, 0, 0⟩),
  reads 0x00141102850210C2 0x20000000C211 (.vcmple ⟨0, 1, 0x8502, 2, 0x4110, 1, 0, 0, 0, 0, 0xc211, 0, 0, 0, 0⟩),
  reads 0x00141102850210C2 0x30008003C211 (.vsel ⟨0, 1, 0x8502, 2, 0x4110, 1, 0, 0, 0, 0, 0xc211, 0x8003, 0, 0, 0⟩),
  reads 0x00141102850210C2 0x40008003C211 (.vclamp ⟨0, 1, 0x8502, 2, 0x4110, 1, 0, 0, 0, 0, 0xc211, 0x8003, 0, 0, 0⟩)].all id = true := by decide

theorem test_words_vconv : [
  reads 0x02541102850210C3 0x0 (.vcvt ⟨0, 1, 0x8502, 2, 0x4110, 1, 0, 1, 0, 1, 0, 0, 0, 0, 0⟩),
  reads 0x00141102850290C3 0x3C5010000000C211 (.vquant ⟨0, 9, 0x8502, 2, 0x4110, 1, 0, 0, 0, 0, 0xc211, 0, 0, 0, 0x3c5⟩),
  reads 0x10141102850210C3 0x5020000000C211 (.vdeq ⟨0, 1, 0x8502, 2, 0x4110, 1, 0, 0, 0, 8, 0xc211, 0, 0, 0, 5⟩)].all id = true := by decide

theorem test_words_vsfu : [
  reads 0x00141102850220C4 0x0 (.vrcp ⟨0, 2, 0x8502, 2, 0x4110, 1, 0, 0, 0, 0, 0, 0, 0, 0, 0⟩),
  reads 0x00141102850220C4 0x100000000000 (.vrsqrt ⟨0, 2, 0x8502, 2, 0x4110, 1, 0, 0, 0, 0, 0, 0, 0, 0, 0⟩),
  reads 0x00141102850220C4 0x200000000000 (.vsqrt ⟨0, 2, 0x8502, 2, 0x4110, 1, 0, 0, 0, 0, 0, 0, 0, 0, 0⟩),
  reads 0x00141102850220C4 0x300000000000 (.vexp2 ⟨0, 2, 0x8502, 2, 0x4110, 1, 0, 0, 0, 0, 0, 0, 0, 0, 0⟩),
  reads 0x00141102850220C4 0x400000000000 (.vexp ⟨0, 2, 0x8502, 2, 0x4110, 1, 0, 0, 0, 0, 0, 0, 0, 0, 0⟩),
  reads 0x00141102850220C4 0x500000000000 (.vlog2 ⟨0, 2, 0x8502, 2, 0x4110, 1, 0, 0, 0, 0, 0, 0, 0, 0, 0⟩),
  reads 0x00141102850220C4 0x600000000000 (.vlog ⟨0, 2, 0x8502, 2, 0x4110, 1, 0, 0, 0, 0, 0, 0, 0, 0, 0⟩),
  reads 0x00141102850220C4 0x700000000000 (.vsin ⟨0, 2, 0x8502, 2, 0x4110, 1, 0, 0, 0, 0, 0, 0, 0, 0, 0⟩),
  reads 0x00141102850220C4 0x800000000000 (.vcos ⟨0, 2, 0x8502, 2, 0x4110, 1, 0, 0, 0, 0, 0, 0, 0, 0, 0⟩),
  reads 0x00141102850220C4 0x900000000000 (.vtanh ⟨0, 2, 0x8502, 2, 0x4110, 1, 0, 0, 0, 0, 0, 0, 0, 0, 0⟩),
  reads 0x00141102850220C4 0xA00000000000 (.vsigm ⟨0, 2, 0x8502, 2, 0x4110, 1, 0, 0, 0, 0, 0, 0, 0, 0, 0⟩),
  reads 0x00141102850220C4 0xB00000000000 (.verf ⟨0, 2, 0x8502, 2, 0x4110, 1, 0, 0, 0, 0, 0, 0, 0, 0, 0⟩)].all id = true := by decide

theorem test_words_vshape : [
  reads 0x00141102850200C5 0x0 (.vmov ⟨0, 0, 0x8502, 2, 0x4110, 1, 0, 0, 0, 0, 0, 0, 0, 0, 0⟩),
  reads 0x00000002850200C5 0x100500000000 (.vfill ⟨0, 0, 0x8502, 2, 0, 0, 0, 0, 0, 0, 0, 0, 5, 0, 0⟩),
  reads 0x06200002850230C5 0x200500000000 (.viota ⟨0, 3, 0x8502, 2, 0, 0, 1, 0, 0, 3, 0, 0, 5, 0, 0⟩),
  reads 0x00141102850200C5 0x300000000000 (.vtrans ⟨0, 0, 0x8502, 2, 0x4110, 1, 0, 0, 0, 0, 0, 0, 0, 0, 0⟩),
  reads 0x00141102850210C5 0x40000000C211 (.vshuf ⟨0, 1, 0x8502, 2, 0x4110, 1, 0, 0, 0, 0, 0xc211, 0, 0, 0, 0⟩),
  reads 0x00141102850200C5 0x500000000000 (.vbcrow ⟨0, 0, 0x8502, 2, 0x4110, 1, 0, 0, 0, 0, 0, 0, 0, 0, 0⟩),
  reads 0x00141102850200C5 0x600000000000 (.vbccol ⟨0, 0, 0x8502, 2, 0x4110, 1, 0, 0, 0, 0, 0, 0, 0, 0, 0⟩)].all id = true := by decide

theorem test_words_matrix : [
  reads 0x02141000000030E0 0x41404120 (.mma ⟨0, 3, 0, 0, 0x4100, 1, 0, 0, 0, 1, 0x4120, 0x4140, 0, 0, 0⟩),
  reads 0x00000000000020E0 0x100000004120 (.mmach ⟨0, 2, 0, 0, 0, 0, 0, 0, 0, 0, 0x4120, 0, 0, 0, 0⟩),
  reads 0x00241000000030E1 0x4120 (.mmai ⟨0, 3, 0, 0, 0x4100, 0, 1, 0, 0, 0, 0x4120, 0, 0, 0, 0⟩),
  reads 0x22400002850210E2 0x0 (.mdrain ⟨0, 1, 0x8502, 2, 0, 0, 0, 1, 0, 0x11, 0, 0, 0, 0, 0⟩),
  reads 0x00000000000030E2 0x100000000000 (.mzero ⟨0, 3, 0, 0, 0, 0, 0, 0, 0, 0, 0, 0, 0, 0, 0⟩),
  reads 0x0C041100000010E2 0x200000000000 (.mldacc ⟨0, 1, 0, 0, 0x4110, 0, 0, 0, 0, 6, 0, 0, 0, 0, 0⟩),
  reads 0x02041102850200E3 0x3F0000400000000 (.cbload ⟨0, 0, 0x8502, 2, 0x4110, 0, 0, 0, 0, 1, 0, 0, 4, 0, 0x3f⟩)].all id = true := by decide

theorem test_words_porter : [
  reads 0x00000001400800E8 0x1400000000 (.tload ⟨0, 0, 0x4008, 1, 0, 0, 0, 0, 0, 0, 0, 0, 0x14, 0, 0⟩),
  reads 0x00041100000030E9 0x900000000 (.tstore ⟨0, 3, 0, 0, 0x4110, 0, 0, 0, 0, 0, 0, 0, 9, 0, 0⟩),
  reads 0x00000000000020EA 0x38A00000000 (.bcopy ⟨0, 2, 0, 0, 0, 0, 0, 0, 0, 0, 0, 0, 0xa, 0xe, 0⟩),
  reads 0x08041112850210EB 0x900000000 (.cxfer ⟨0, 1, 0x8502, 2, 0x4111, 0, 0, 0, 0, 4, 0, 0, 9, 0, 0⟩),
  reads 0x02000002850210EC 0x0 (.wmwait ⟨0, 1, 0x8502, 2, 0, 0, 0, 0, 0, 1, 0, 0, 0, 0, 0⟩)].all id = true := by decide

theorem test_words_sum : [
  reads 0x00000001850200F0 0x100000300000000 (.sinit ⟨0, 0, 0x8502, 1, 0, 0, 0, 0, 0, 0, 0, 0, 3, 0, 0x10⟩),
  reads 0x00141101850200F0 0x100000004112 (.qadd ⟨0, 0, 0x8502, 1, 0x4110, 1, 0, 0, 0, 0, 0x4112, 0, 0, 0, 0⟩),
  reads 0x00041101850200F0 0x200000004112 (.qmerge ⟨0, 0, 0x8502, 1, 0x4110, 0, 0, 0, 0, 0, 0x4112, 0, 0, 0, 0⟩),
  reads 0x00041101850200F0 0x300300000000 (.qquant ⟨0, 0, 0x8502, 1, 0x4110, 0, 0, 0, 0, 0, 0, 0, 3, 0, 0⟩),
  reads 0x00041101850200F0 0x400300000000 (.qrank ⟨0, 0, 0x8502, 1, 0x4110, 0, 0, 0, 0, 0, 0, 0, 3, 0, 0⟩),
  reads 0x00041101850200F0 0x500000004112 (.hadd ⟨0, 0, 0x8502, 1, 0x4110, 0, 0, 0, 0, 0, 0x4112, 0, 0, 0, 0⟩),
  reads 0x00041101850200F0 0x600000004112 (.hmerge ⟨0, 0, 0x8502, 1, 0x4110, 0, 0, 0, 0, 0, 0x4112, 0, 0, 0, 0⟩),
  reads 0x00041101850200F0 0x700300000000 (.htop ⟨0, 0, 0x8502, 1, 0x4110, 0, 0, 0, 0, 0, 0, 0, 3, 0, 0⟩),
  reads 0x00041101850200F0 0x800000004112 (.dadd ⟨0, 0, 0x8502, 1, 0x4110, 0, 0, 0, 0, 0, 0x4112, 0, 0, 0, 0⟩),
  reads 0x00041101850200F0 0x900000004112 (.dmerge ⟨0, 0, 0x8502, 1, 0x4110, 0, 0, 0, 0, 0, 0x4112, 0, 0, 0, 0⟩),
  reads 0x00041101850200F0 0xA00000000000 (.dcest ⟨0, 0, 0x8502, 1, 0x4110, 0, 0, 0, 0, 0, 0, 0, 0, 0, 0⟩),
  reads 0x00041101850200F0 0x3F0B00000004112 (.msum ⟨0, 0, 0x8502, 1, 0x4110, 0, 0, 0, 0, 0, 0x4112, 0, 0, 0, 0x3f⟩),
  reads 0x02041101850200F0 0xC00000004112 (.msmerge ⟨0, 0, 0x8502, 1, 0x4110, 0, 0, 0, 0, 1, 0x4112, 0, 0, 0, 0⟩),
  reads 0x00041101850200F0 0xD1C000004112 (.msrow ⟨0, 0, 0x8502, 1, 0x4110, 0, 0, 0, 0, 0, 0x4112, 0, 0, 7, 0⟩),
  reads 0x00041101850200F0 0xE1C000004112 (.lserow ⟨0, 0, 0x8502, 1, 0x4110, 0, 0, 0, 0, 0, 0x4112, 0, 0, 7, 0⟩),
  reads 0x00041101850200F0 0xF00000004112 (.lsemerge ⟨0, 0, 0x8502, 1, 0x4110, 0, 0, 0, 0, 0, 0x4112, 0, 0, 0, 0⟩),
  reads 0x02241101850200F0 0x3F1000000000000 (.sread ⟨0, 0, 0x8502, 1, 0x4110, 0, 1, 0, 0, 1, 0, 0, 0, 0, 0x3f⟩)].all id = true := by decide

theorem test_words_coll : [
  reads 0x02000000000000F8 0x14400000000 (.coll ⟨0, 0, 0, 0, 0, 0, 0, 0, 0, 1, 0, 0, 4, 5, 0⟩),
  reads 0x00000000000000F9 0x400000000 (.collstop ⟨0, 0, 0, 0, 0, 0, 0, 0, 0, 0, 0, 0, 4, 0, 0⟩)].all id = true := by decide


/-! ### Well-formedness: a term for each check that the check refuses -/

/-- The instruction fails the check of unused fields (R72), and the decoder refuses its words with subcode 4. -/
def unusedRefused (i : Instr) : Bool := !i.unusedZero && refuses i.word0 i.word1 4
/-- The instruction fails only the check of used fields (R71, R74, R76, R420), and its words are refused with subcode 5. -/
def valueRefused (i : Instr) : Bool := i.unusedZero && !i.valuesOk && refuses i.word0 i.word1 5

theorem test_wf_guard : (Instr.nop ⟨8, 0, 0, 0, 0⟩).guardOk = false ∧ refuses 0x0000002000000843 0 2 = true := by decide
theorem test_wf_opcode : refuses 0x05 0 1 = true ∧ refuses 0xC6 0 1 = true := by decide
theorem test_wf_function : refuses 0x0000000780000000 0 3 = true ∧ refuses 0xE8 0x0000100000000000 3 = true := by decide
theorem test_wf_reserved_bit : refuses 0x8000000000000000 0 4 = true ∧ reads 0x60 0 (.twait ⟨0, 0, 0, 0, 0, 0⟩) = true ∧
    refuses 0x0000800000000060 0 4 = true := by decide
theorem test_wf_unused : [
  unusedRefused (.add ⟨0, 1, 2, 3, 0, 1⟩), unusedRefused (.neg ⟨0, 1, 2, 3, 0, 0⟩), unusedRefused (.movi ⟨0, 1, 2, 5⟩),
  unusedRefused (.br ⟨0, 1, 0, 0, 0⟩), unusedRefused (.loop ⟨0, 1, 1, 0, 0⟩), unusedRefused (.halt ⟨0, 0, 0, 0, 1⟩),
  unusedRefused (.fadd ⟨0, 1, 2, 3, 1, 0⟩), unusedRefused (.pnot ⟨0, 1, 2, 3, 0, 0⟩), unusedRefused (.twait ⟨0, 0, 0, 0, 1, 0⟩),
  unusedRefused (.fqclr ⟨0, 0, 0, 1⟩), unusedRefused (.arnset ⟨0, 1, 2, 0, 0, 0⟩), unusedRefused (.ortrn ⟨0, 0, 1, 1, 12, 2⟩),
  unusedRefused (.vnot ⟨0, 0, 0, 0, 0, 0, 0, 0, 0, 0, 1, 0, 0, 0, 0⟩), unusedRefused (.mzero ⟨0, 0, 1, 0, 0, 0, 0, 0, 0, 0, 0, 0, 0, 0, 0⟩),
  unusedRefused (.bcopy ⟨0, 0, 0, 0, 0, 1, 0, 0, 0, 0, 0, 0, 0, 0, 0⟩), unusedRefused (.dcest ⟨0, 0, 0, 0, 0, 0, 0, 0, 0, 0, 0, 0, 0, 0, 1⟩),
  unusedRefused (.coll ⟨0, 0, 0, 0, 0, 0, 0, 0, 0, 2, 0, 0, 0, 0, 0⟩)].all id = true := by decide
theorem test_wf_scalar_values : [
  valueRefused (.cmpeq ⟨0, 8, 0, 0, 0, 0⟩), valueRefused (.sel ⟨0, 0, 0, 0, 0, 8⟩), valueRefused (.pand ⟨0, 0, 8, 0, 0, 0⟩),
  valueRefused (.shli ⟨0, 0, 0, 64⟩), valueRefused (.loop ⟨0, 0, 0, 8, 0⟩), valueRefused (.sysr ⟨0, 0, 0, 7, 0⟩),
  valueRefused (.sysw ⟨0, 0, 0, 1, 0⟩), valueRefused (.kset ⟨0, 16, 0, 0⟩), valueRefused (.kset ⟨0, 0, 0, 0x10000⟩),
  valueRefused (.barWait ⟨0, 0, 0, 0, 8⟩)].all id = true := by decide
theorem test_wf_memory_values : [
  valueRefused (.ldm ⟨0, 0, 0, 0, 0, 5, 0, 0, 0, 0, 0, 0⟩), valueRefused (.ldm ⟨0, 1, 0, 0, 0, 4, 0, 0, 0, 0, 0, 0⟩),
  valueRefused (.ldm ⟨0, 0, 0, 0, 0, 0, 0, 0, 7, 0, 0, 0⟩), valueRefused (.ldm ⟨0, 0, 0, 0, 0, 0, 0, 0, 0, 0, 2, 0⟩),
  valueRefused (.stm ⟨0, 0, 0, 0, 0, 0, 0, 0, 0, 0, 1, 0⟩), valueRefused (.lds ⟨0, 0, 0, 0, 0, 0, 0, 0, 0, 1, 0, 0⟩),
  valueRefused (.amm ⟨0, 0, 0, 0, 3, 0, 0, 0, 0, 0, 0, 12⟩), valueRefused (.amm ⟨0, 0, 0, 0, 1, 0, 0, 0, 0, 0, 0, 0⟩),
  valueRefused (.amm ⟨0, 0, 0, 0, 3, 0, 0, 0, 0, 0, 0, 10⟩), valueRefused (.amh ⟨0, 0, 0, 0, 3, 0, 0, 0, 0, 0, 0, 1⟩),
  valueRefused (.claim ⟨0, 0, 0, 1, 3, 3, 0, 0, 0, 0, 0, 0⟩), valueRefused (.claim ⟨0, 0, 0, 1, 0, 2, 0, 0, 0, 0, 0, 0⟩),
  valueRefused (.fence ⟨0, 1, 0x40, 0, 0⟩), valueRefused (.fence ⟨0, 1, 1, 7, 0⟩), valueRefused (.fence ⟨0, 1, 1, 0, 3⟩),
  valueRefused (.odrop ⟨0, 0, 0, 0, 12, 4⟩), valueRefused (.odrop ⟨0, 0, 0, 0, 11, 3⟩), valueRefused (.odrop ⟨0, 0, 0, 0, 10, 0⟩),
  valueRefused (.odrop ⟨0, 0, 0, 0, 41, 3⟩)].all id = true := by decide
theorem test_wf_tile_values : [
  valueRefused (.tsig ⟨0, 0, 0, 0xC000, 0, 0⟩), valueRefused (.twait ⟨0, 0, 0, 0x0100, 0, 0⟩), valueRefused (.tstat ⟨0, 0, 0, 0x4000, 0, 0⟩),
  valueRefused (.tdone ⟨0, 0, 0, 0xC000, 0, 0⟩)].all id = true := by decide
theorem test_wf_long_values : [
  valueRefused (.vadd ⟨0, 10, 0, 0, 0, 0, 0, 0, 0, 0, 0, 0, 0, 0, 0⟩), valueRefused (.vmov ⟨0, 0, 0xC000, 0, 0, 0, 0, 0, 0, 0, 0, 0, 0, 0, 0⟩),
  valueRefused (.vmov ⟨0, 0, 0, 0, 0x0100, 0, 0, 0, 0, 0, 0, 0, 0, 0, 0⟩), valueRefused (.mzero ⟨0, 4, 0, 0, 0, 0, 0, 0, 0, 0, 0, 0, 0, 0, 0⟩),
  valueRefused (.tload ⟨0, 0, 1, 0, 0, 0, 0, 0, 0, 1, 0, 0, 0, 0, 0⟩), valueRefused (.bcopy ⟨0, 0, 0, 0, 0, 0, 0, 0, 0, 0x18, 0, 0, 0, 0, 0⟩),
  valueRefused (.cxfer ⟨0, 0, 0, 0, 0, 0, 0, 0, 0, 0x20, 0, 0, 0, 0, 0⟩), valueRefused (.qrank ⟨0, 0, 0, 0, 1, 0, 0, 0, 0, 0, 0, 0, 0, 0, 0⟩),
  valueRefused (.sinit ⟨0, 0, 0, 0, 0, 0, 0, 0, 0, 0, 0, 0, 0, 0, 6⟩)].all id = true := by decide

/-! ### Witnesses: concrete states and operands that meet the hypotheses of each statement -/

/-- A launch of one stream with 128 tiles on physical core 0, and memory of its own. -/
def lau : Launch :=
  { Launch.default with m := { Manifest.default with twin := 128, ncb := 1, spad := 4096, serai := 4096, depot := 4096, waitlim := 1000 },
                        phase := .placed, cores := [⟨0, [0], 0⟩], dies := [0], clusterDie := [0] }
/-- A page of code at 0, a page of data at 0x1000, a page of host memory at 0x2000. -/
def code : Leaf := { pa := 0x4000, ls := 12, key := 0, host := false, notok := false, mt := 0, x := true, w := false }
def data : Leaf := { pa := 0x5000, ls := 12, key := 0, host := false, notok := false, mt := 0, x := false, w := true }
def hostPage : Leaf := { pa := 0x6000, ls := 12, key := 0, host := true, notok := false, mt := 0, x := false, w := true }
/-- Entries of one TLB for these pages in address space 0. -/
def tlbOf (unit : Nat) : Table Leaf :=
  [(tlbKey unit 0 0, code), (tlbKey unit 0 0x1000, data), (tlbKey unit 0 0x2000, hostPage)]
/-- A region that the launch holds. -/
def mine : Region := { defaultRegion 12 with holder := launchId 0 }
/-- The machine with that launch placed, the host up, and what it holds in device memory and in its own stores. -/
def on : State :=
  let s := State.reset
  { s with launches := [(0, lau)], hostUp := true, dev := { s.dev with ready := true },
           spaces := { s.spaces with roots := [(0, some 0)], tlb := tlbOf 0 ++ tlbOf 384 ++ tlbOf 432 },
           regions := [0x5000, Place.base .spad, Place.base .serai, Place.base .depot].map fun p => (p, mine) }
/-- The same with a stream. -/
def at' (t : Stream) : State := { on with streams := [(0, t)] }

theorem witness_DecodeOfEncode : [Instr.add ⟨0, 1, 2, 3, 0, 0⟩, .vadd ⟨0, 0, 0, 0, 0, 0, 0, 0, 0, 0, 0, 0, 0, 0, 0⟩].all
    (fun i => i.isWord && i.WellFormed) = true := by decide
theorem witness_DecodingIsExact : reads 0x0000000000000043 0 (.halt ⟨0, 0, 0, 0, 0⟩) = true ∧ opcode 5 = none ∧
    (opcode 0x43 ≠ none ∧ (0x843 : Word).extractLsb' 8 4 = 8) ∧ refuses 5 0 1 = true ∧
    ∃ fm n, opcode 0x43 = some (fm, n) ∧ (0xFFFF00000043 : Word).extractLsb' 8 4 ≠ 8 ∧ n ≠ 0 ∧ n ≤ fnOf fm (wide 0xFFFF00000043 0) :=
  ⟨by decide, by decide, by decide, by decide, _, _, rfl, by decide, by decide, by decide⟩
/-- A program of one HALT, and the stream that is to issue it. -/
def prog : State := { on with mem := [(0x4000, 0x43)] }
def halting : State := prog.acting 0 .sequencer false
theorem witness_StreamTurnRunsInstruction : prog.hasStream 0 = true ∧ halting.mayIssue 0 = true ∧
    ((halting.serve 0 0).fetchWord 0 0 0 false).1 = .word 0x43 ∧ isLong 0x43 = false ∧ halting.physOf halting.cur = 0 ∧
    reads 0x43 0 (.halt ⟨0, 0, 0, 0, 0⟩) = true ∧ ((halting.serve 0 0).fetchWord 0 0 0 false).2.rearguard 0 0 = none ∧
    prog.shadow = [] ∧ prog.streams = [] := by decide
/-- Streams that may not issue: one that has halted, and one that comes second in its core's round. -/
def pair : State :=
  { prog.setLaunch 0 { lau with m := { lau.m with nstrm := 2 }, cores := [⟨0, [0, 1], 0⟩] } with
      streams := [(0, Stream.default), (1, Stream.default)], served := [(0, 1)] }
theorem witness_TurnsOfStreamsThatMayNotIssue : ({ prog with streams := [(0, { Stream.default with halted := true })] } : State).mayIssue 0 = false ∧
    pair.ready 0 = true ∧ pair.ready 1 = true ∧ pair.mayIssue 0 = false ∧ pair.mayIssue 1 = true ∧ State.reset.hasStream 0 = false := by decide
theorem witness_FetchReadsExecutablePage : [0, 0x1000].all (fun va =>
    match prog.translate 0 (prog.launchOf 0).asid va with | some (l, _) => !l.host && (l.x == (va = 0)) | none => false) = true := by decide
theorem witness_StepKeepsMemoryCanonical : prog.mem.wf = true ∧ prog.Inv ∧
    (match step { prog with tape := [.issue 0 false] } with | .next _ => true | _ => false) = true := by
  refine ⟨by decide, ?_, by decide⟩
  unfold State.Inv; decide
theorem witness_guards : on.st.guardTrue 0 = true ∧ on.st.guardTrue 1 = false ∧ on.st.guardTrue 9 = true := by decide

/-! Control and traps -/

theorem witness_BranchesAndCalls : on.st.guardTrue 0 = true ∧ (on.xr 1).toNat % 8 = 0 ∧
    ((at' { Stream.default with x := [(1, 4)] }).xr 1).toNat % 8 ≠ 0 := by decide
theorem witness_LoopsAndBreaks : on.launch.breakpoints = [] ∧ (max 1 (min (on.xr 1).toNat (2 ^ 32)) - 1) = 0 ∧
    (max 1 (min ((at' { Stream.default with x := [(1, 2)] }).xr 1).toNat (2 ^ 32)) - 1) ≠ 0 := by decide
/-- A breakpoint at the first iteration of loop 0. -/
def broken : State := on.setLaunch 0 { lau with breakpoints := [(2, { sidx := 0xFFF, loop := 0, iter := 1 })] }
theorem witness_BreakpointStopsAtBoundary : broken.st.guardTrue 0 = true ∧ broken.st.stopped = false ∧
    (2, ({ sidx := 0xFFF, loop := 0, iter := 1 } : Breakpoint)) ∈ broken.launch.breakpoints ∧
    (tget 0 broken.st.loopst 0).getLsbD 63 = false := by decide
/-- An engine entry that waits. -/
def entry : Entry :=
  { w0 := 0, w1 := 0, pc := 0, edt := 0, eta := 0, etb := 0, etc := 0, xs1 := 0, xs2 := 0, shape := 0, ssr := 0, rm := 0,
    unbound := false, seq := 0, mark := 0, names := [], arena := 0 }
def queued (e : Entry) : Queue := { Queue.default with entries := [e], appended := 1 }
theorem witness_SystemRegisters : on.st.guardTrue 0 = true ∧ on.st.drained = true ∧ on.st.fq.length ≤ 16 ∧
    (at' { Stream.default with matrixQ := queued entry }).st.matrixQ.entries ≠ [] := by decide
theorem witness_TrapStopsStream : (on.stream 0).stopped = false ∧ (on.launchOf 0).held.length < 64 ∧
    (at' { Stream.default with stopped := true }).st.stopped = true ∧
    64 ≤ ((on.setLaunch 0 { lau with held := List.replicate 64 0 }).launchOf 0).held.length := by decide
theorem witness_TrapInstructions : on.launch.traceMask.getLsbD 3 = false := by decide
theorem witness_ReturnFromTrap : on.st.guardTrue 0 = true ∧ (on.xr 0).toNat < on.launch.m.streams ∧ on.st.stopped = false ∧
    on.launch.m.streams ≤ ((at' { Stream.default with x := [(1, 1)] }).xr 1).toNat ∧
    ((at' { Stream.default with stopped := true }).stream (on.launchNo * 4096 + 0)).stopped = true := by decide

/-! Tiles -/

/-- A counted operand of tile 63: its count is K0. -/
def top : BitVec 16 := 0x403F
theorem witness_VersionsAreAdmitted : on.InWindow (.twait ⟨0, 0, 0, top, 0, 1⟩) ∧ SourceReady on (on.operand top false) ∧
    on.st.ssr.getLsbD 0 = false ∧ (on.operand top false).mode = 1 ∧ (on.tile (on.operand top false).key).count = 0 := by
  dsimp only [SourceReady, State.InWindow, Instr.parts]; decide
theorem witness_VersionsAreSignalled : on.InWindow (.tsig ⟨0, 0, 0, 63, 1, 0⟩) ∧ DestReady on (on.operand 63 false) ∧
    DestReady on (on.operand top false) := by dsimp only [DestReady, State.InWindow, Instr.parts]; decide
/-- Tile 63 with a read that it still allows, held elsewhere than K0 says. -/
def unread : State := on.setTile 63 { Tile.default with quota := 1, count := 0xFFFF }
theorem witness_OperandsWait : unread.InWindow (.twait ⟨0, 0, 0, top, 0, 1⟩) ∧ (unread.operand top false).mode ≠ 0 ∧
    32768 ≤ ((unread.tile (unread.operand top false).key).count - (unread.operand top false).exp).toNat ∧
    (unread.tile (unread.operand top false).key).quota ≠ 0 ∧ (unread.tile (unread.operand top false).key).quota ≠ 15 := by
  dsimp only [State.InWindow, Instr.parts]; decide
/-- STRICT, and tile 63 one version on. -/
def strictly : State := (at' { Stream.default with ssr := 1 }).setTile 63 { Tile.default with count := 1 }
theorem witness_StrictRefusesStaleVersions : strictly.st.ssr.getLsbD 0 = true ∧ (strictly.operand top false).mode ≠ 0 ∧
    (strictly.tile (strictly.operand top false).key).count ≠ (strictly.operand top false).exp ∧
    SourceReady strictly (strictly.operand top false) ∧ DestReady strictly (strictly.operand top false) := by
  dsimp only [SourceReady, DestReady, State.InWindow, Instr.parts]; decide
theorem witness_QuotaResetAndState : on.InWindow (.tstat ⟨0, 0, 0, 63, 0, 0⟩) ∧ (on.tile 63).writer = none ∧ (on.tile 63).inflight = 0 ∧
    (on.tile 63).quota = 0 ∧ (on.stream (on.launchNo * 4096 + 0)).waitsOn 63 = false ∧ on.launch.m.streams = 1 ∧
    (unread.tile 63).quota ≠ 0 ∧ (unread.tile 63).quota ≠ 15 := by
  dsimp only [State.InWindow, Instr.parts]; decide
/-- 2 by 4 elements of FP32. -/
def shaped : State := at' { Stream.default with shape := 0x4020 }
theorem witness_ElementMoves : shaped.InWindow (.tget ⟨0, 1, 1, top, 0, 0⟩) ∧ shapeReserved shaped.st.shape = false ∧
    shapeType shaped.st.shape < 9 ∧ rowsOk (shapeRows shaped.st.shape) = true ∧ colsOk (shapeCols shaped.st.shape) = true ∧
    viewBytes (shapeType shaped.st.shape) (shapeRows shaped.st.shape * shapeCols shaped.st.shape) ≤ 2048 ∧
    (shaped.xr 1).toNat < shapeRows shaped.st.shape * shapeCols shaped.st.shape ∧ shaped.poison = [] ∧
    SourceReady shaped (shaped.operand top true) ∧ DestReady shaped { shaped.operand top true with mark := false } := by
  dsimp only [SourceReady, DestReady, State.InWindow, Instr.parts]; decide
theorem witness_CursorsShapeAndFormatQueue : on.st.fq.length < 16 ∧ on.st.matrixQ.entries = [] ∧
    16 ≤ (at' { Stream.default with fq := List.replicate 16 0, u := 16 }).st.fq.length := by decide


/-! Single steps, with results worked out by hand from the rules named -/

/-- What a test looks at in the state that an instruction answers. -/
def after (i : Instr) (s : State) (look : State → Bool) : Bool := match exec i s with | .next t => look t | _ => false
def xs (l : List (Nat × Word)) : State := at' { Stream.default with x := l }
/-- R133: ADD at 32 bits wraps and is sign-extended. -/
theorem test_add_wraps : after (.add ⟨0, 3, 1, 2, 1, 0⟩) (xs [(1, 0x7FFFFFFF), (2, 1)]) (fun t => t.xr 3 == 0xFFFFFFFF80000000 && t.st.pc == 8) = true := by decide
/-- R134: division by zero gives all ones, its remainder the dividend. -/
theorem test_div_by_zero : after (.div ⟨0, 3, 1, 2, 0, 0⟩) (xs [(1, 7)]) (fun t => t.xr 3 == 0xFFFFFFFFFFFFFFFF) = true ∧
    after (.rem ⟨0, 3, 1, 2, 0, 0⟩) (xs [(1, 7)]) (fun t => t.xr 3 == 7) = true := by decide
/-- R136: CMPLTN compares without sign. -/
theorem test_cmpltn_unsigned : after (.cmpltn ⟨0, 1, 1, 2, 0, 0⟩) (xs [(1, 0xFFFFFFFFFFFFFFFF), (2, 1)]) (fun t => !t.st.pr 1) = true ∧
    after (.cmplt ⟨0, 1, 1, 2, 0, 0⟩) (xs [(1, 0xFFFFFFFFFFFFFFFF), (2, 1)]) (fun t => t.st.pr 1) = true := by decide
/-- R140: infinity less infinity is the canonical NaN and sets INV; one over zero is infinity and sets DZ. -/
theorem test_fsub_infinities : after (.fsub ⟨0, 3, 1, 2, 0, 0⟩) (xs [(1, 0x7F800000), (2, 0x7F800000)]) (fun t => t.xr 3 == 0x7FC00000 && t.st.ssr == 0x100) = true := by
  decide
theorem test_fdiv_by_zero : after (.fdiv ⟨0, 3, 1, 2, 0, 0⟩) (xs [(1, 0xBF800000)]) (fun t => t.xr 3 == 0xFF800000) = true := by decide
/-- R140: FCVTI of 2^63 is out of range and gives the greatest value. -/
theorem test_fcvti_saturates : after (.fcvti ⟨0, 3, 1, 0, 0, 0⟩) (xs [(1, 0x5F000000)]) (fun t => t.xr 3 == 0x7FFFFFFFFFFFFFFF && t.st.ssr == 0x100) = true := by decide
/-- R79, R147: a step of the stream runs the HALT at its PC. -/
theorem test_step_halts : (match step { prog with tape := [.issue 0 false] } with | .next t => (t.stream 0).halted && (t.stream 0).pc == 8 | _ => false) = true := by
  decide

/-! Memory -/

/-- The stream with an address in X1. -/
def addr (a : Nat) : State := at' { Stream.default with x := [(1, BitVec.ofNat 64 a)] }
/-- Every check of an access of 8 bytes passes. -/
def passes (s : State) (sp a : Nat) (load store : Bool) : Bool :=
  match (s.locate (seqWho s.cur) sp a 8 load store).1 with | .ok _ _ none => true | _ => false
/-- An access of the sequencer that has not performed. -/
def access (cls : BitVec 4) (sp place : Nat) (todo : Todo) : Access :=
  { xt := 1, n := 8, sx := false, cls := cls, pc := 0, addr := BitVec.ofNat 64 place, space := sp, places := [place], leaf := none, cp := 0,
    sem := 0, scope := 0, todo := todo, failed := false }
/-- Nothing holds up a further access. -/
def free (s : State) : Bool := !s.late && s.st.accesses.isEmpty && s.st.fences.isEmpty
theorem free_performs {s : State} (h : free s = true) (p : Access) : PerformsNow s p := by
  simp only [free, Bool.and_eq_true, Bool.not_eq_true', List.isEmpty_iff] at h
  obtain ⟨⟨h1, h2⟩, h3⟩ := h
  exact ⟨h1, by simp [Stream.blocked, h2, h3]⟩
theorem witness_LoadsReadTheirBytes : [(0, 0x1000), (1, 0), (2, 0), (3, 0), (5, 0x2000)].all (fun e : Nat × Nat =>
    let s := addr e.2
    passes s e.1 (s.xr 1).toNat true false && free s && s.poison.isEmpty && s.wc.isEmpty && s.l1.isEmpty && (s.xr 1).toNat % 8 = 0) = true := by
  decide
theorem witness_LoadsReadTheirBytes_place : ((addr 0x1000).locate (seqWho 0) 0 0x1000 8 true false).1 = .ok 0x5000 (some data) none ∧
    0x5000 % 8 = 0 ∧ (addr 0x1000).loadPoisoned 0 0x5000 8 false = false ∧ ((addr 0x1000).sectorsOf 0).length < 1024 := by decide
/-- The L1 of core 0 holds the sector of the data page, which differs from memory. -/
def cached : State := { addr 0x1000 with l1 := [(l1Key 0 0x5000, { data := 9, dirty := 0, scope := 0, dcls := 0, priv := false, poison := 0, evict := 0, after := 0 })] }
theorem witness_LoadsHitL1 : (cached.locate (seqWho 0) 0 0x1000 8 true false).1 = .ok 0x5000 (some data) none ∧ free cached = true ∧ data.mt = 0 ∧
    0x5000 < Place.base .spad ∧ cached.buffersAt 0 0x5000 = [] ∧ cached.physOf cached.cur = 0 ∧
    (match tfind cached.l1 (l1Key 0 0x5000) with | some x => x.poison = 0 && x.data = 9 | none => false) = true := by decide +kernel
/-- A port to a peer is up. -/
def linked (s : State) : State :=
  { s with ports := [(0, { Port.default with up := true, routes := [0] }), (1, { Port.default with up := true, routes := [1] })] }
theorem witness_peer : ∃ d < 2, ∀ load store : Bool, ((linked on).locate (seqWho 0) 4 (d * 2 ^ 52) 8 load store).1 =
    .ok (peerPlace d 0) none none := by
  by_cases h : Config.deviceNumber = 0
  · exact ⟨1, by decide, fun l r => by simp [State.locate, h, linked, on, State.reset, State.powerOn, State.routed, Port.default]⟩
  · refine ⟨0, by decide, fun l r => ?_⟩
    have h' : ¬ 0 = Config.deviceNumber := fun e => h e.symm
    simp [State.locate, h', linked, on, State.reset, State.powerOn, State.routed, Port.default]
theorem witness_StoresWrite : [(0, 0x1000), (1, 0), (2, 0), (3, 0), (5, 0x2000)].all (fun e : Nat × Nat =>
    let s := addr e.2
    passes s e.1 (s.xr 1).toNat false true && free s && (s.widxAt 0x5000 8).isNone && s.wc.isEmpty && s.l1.isEmpty &&
      !s.logFull s.launchNo 0x5000) = true ∧ data.mt ≠ 1 := by
  decide
theorem witness_CoreSeesItsOwnStores : data.mt < 3 ∧ (List.replicate 16 (0 : Byte)).length ∈ [1, 2, 4, 8, 16] ∧ 0x5000 % 16 = 0 ∧
    0x5000 < Place.base .spad ∧ on.dev.memoryKeys = true := by decide
/-- Two slices of a row are named. -/
def multi : State := at' { Stream.default with x := [(2, 0x81)] }
theorem witness_MulticastStores : multi.st.guardTrue 0 = true ∧ free multi = true ∧ ((multi.xr 2).getLsbD 0 = true ∧ (multi.xr 2).getLsbD 7 = true) ∧
    [0, 1].all (fun i => (multi.locate (seqWho multi.cur) 2 (0 + i * 2 ^ 11) 8 false true).1 = .ok (multi.seraiPlace multi.cur (i * 2 ^ 11)) none none)
      = true := by decide
theorem witness_MisalignedAccessesTrap : ((addr 1).xr 1 + ((addr 1).xr 0 <<< 0) + (0 : BitVec 12).signExtend 64).toNat % 2 ^ 1 ≠ 0 ∧
    (addr 1).st.guardTrue 0 = true := by decide
theorem witness_RemoteErrorsAreNoFaults : ((addr (2 ^ 48)).locate (seqWho 0) 4 (2 ^ 48) 8 true false).1 = .remote ∧
    ((addr (2 ^ 48)).locate (seqWho 0) 4 (2 ^ 48) 8 false true).1 = .remote ∧ ((addr (2 ^ 48)).locate (seqWho 0) 4 (2 ^ 48) 8 true true).1 = .remote ∧
    (addr (2 ^ 48)).st.ssr.getLsbD 22 = false ∧ (at' { Stream.default with ssr := 1 <<< 22 }).st.ssr.getLsbD 22 = true ∧ 2 ^ 48 % 8 = 0 ∧
    (({ addr 0x2000 with hostUp := false } : State).locate (seqWho 0) 5 0x2000 8 true true).1 = .remote := by decide
theorem witness_AtomicsReplaceTheWord : [(0, 0x1000), (2, 0), (3, 0), (5, 0x2000)].all (fun e : Nat × Nat =>
    passes (addr e.2) e.1 e.2 true true && free (addr e.2) && (addr e.2).own.isEmpty && (addr e.2).poison.isEmpty) = true ∧ tef on.st.ssr = 0 ∧
    (addr 0x1000).widxAt 0x5000 8 = none ∧ (addr 0x1000).buffersAt 0 0x5000 = [] ∧ (addr 0x1000).logFull 0 0x5000 = false := by decide
/-- A CLAIM record of 100 items: DIV 4, MINC 10. -/
def record : State := { addr 0x1000 with mem := [(0x5008, 100), (0x500D, 4), (0x500E, 10)] }
theorem witness_ClaimTakesAChunk : [(1, 0, 0x1000), (0, 3, 0), (2, 2, 0)].all (fun e : Nat × Nat × Nat =>
    match (record.locate (seqWho record.cur) e.2.1 e.2.2 16 true true).1 with | .ok _ _ none => true | _ => false) = true ∧
    free record = true ∧ record.widxAt 0x5000 16 = none ∧ record.logFull 0 0x5000 = false ∧
    record.launch.m.replay = 0 ∧ record.mem.readLE 0x500E 2 ≠ 0 ∧ record.mem.readLE 0x500D 1 ≠ 0 ∧ on.mem.readLE 0x500E 2 = 0 := by decide

/-! Fences and barriers -/

theorem witness_FencesComplete_lines : (on.linesOf (on.physOf on.cur)).length < 256 ∧ (0 : BitVec 3).toNat < 2 := by decide
theorem witness_FencesComplete : on.st.guardTrue 0 = true ∧ on.l1 = [] ∧ on.wc = [] ∧
    (at' { Stream.default with accesses := [(0, access 0 0 0x5000 (.load none))], accessNo := 1 }).st.fenceReady
        { cls := 1, path := 1, scope := 2, kind := 0, seq := 0, mark := 1 } = false := by decide
/-- A launch with barrier group 0: tag 0 of all of it. -/
def group (b : BarTag) (t : Stream) : State :=
  (at' t).setLaunch 0 { lau with m := { lau.m with nbar := 1, bartab := [2] }, tags := [(0, b)] }
theorem witness_BarriersArriveAndWait :
    let b : BarTag := { BarTag.default with gen := 1 }
    (group b Stream.default).launch.isMember 0 0 = true ∧ on.launch.isMember 0 0 = false ∧
    tget 0 (group b Stream.default).st.pend 0 = 0 ∧ b.released ≤ b.gen ∧
    (group { b with released := 1 } { Stream.default with pend := [(0, 1)], synced := 1 }).st.synced.getLsbD 0 = true ∧
    tget 0 (group b { Stream.default with pend := [(0, 2)] }).st.pend 0 = 2 ∧ b.released < 2 ∧
    (group { b with released := 1 } { Stream.default with pend := [(0, 1)] }).st.synced.getLsbD 0 = false := by decide
/-- Its one member arrives last; of a group of two streams the first does not. -/
theorem witness_BarriersArriveAndWait_last :
    (List.range 4096).all (fun i => !(group BarTag.default Stream.default).launch.isMember 0 i || i = 0) = true ∧
    ((at' Stream.default).setLaunch 0 { lau with m := { lau.m with nstrm := 2, nbar := 1, bartab := [2] } }).launch.isMember 0 1 = true := by
  decide +kernel


/-! Owners, prefixes, arenas -/

theorem witness_OwnerChanges : ((addr 0x1000).ownerBase 3 0x1000).1 = .at 0x5000 ∧ 0x1000 % 2 ^ 12 = 0 ∧
    (match tfind on.regions 0x5000 with | some r => r.ls = 12 && r.state = .excl && r.holder = launchId on.launchNo && r.shares.isEmpty | none => false) = true ∧
    on.badId Config.factorId = false ∧ Config.factorId ≠ launchId 0 ∧ on.room 0x5000 1 = true ∧ on.launchNo < 2 ^ 14 ∧ on.launch.m.replay = 0 ∧
    ((addr 0).ownerBase 0 0).1 = .at (on.spadPlace 0 0) ∧ on.badId (streamId 0) = false := by decide
/-- The data page in another state; its place in a region twice as large, or in two halves. -/
def held (r : Region) : State := { on with regions := [(0x5000, r)] }
theorem witness_OwnerChanges_states :
    [ { mine with state := .lent, lender := Config.factorId }, { mine with state := .shared, shares := [launchId 0] },
      { mine with state := .quarantined, super := launchId 0 }, { mine with state := .orphaned, super := streamId 0, shares := [streamId 0] } ].all
      (fun r => ((held r).ownerBase 3 0x1000).1 = .at 0x5000 && (tfind (held r).regions 0x5000 = some r)) = true := by decide
/-- No access to any block is on its way where no stream has one. -/
def quiet (s : State) : Bool := s.streams.all fun e => e.2.accesses.isEmpty
theorem quiet_nothing {s : State} (h : quiet s = true) (place ls : Nat) : NothingOnItsWay s place ls := by
  intro e he a ha
  have := List.all_eq_true.1 h e he
  simp only [List.isEmpty_iff] at this
  exact absurd ha (by rw [this]; exact List.not_mem_nil)
theorem witness_OwnerChanges_quiet : quiet (addr 0x1000) = true ∧ (12 < 13 ∧ 11 < 12) ∧ idKind (streamId 0) = 0 ∧ idLaunch (streamId 0) = 0 := by decide
def halves : State :=
  { on with launches := [(0, { lau with m := { lau.m with spad := 8192 } })],
            regions := [(Place.base .spad, { mine with ls := 11 }), (Place.base .spad + 2048, { mine with ls := 11 })] }
theorem witness_JoinMakesOneRegion : (halves.ownerBase 0 0).1 = .at (Place.base .spad) ∧ 11 < 12 ∧
    tfind halves.regions (Place.base .spad) = some { mine with ls := 11 } ∧
    tfind halves.regions (Place.base .spad + 2 ^ 11) = some { mine with ls := 11 } ∧ halves.isBlock (Place.base .spad) 12 = true ∧
    quiet halves = true := by decide
/-- A load of the data page waits behind one of its class whose region is lent to a channel that has not got so far. -/
def heldUp : State :=
  { at' { Stream.default with x := [(1, 0x1000)], accessNo := 2, accesses :=
            [(0, access 1 1 (Place.base .spad) (.load (some (0, 0)))), (1, access 1 0 0x5000 (.load none))] } with
      regions := [(0x5000, mine), (Place.base .spad, { mine with state := .lent, holder := channelId 0 0 })] }
/-- A load of X1 is outstanding; a store of the Porter, or a fence that names path 0. -/
theorem witness_InstructionsAreHeldBack : heldUp.st.accesses ≠ [] ∧ on.st.accesses = [] ∧ on.st.fences = [] ∧ on.st.porterEntries = [] ∧
    heldUp.st.guardTrue 0 = true ∧ on.st.guardTrue 9 = true ∧ on.st.guardTrue 8 = false ∧
    (∃ r ∈ regsOf (.add ⟨0, 2, 1, 0, 0, 0⟩), r ≠ 0 ∧ ∃ e ∈ heldUp.st.accesses, r ∈ e.2.regs) ∧
    heldUp.held (.add ⟨0, 2, 1, 0, 0, 0⟩) = true ∧ heldUp.st.wait = none := by decide
theorem witness_InstructionsAreHeldBack_entries : let e : Entry := { entry with w0 := 0xE9 }
    e.writesMemory = true ∧ e ∈ ({ Stream.default with porterQ := queued e } : Stream).porterEntries := ⟨by decide, List.Mem.head _⟩
theorem witness_InstructionsAreHeldBack_fences : let u : Stream := { Stream.default with fences := [⟨0, 1, 0, 0, 0, 0⟩] }
    (∃ f ∈ u.fences, f.path.getLsbD 0 = true) ∧ u.fences ≠ [] ∧ u.synced.getLsbD 0 = false ∧ ∀ r, u.loading r = false :=
  ⟨by decide, by decide, by decide, fun r => by simp [Stream.loading, Stream.default]⟩
/-- A held instruction at the PC. -/
def holdingBack : State :=
  { heldUp with mem := ((bytesLE (Instr.add ⟨0, 2, 1, 0, 0, 0⟩).word0.toNat 8).zipIdx 0x4000).filterMap fun e => if e.1 = 0 then none else some (e.2, e.1) }
theorem witness_InstructionsAreHeldBack_issue : holdingBack.held (.add ⟨0, 2, 1, 0, 0, 0⟩) = true ∧
    holdingBack.instrAt holdingBack.cur = some (.add ⟨0, 2, 1, 0, 0, 0⟩) ∧ holdingBack.st.wait = none := by decide +kernel
theorem witness_OwnerRefusalsChangeNothing_waits : (heldUp.ownerBase 3 0x1000).1 = .at 0x5000 ∧ (heldUp.landFor 0x5000 12).isNone = true ∧
    quiet halves = true ∧ (Place.base .spad + 2048) % 2 ^ 12 ≠ 0 ∧ (halves.ownerBase 0 2048).1 = .at (Place.base .spad + 2048) := by decide
theorem witness_OwnerRefusalsChangeNothing : (0x1008 : Nat) % 2 ^ 12 ≠ 0 ∧ ((addr 0x1008).ownerBase 3 0x1008).1 = .at 0x5008 ∧
    tfind halves.regions 0x5000 = none ∧ on.badId 0x40000000 = true ∧ idKind (channelId 0 1) = 2 ∧
    (match ((held { mine with state := .lent, holder := channelId 0 1 }).ownerBase 3 0x1000).1 with | .at p => p = 0x5000 | _ => false) = true := by decide
theorem witness_QueryGivesTheStateWord : on.regionAt 0x5010 = some (0x5000, mine) ∧ mine.shares.length < 65536 ∧ 0x1000 % 2 ^ 12 = 0 := by decide
theorem witness_ArenaAddresses : ((addr 0x1000).locate (seqWho 0) 0 0x1000 64 true false).1 = .ok 0x5000 (some data) none ∧
    tfind (addr 0x1000).l1 (l1Key 0 0x5000) = none ∧ 0x5000 % 64 = 0 ∧ (addr 0x1000).buffersAt 0 0x5000 = [] := by decide

/-- An arena descriptor of one element at the data page. -/
def arena : State :=
  { addr 0x1000 with mem := [(0x5008, 64), (0x5010, 64), (0x5018, 64), (0x501C, 64), (0x5020, 1), (0x5024, 1), (0x5028, 1),
                             (0x502A, 1), (0x502C, 1), (0x502F, 12)] }
theorem witness_ArenaAddresses_descriptor : arnOk (BitVec.ofNat 512 (natLE (arena.bytes 0x5000 64))) = true ∧ arnOk 0 = false := by
  decide +kernel
/-- The same arena with a link table at the scratch of the page: slot 0's link of positions 0 to 15 is at its byte 0x100. -/
def linkedArena : BitVec 512 := BitVec.ofNat 512 (0x1100 * 2 ^ (8 * 0x30) + 1 * 2 ^ (8 * 0x24) + 16 * 2 ^ (8 * 0x20) + 1 * 2 ^ (8 * 0x28) + 1 * 2 ^ (8 * 0x2A))
theorem witness_ArenaAddresses_links : let s := at' { Stream.default with arn := [(0, linkedArena)] }
    free s = true ∧ (linkedArena.extractLsb' (8 * 0x30) 64).toNat = 0x1100 ∧ 0 < (linkedArena.extractLsb' (8 * 0x20) 32).toNat ∧
    0 < (linkedArena.extractLsb' (8 * 0x24) 32).toNat ∧ 0 < (linkedArena.extractLsb' (8 * 0x28) 16).toNat ∧
    0 < (linkedArena.extractLsb' (8 * 0x2A) 16).toNat ∧ (BitVec.ofNat 64 0x1100).toNat % 8 = 0 ∧
    (s.locate (seqWho 0) 0 0x1100 8 true false).1 = .ok 0x5100 (some data) none ∧ s.poison = [] ∧ (s.sectorsOf 0).length < 1024 ∧
    tfind s.l1 (l1Key 0 0x5100) = none ∧ s.buffersAt 0 0x5100 = [] ∧ 0x5100 % 8 = 0 := by decide +kernel
/-- The stream that has loaded it: position 0 of slot 0 is within its limits, position 1 is not. -/
theorem witness_ArenaAddresses_limits :
    let d := BitVec.ofNat 512 (natLE (arena.bytes 0x5000 64))
    0 < (d.extractLsb' (8 * 0x24) 32).toNat ∧ 0 < (d.extractLsb' (8 * 0x20) 32).toNat ∧ 0 < (d.extractLsb' (8 * 0x28) 16).toNat ∧
    0 < (d.extractLsb' (8 * 0x2A) 16).toNat ∧ (d.extractLsb' (8 * 0x30) 64).toNat = 0 ∧ (d.extractLsb' (8 * 0x20) 32).toNat ≤ 1 := by
  decide +kernel
/-- An entry of the prefix table for the data page. -/
def pfx (r : Region) (n : Nat) : State :=
  { held { r with holder := Config.prefixId } with
      prefixes := [(n, { asid := 0, hash := 0, len := 16, page := 0x1000, ls := 12, ret := 0, place := 0x5000, age := 0 })] }
theorem witness_PrefixTableFindsAndPins :
    (match tfind (pfx mine 0).prefixes ((pfx mine 0).xr 0).toNat with | some e => e.asid = 0 && e.hash = 0 && e.ls = 12 && e.place = 0x5000 | none => false) = true ∧
    (match tfind (pfx mine 0).regions 0x5000 with | some r => r.holder = Config.prefixId && r.state = .excl && r.shares.isEmpty && r.ls = 12 | none => false) = true ∧
    (tfind (pfx mine 0).launches 0).isSome = true ∧ (pfx mine 0).room 0x5000 1 = true ∧ (pfx mine 0).launch.m.replay = 0 ∧
    tfind (pfx mine 1).prefixes 0 = none ∧
    (pfx { mine with state := .shared, shares := [launchId 0] } 0).inside 0x5000 12 =
      [(0x5000, { mine with state := .shared, shares := [launchId 0], holder := Config.prefixId })] := by decide
/-- PFXINS of the data page: XC is the length 16 and the size 12. -/
def inserting (s : State) : State := { s with streams := [(0, { Stream.default with x := [(1, 0x1000), (2, 0xC0010)] })] }
theorem witness_PrefixTableInserts : ((inserting on).xr 2).toNat = 16 + 12 * 2 ^ 16 ∧ ((inserting on).ownerBase 3 0x1000).1 = .at 0x5000 ∧
    (match tfind (inserting on).regions 0x5000 with | some r => r = mine | none => false) = true ∧ mine.holder ≠ Config.prefixId ∧
    tfind (inserting on).prefixes 0 = none ∧ ((inserting (pfx mine 0)).xr 0) = 0 ∧ (tfind (inserting (pfx mine 0)).prefixes 0).isSome = true := by decide
/-- A full table whose entries are all pinned. -/
theorem witness_PrefixTable_empty : (addr 0).l1 = [] ∧ (addr 0).wc = [] := by decide
def full : State :=
  { inserting on with prefixes := (List.range 64).map fun n =>
      (n, { asid := 0, hash := 1, len := 16, page := 0x1000, ls := 12, ret := 0, place := Place.base .spad, age := 0 }),
                      regions := [(0x5000, mine), (Place.base .spad, { mine with state := .shared, shares := [0] })] }
theorem witness_PrefixTableInserts_full : (∀ j < 64, (tfind full.prefixes j).isSome = true) ∧
    (∀ e ∈ full.prefixes, e.2.asid = 0 → full.pins e.2 ≠ 0) := by decide +kernel
theorem witness_BlockHash : shaped.InWindow (.bhash ⟨0, 1, 1, top, 0, 0⟩) ∧ SourceReady shaped (shaped.operand top true) ∧
    (shaped.xr 1).toNat < 32 ∧ 32 ≤ ((addr 32).xr 1).toNat ∧ shaped.poison = [] := by
  dsimp only [SourceReady, State.InWindow, Instr.parts]; decide
theorem witness_CountsAndTranslations : 0 + 2 ≤ on.launch.m.twin ∧ free on = true ∧ 0 + 4 * 2 < 2 ^ 20 ∧ 0 % 4 = 0 ∧ on.poison = [] ∧
    [0, 1].all (fun j => (on.locate (seqWho on.cur) 1 (0 + 4 * j) 4 false true).1 = .ok (on.spadPlace on.cur (4 * j)) none none &&
      (on.locate (seqWho on.cur) 1 (0 + 4 * j) 4 true false).1 = .ok (on.spadPlace on.cur (4 * j)) none none &&
      on.mem.readLE (on.spadPlace on.cur (4 * j)) 4 < 2 ^ 25 && on.resettable (on.tileKey on.cur j)) = true := by decide

/-! Engine queues -/

/-- A long instruction on tiles 1, 2, 3 (CUR operands of K0). -/
def fl : FL := ⟨0, 0, 0x4001, 0, 0x4002, 0, 0, 0, 0, 0, 0x4003, 0, 0, 0, 0⟩
theorem witness_LongInstructionsQueue : (Instr.vadd fl).isWord = true ∧ (Instr.vadd fl).long? = some fl ∧ on.actor = .sequencer ∧
    (tilesOf fl ((Instr.vadd fl).uses fl)).all (fun t => topTile t < on.launch.m.twin) = true ∧
    (on.st.queue (Instr.vadd fl).unit).entries.length < 16 ∧ on.launch.m.twin ≤ topTile 0x4080 ∧
    16 ≤ ((at' { Stream.default with vectorQ := { Queue.default with entries := List.replicate 16 entry } }).st.queue 2).entries.length := by
  decide

/-! The vector and matrix engines -/

/-- An entry whose SHAPE word is `sh`, at the head of the vector queue. -/
def shapedEntry (sh : Word) : Entry := { entry with shape := sh }
def vec (sh : Word) : State := { at' { Stream.default with vectorQ := queued (shapedEntry sh) } with actor := .engine 2 }
/-- The first `n` sources of `f`. -/
def sources (s : State) (f : FL) (n : Nat) : List Operand := [vecOp s f.ta 0, vecOp s f.tb 0, vecOp s f.tc 0].take n
/-- The entry may start on its first `n` sources. -/
def vecOk (sh : Word) (f : FL) (n : Nat) (types : List Nat) : Bool :=
  let c := effType f sh
  !shapeReserved sh && types.contains c && rowsOk (shapeRows sh) && colsOk (shapeCols sh) &&
    viewBytes c (shapeRows sh * shapeCols sh) ≤ 2048 && f.sk = 0 &&
    match (vec sh).startTiles ((vec sh).cur * 8 + 2) (strict (shapedEntry sh).ssr) (sources (vec sh) f n)
      [(vec sh).entryOp f.dt (shapedEntry sh).edt false] with | .starts _ => true | _ => false
theorem vec_ready {sh : Word} {f : FL} {n : Nat} {types : List Nat} (h : vecOk sh f n types = true) :
    ∃ s1, VectorReady (vec sh) s1 f (shapedEntry sh) (sources (vec sh) f n) types := by
  simp only [vecOk, Bool.and_eq_true, Bool.not_eq_true', List.contains_iff_mem, decide_eq_true_eq] at h
  obtain ⟨⟨⟨⟨⟨⟨h1, h2⟩, h3⟩, h4⟩, h5⟩, h6⟩, h7⟩ := h
  revert h7
  split
  · next s1 hs => exact fun _ => ⟨s1, ⟨rfl, [], rfl⟩, h1, h2, h3, h4, h5, hs, .inl h6, rfl⟩
  · exact fun h => nomatch h
/-- A view of rows and columns of type `c`. -/
def viewShape (c rows cols : Nat) : Word := BitVec.ofNat 64 (c + rows * 2 ^ 4 + cols * 2 ^ 12)
def numeric : List Nat := [0, 1, 2, 3, 4, 5, 6, 7]
theorem witness_VectorArithmetic : (∀ c ∈ numeric, ∀ n ∈ [1, 2, 3], vecOk (viewShape c 1 1) fl n numeric = true) ∧
    vecOk (viewShape 0 64 8) fl 3 numeric = true ∧ vecOk (viewShape 7 1 2047) fl 3 numeric = true := by decide
theorem witness_VectorArithmetic_VADDX : ∀ e ∈ [(0, 1), (2, 4), (2, 6), (3, 5), (3, 7), (4, 6), (5, 7)],
    ({ fl with opx := BitVec.ofNat 7 e.2 } : FL).opxType = e.2 ∧
      vecOk (viewShape e.1 2 2) { fl with opx := BitVec.ofNat 7 e.2 } 2 numeric = true := by decide
theorem witness_VectorBitsAndComparisons : vecOk (viewShape 2 2 2) fl 1 [2, 3, 4, 5, 6, 7] = true ∧
    vecOk (viewShape 1 2 2) { fl with opx := 1 } 1 numeric = true ∧ vecOk (viewShape 1 2 2) fl 3 numeric = true := by decide
theorem witness_VectorMoves : vecOk (viewShape 8 1 2) fl 1 [0, 1, 2, 3, 4, 5, 6, 7, 8] = true ∧ vecOk (viewShape 8 1 2) fl 0 [0, 1, 2, 3, 4, 5, 6, 7, 8] = true ∧
    vecOk (viewShape 6 16 64) fl 2 numeric = true ∧ viewBytes 5 (16 * 64) ≤ 2048 ∧ vecOk (viewShape 6 2 2) fl 0 numeric = true := by decide
theorem witness_SpecialFunctions : ∀ c ∈ [0, 1], vecOk (viewShape c 2 2) fl 1 [0, 1] = true := by decide
theorem witness_VectorConversions : ∀ e ∈ [(2, 4, 0, 0), (0, 8, 0, 0), (8, 1, 0, 0), (7, 0, 16, 0)],
    let f : FL := { fl with opx := BitVec.ofNat 7 (e.2.1 + e.2.2.1) }
    f.opxType = e.2.1 ∧ convOk f e.1 e.2.1 = true ∧ (shapedEntry 0).xs2 = 0 ∧ viewBytes e.2.1 4 ≤ 2048 ∧ (0 : Nat) < on.launch.m.ncb ∧
      vecOk (viewShape e.1 2 2) f 1 [0, 1, 2, 3, 4, 5, 6, 7, 8] = true := by decide
theorem witness_VectorConversions_offset : let e : Entry := { shapedEntry (viewShape 2 2 2) with xs2 := 3 }
    e.xs2.toNat + shapeRows e.shape ≤ 64 ∧ viewBytes 4 ((e.xs2.toNat + shapeRows e.shape) * shapeCols e.shape) ≤ 2048 := by decide
theorem witness_QuotientsAreExact : (3 : Nat) ≠ 0 ∧ f32.val 0x40400000 = .fin false 12582912 (-22) := by decide +kernel
/-- A codebook whose entries are all the same number, one all of NaNs, and one of infinities. -/
theorem witness_ConversionsRoundOnce : (1 : Nat) ≠ 0 ∧ cbEntry 0 3 ≠ .nan ∧ (cbEntry 0 3).isInf = false ∧
    (∀ i < 16, cbEntry (BitVec.allOnes 256) i = .nan) ∧ (typeSigned 6 = true ∧ typeSigned 7 = false) ∧ (0 : Mode) = 0 := by decide +kernel
theorem witness_ConversionsRoundOnce_infinite : let cb : BitVec 256 := BitVec.ofNat 256 ((List.range 16).foldl (fun n i => n + 0x7F80 * 2 ^ (16 * i)) 0)
    ∀ i < 16, (cbEntry cb i).isInf = true := by decide +kernel
theorem witness_VectorConversions_blocks : vecOk (viewShape 6 2 33) fl 2 [4, 5, 6, 7, 8] = true ∧ vecOk (viewShape 1 2 33) fl 2 [0, 1] = true ∧
    viewBytes 1 (2 * ((33 + 31) / 32)) ≤ 2048 := by decide
/-- The entry with SK, whose first source is skipped, may start on its first `n` sources. -/
def skipping (sh : Word) : State := (vec sh).setTile (vecOp (vec sh) fl.ta 0).key { Tile.default with skip := true }
def skipOk (sh : Word) (f : FL) (n : Nat) (types : List Nat) : Bool :=
  let s := skipping sh
  let c := effType f sh
  !shapeReserved sh && types.contains c && rowsOk (shapeRows sh) && colsOk (shapeCols sh) && viewBytes c (shapeRows sh * shapeCols sh) ≤ 2048 &&
    f.sk = 1 && (vecOp s f.ta 0).mode != 0 && (s.tile (vecOp s f.ta 0).key).skip &&
    match s.startTiles (s.cur * 8 + 2) (strict (0 : Word)) (sources s f n) [s.entryOp f.dt 0 false] with | .starts _ => true | _ => false
theorem skip_ready {sh : Word} {f : FL} {n : Nat} {types : List Nat} (h : skipOk sh f (n + 1) types = true) :
    ∃ s1, Skips (skipping sh) s1 2 f (shapedEntry sh) (sources (skipping sh) f (n + 1)) [(skipping sh).entryOp f.dt 0 false] := by
  simp only [skipOk, Bool.and_eq_true, bne_iff_ne, decide_eq_true_eq] at h
  obtain ⟨⟨⟨⟨_, h1⟩, h2⟩, h3⟩, h4⟩ := h
  revert h4
  split
  · next s1 hs => exact fun _ => ⟨s1, ⟨rfl, [], rfl⟩, hs, h1, _, List.Mem.head _, h2, h3⟩
  · exact fun h => nomatch h
def fk : FL := { fl with sk := 1 }
theorem witness_SkipsPropagate : (∀ c ∈ numeric, ∀ n ∈ [1, 2, 3], skipOk (viewShape c 2 2) fk n numeric = true) ∧
    skipOk (viewShape 8 2 2) fk 1 [0, 1, 2, 3, 4, 5, 6, 7, 8] = true ∧ (fk.opx.getLsbD 0 = false ∧ ({ fk with opx := 1 } : FL).opx.getLsbD 0 = true) := by decide
theorem witness_SkipsPropagate_conversions :
    (∀ e ∈ [(2, 4, 1), (8, 1, 1), (6, 0, 2)], let f : FL := { fk with opx := BitVec.ofNat 7 e.2.1 }
      f.opxType = e.2.1 ∧ skipOk (viewShape e.1 2 2) f e.2.2 [0, 1, 2, 3, 4, 5, 6, 7, 8] = true ∧ convOk f e.1 e.2.1 = true ∧
        viewBytes e.2.1 4 ≤ 2048 ∧ viewBytes e.1 4 ≤ 2048) ∧ (shapedEntry 0).xs2 = 0 ∧ (0 : Nat) < on.launch.m.ncb := by decide


/-- An entry at the head of the matrix queue, and the words of FQ; its operands are tiles 1, 33 and 65. -/
def mat (e : Entry) (fq : List Word) : State :=
  { at' { Stream.default with matrixQ := queued e, fq := fq, lastDrained := some 3 } with actor := .engine 1 }
def fm : FL := { fl with ta := 0x4001, tb := 0x4021, tc := 0x4041, dt := 0x4003 }
def matOk (s : State) (srcs dsts : List Operand) : Bool := match s.startTiles (s.cur * 8 + 1) false srcs dsts with | .starts _ => true | _ => false
theorem mat_ready {fq : List Word} {srcs dsts : List Operand} (h : matOk (mat entry fq) srcs dsts = true) :
    ∃ s1, MatrixReady (mat entry fq) s1 fm entry srcs dsts := by
  revert h
  unfold matOk
  split
  · next s1 hs => exact fun _ => ⟨s1, ⟨rfl, [], rfl⟩, hs, rfl, .inl rfl⟩
  · exact fun h => nomatch h
def matOp (t : BitVec 16) (m : Bool) : Operand := (mat entry []).entryOp t 0 m
/-- A matrix entry with SK whose operand TA, or TB, is skipped. -/
def matSkip (fq : List Word) : State := ((mat entry fq).setTile 1 { Tile.default with skip := true }).setTile 33 { Tile.default with skip := true }
def matSkipOk (f : FL) (fq : List Word) (tops : List (BitVec 16)) : Bool :=
  let s := matSkip fq
  let srcs := tops.map fun t => s.entryOp t 0 true
  f.sk = 1 && srcs.any (fun o => o.mode != 0 && (s.tile o.key).skip) &&
    match s.startTiles (s.cur * 8 + 1) (strict (0 : Word)) srcs [] with | .starts _ => true | _ => false
theorem mat_skip_ready {f : FL} {fq : List Word} {tops : List (BitVec 16)} (h : matSkipOk f fq tops = true) :
    ∃ s1, Skips (matSkip fq) s1 1 f entry (tops.map fun t => (matSkip fq).entryOp t 0 true) [] := by
  simp only [matSkipOk, Bool.and_eq_true, decide_eq_true_eq, List.any_eq_true, bne_iff_ne] at h
  obtain ⟨⟨h1, o, ho, h2, h3⟩, h4⟩ := h
  revert h4
  split
  · next s1 hs => exact fun _ => ⟨s1, ⟨rfl, [], rfl⟩, hs, h1, o, ho, h2, h3⟩
  · exact fun h => nomatch h
def fmk : FL := { fm with sk := 1 }
theorem witness_SkipsPropagate_matrix : ([0, 0x11, 0x22, 0x100011] : List Word).all (fun w => matSkipOk fmk [w] [fmk.ta, fmk.tb] &&
      matSkipOk fmk [w] [fmk.ta, fmk.tb, fmk.tc] && matSkipOk fmk [w] [fmk.tb]) = true := by decide
theorem witness_SkipsPropagate_matrix_loads : (∀ c ∈ [0, 1, 2, 6], ({ fmk with opx := BitVec.ofNat 7 c } : FL).opxType = c) ∧
    matSkipOk fmk [] [fmk.ta] = true ∧ (matSkip [0]).st.fq = [0] ∧ (matSkip [0]).st.lastDrained = some 3 := by decide
theorem witness_BlocksRoundTwice : (List.replicate 32 Val.nan).length = 32 := by rw [List.length_replicate]
/-- 1 · −3 at a scale of 2 is −6, and one infinity makes a block infinite. -/
theorem witness_BlocksRoundTwice_value : BlockValue [.fin false 1 0] [.fin true 3 0] (.fin false 1 0) (.fin false 1 1) (.fin true 6 0) 0 := by
  unfold BlockValue
  refine ⟨fun h => ?_, fun _ h => ?_, fun _ _ _ neg h => ?_, fun _ _ _ _ _ => ⟨rfl, true, 6, 0, rfl, by decide +kernel, ?_⟩⟩
  · simp at h
  · simp [Val.isInf, Val.isZero] at h
  · simp [Val.isInf] at h
  · refine ⟨fun _ => ⟨fun _ => by decide, fun _ => .inl (by decide +kernel)⟩, fun _ => rfl⟩
theorem witness_MatrixProducts : (0x100011 : Word).extractLsb' 28 4 = 0 ∧ (0x100011 : Word).getLsbD 20 = true ∧
    (0x100011 : Word).getLsbD 22 = false ∧ (0x100011 : Word).getLsbD 23 = fm.sat.getLsbD 0 := by decide
theorem witness_MatrixProducts_words : ([0, 0x11, 0x22] : List Word).all (fun w => w.extractLsb' 28 4 == 0 && !w.getLsbD 20 && !w.getLsbD 22 &&
    !w.getLsbD 23) = true ∧ fm.sat.getLsbD 0 = false := by decide
theorem witness_MatrixProducts_ready : ([0, 0x11, 0x22, 0x100011] : List Word).all (fun w =>
    matOk (mat entry [w]) [matOp fm.ta true, matOp fm.tb true, matOp fm.tc true] [] &&
    matOk (mat entry [w]) [matOp fm.ta true, matOp fm.tb true] [] && matOk (mat entry [w]) [matOp fm.tb true] []) = true := by decide
theorem witness_MatrixProducts_flags : topTile fm.ta / 32 ≠ topTile fm.tb / 32 ∧ topTile fm.tb / 32 ≠ topTile fm.tc / 32 ∧
    topTile fm.ta / 32 ≠ topTile fm.tc / 32 ∧ entry.unbound = false ∧ (mat entry []).st.lastDrained = some 3 ∧ (0 : Nat) < on.launch.m.ncb ∧
    ({ fm with opx := 1 } : FL).opx.getLsbD 0 = true := by decide
theorem witness_MatrixChecksBeforeStart : (mat entry [3]).st.stopped = false ∧ 3 ≤ (((mat entry [3]).st.fq.headD 0).extractLsb' 0 4).toNat ∧
    3 ≤ (((mat entry [0x30]).st.fq.headD 0).extractLsb' 4 4).toNat ∧ ((mat entry [1 <<< 28]).st.fq.headD 0).extractLsb' 28 4 ≠ 0 ∧
    topTile fm.ta / 32 ≠ topTile fm.tb / 32 ∧ fm.opx.getLsbD 0 = false ∧ ({ fm with opx := 1 } : FL).opx.getLsbD 0 = true ∧
    topTile fm.ta / 32 = topTile ({ fm with tc := 0x4002 } : FL).tc / 32 ∧
    topTile fl.ta / 32 = topTile fl.tb / 32 ∧ ({ entry with unbound := true } : Entry).unbound = true ∧
    (mat { entry with unbound := true } []).actor = .engine 1 := by decide
theorem witness_AccumulatorTransfers : (∀ c ∈ [0, 2, 1, 6], ({ fm with opx := BitVec.ofNat 7 c } : FL).opxType = c) ∧
    matOk (mat entry []) [] [matOp fm.dt false, { matOp fm.dt false with key := 4, num := 4 }] = true ∧
    matOk (mat entry []) [] [matOp fm.dt false] = true ∧ matOk (mat entry []) [] [] = true := by decide
theorem witness_AccumulatorTransfers_sources : 
    matOk (mat entry []) [matOp fm.ta true, { matOp fm.ta true with key := 2, num := 2 }] [] = true ∧
    matOk (mat entry []) [matOp fm.ta true] [matOp fm.dt false] = true ∧ (fm.imm.extractLsb' 0 6).toNat < on.launch.m.ncb ∧
    entry.xs1.toNat % 32 = 0 := by decide


/-! The Porter -/

/-- An iterator record in scratchpad at 0: one dimension of `n` elements of 32 bits, 4 bytes apart, from scratchpad byte 0. -/
def walkMem (n : Nat) : List (Nat × Byte) :=
  [(8, 2), (9, 1), (0x10, BitVec.ofNat 8 n), (0x11, BitVec.ofNat 8 (n / 256)), (0x18, BitVec.ofNat 8 n),
   (0x19, BitVec.ofNat 8 (n / 256)), (0x20, 4)].filterMap fun e => if e.2 = (0 : Byte) then none else some (Place.base .spad + e.1, e.2)
def walkRecord (n : Nat) : BitVec 512 := BitVec.ofNat 512 (n * 2 ^ 128 + n * 2 ^ 192 + 4 * 2 ^ 256 + 0x102 * 2 ^ 64)
/-- An entry of operation `o` at the head of the Porter's queue, with that record. -/
def onWalk (o n : Nat) : Entry × State :=
  let e : Entry := { entry with w0 := BitVec.ofNat 64 o }
  (e, { at' { Stream.default with porterQ := queued e } with actor := .engine 3, mem := walkMem n })
def recordOk (o n : Nat) : Prop :=
  (onWalk o n).1.recordAt = some 0 ∧ walkRecord n = BitVec.ofNat 512 ((onWalk o n).2.readLE ((onWalk o n).2.spadPlace (onWalk o n).2.cur 0) 64) ∧
    (onWalk o n).2.channelBusy 0 (onWalk o n).1.channel = false ∧ (onWalk o n).2.st.storesBefore (onWalk o n).1.mark ((onWalk o n).2.spadPlace (onWalk o n).2.cur 0) 64 = false ∧
    recordCheck (onWalk o n).1 fl (onWalk o n).2.launch.m.spad (walkRecord n) 0 = none ∧ recDspace (walkRecord n) = 1
def porterStarts (s : State) (srcs dsts : List Operand) : Bool :=
  match s.startTiles (s.cur * 8 + 3) false srcs dsts with | .starts _ => true | _ => false
theorem record_ready {o n : Nat} (h : recordOk o n) :
    RecordReady (onWalk o n).2 (onWalk o n).2 fl (onWalk o n).1 0 (walkRecord n) ∧ (onWalk o n).2.poison = [] := by
  obtain ⟨h1, h2, h3, h6, h4, h5⟩ := h
  exact ⟨⟨⟨rfl, [], rfl⟩, h1, h2, h3, h6, (fun x hx => nomatch hx), rfl, h4, by
    rw [if_neg (by rw [h5]; exact fun h => absurd h.2 (by decide))]⟩, rfl⟩
theorem witness_PorterEntriesStart : ∀ o ∈ [0xE8, 0xE9, 0xEA, 0xEB], recordOk o 512 := by dsimp only [recordOk]; decide +kernel
theorem witness_PorterEntriesStart_tiles : let s := (onWalk 0xE8 512).2
    porterStarts s [] [s.entryOp fl.dt 0 false] = true ∧ porterStarts s [s.entryOp fl.ta 0 false] [] = true ∧ porterStarts s [] [] = true ∧
    porterStarts s [] [{ s.entryOp fl.dt 0 false with key := 3, num := 3 }, { s.entryOp fl.dt 0 false with key := 4, num := 4 }] = true ∧
    ({ fl with opx := 1 } : FL).opx.getLsbD 0 = true ∧ fl.opx.getLsbD 0 = false ∧ fl.opx.getLsbD 2 = false := by decide
def loads : FL := { fl with ta := 0, tb := 0, tc := 0, dt := 0x4003 }
/-- The TLOAD `loads` runs on a record of one element. -/
def loading : Running :=
  { unit := 3, entry := { entry with w0 := (Instr.tload loads).word0, w1 := (Instr.tload loads).word1 }, marks := [],
    versions := [{ tile := 3, bytes := [], quota := 0, skip := false }], flags := 0, progress := 0, total := 1, codebook := none, paging := none,
    porter := some { record := walkRecord 1 } }
def inLoad : State := { at' { Stream.default with running := [loading] } with mem := walkMem 1 }
theorem witness_TileLoadsGather : inLoad.runs 0 = true ∧ loading.entry.fields = some (.tload loads, loads) ∧ loading.entry.op = 0xE8 ∧
    loading.entry.w0.getLsbD 56 = false ∧ loading.total = recCount (walkRecord 1) ∧ recOk (walkRecord 1) = true ∧ recSpace (walkRecord 1) = 0 ∧
    recAdv (walkRecord 1) = 0 ∧ loading.total * recSize (walkRecord 1) ≤ 2048 ∧ (inLoad.stream 0).running = [loading] ∧
    inLoad.inp.upto = none ∧ inLoad.own = [] ∧ recAddr (walkRecord 1) 0 = some 0 ∧ 0 % recSize (walkRecord 1) = 0 := by decide +kernel
theorem witness_TileLoadsGather_place : inLoad.locate (channelWho 0 0) 1 0 4 true false = (.ok (inLoad.spadPlace 0 0) none none, inLoad) :=
  Prod.ext (by decide) rfl
/-- The scratchpad lent to channel 0 of stream 0. -/
def lent : Region := { mine with state := .lent, holder := channelId 0 0, lender := streamId 0 }
/-- An instruction that writes memory runs with that record, and its channel holds the scratchpad. -/
def writing (i : Instr) : Running :=
  { unit := 3, entry := { entry with w0 := i.word0, w1 := i.word1, xs1 := 64 }, marks := [], versions := [], flags := 0, progress := 0,
    total := 1, codebook := none, paging := none, porter := some { record := walkRecord 1, data := [1, 2, 3, 4] } }
def inStore (i : Instr) (upto : Option Nat) : State :=
  { at' { Stream.default with running := [writing i] } with
      mem := walkMem 1, regions := [(Place.base .spad, lent)], inp := { upto := upto } }
def saves : FL := { fl with dt := 0, ta := 0x4003, tb := 0, tc := 0 }
def stores (i : Instr) (f : FL) : Bool :=
  let s := inStore i none
  let x := writing i
  let r := walkRecord 1
  s.runs 0 && s.inp.a = 0 && s.inp.b = 0 && s.inp.c = 0 && (s.stream 0).running = [x] && x.entry.fields = some (i, f) &&
    x.total = recCount r && recOk r && recAdv r = 0 && recDest r && recSpace r = 0 && s.poison = [] && s.own = [] && s.launch.m.replay = 0 &&
    s.regionAt (s.spadPlace 0 0) = some (Place.base .spad, lent) && lent.holder = channelId 0 x.entry.channel && x.entry.xs1.toNat = 64 &&
    (s.spadPlace 0 0 = Place.base .spad) && recAddr r 0 = some 0 && 0 % recSize r = 0 && recSize r = 4
theorem witness_TileStoresScatter : stores (.tstore saves) saves = true ∧ (writing (.tstore saves)).entry.op = 0xE9 ∧
    stores (.cxfer saves) saves = true ∧ (writing (.cxfer saves)).entry.op = 0xEB ∧ (writing (.cxfer saves)).entry.opx 2 = false ∧
    stores (.cxfer { saves with opx := 8 }) { saves with opx := 8 } = true ∧ ({ saves with opx := 8 } : FL).cxOp = 1 := by decide +kernel
theorem witness_TileStoresScatter_place : ∀ i ∈ [Instr.tstore saves, .cxfer saves, .cxfer { saves with opx := 8 }], ∀ m ∈ [(true, false), (false, true)],
    ((inStore i none).locate (channelWho 0 0) 1 0 4 m.1 m.2).1 = .ok ((inStore i none).spadPlace 0 0) none none := by decide +kernel
theorem scratchpad_keeps (s : State) (w : Who) (a n : Nat) (load store : Bool) : (s.locate w 1 a n load store).2 = s := by
  simp [State.locate]
/-- BCOPY of 4 bytes at 0 to scratchpad byte 64. -/
def copies : FL := { saves with ta := 0, opx := 4 }
theorem witness_CopiesGather : stores (.bcopy copies) copies = true ∧ (writing (.bcopy copies)).entry.op = 0xEA ∧
    (writing (.bcopy copies)).entry.opx 0 = false ∧ copies.dspace = 1 ∧ 64 + 1 * 4 ≤ 2 ^ 20 ∧ 0 + 4 ≤ 64 := by decide +kernel
theorem witness_CopiesGather_places : ∀ a ∈ [64, 65, 66, 67], ∀ m ∈ [1, 2, 3, 4],
    (inStore (.bcopy copies) none).regionAt ((inStore (.bcopy copies) none).spadPlace 0 a) = some (Place.base .spad, lent) ∧
    ((inStore (.bcopy copies) none).locate (channelWho 0 0) 1 a m false true).1 = .ok ((inStore (.bcopy copies) none).spadPlace 0 a) none none := by
  decide +kernel

/-- A transfer between cores, whose other rank is 0. -/
def crossing : FL := { fl with opx := 4 }
def atPorter : State := { at' { Stream.default with porterQ := queued entry } with actor := .engine 3 }
theorem witness_TileTransfersAndWaits : let s := atPorter
    crossing.opx.getLsbD 2 = true ∧ crossing.opx.getLsbD 0 = false ∧ crossing.cxOp = 0 ∧ s.channelBusy s.cur entry.channel = false ∧
    entry.xs1.toNat < 8 ∧ entry.xs1.toNat < s.launch.m.ncore ∧ s.launch.m.ncore ≤ ({ entry with xs1 := 1 } : Entry).xs1.toNat ∧
    porterStarts s [s.entryOp crossing.ta 0 false]
      [{ key := s.rankTileKey s.cur 0 (topTile crossing.dt), num := topTile crossing.dt, mode := topMode crossing.dt, exp := 0, mark := false }] = true ∧
    porterStarts s [] [] = true ∧ porterStarts s [] [s.entryOp crossing.dt 0 false] = true ∧ s.st.onPorter.isEmpty = true := by decide
/-- A transfer to a tile that is to end. -/
def transferring : Running :=
  { writing (.cxfer { saves with dt := 0x4001, opx := 4 }) with
      versions := [{ tile := 1, bytes := [(0, 7)], quota := 2, skip := false }], porter := none }
theorem witness_TileTransfersAndWaits_ends : let u := at' { Stream.default with running := [transferring] }
    u.runs 0 = true ∧ (u.stream 0).running = [transferring] ∧ transferring.entry.op = 0xEB ∧ transferring.entry.opx 2 = true ∧
    (match exec .engineEntryComplete u with | .next t => (t.tile 1).count == 1 | _ => false) = true ∧ ({ crossing with opx := 12 } : FL).cxOp = 1 ∧
    (0 : Nat) < 8 ∧ atPorter.own = [] := by
  refine ⟨by decide, rfl, by decide, by decide, by decide +kernel, by decide, by decide, rfl⟩
theorem witness_TileTransfersAndWaits_busy : ∃ x ∈ inLoad.st.onPorter, x.entry.onChannel = true ∧ x.entry.channel = entry.channel :=
  ⟨loading, List.Mem.head _, by decide⟩

/-! The Assayer -/

/-- Tiles 3 and 4, 5 and 6 into 1 and 2. -/
def fs : FL := { fl with ta := 0x4003, tb := 0x4005 }
/-- An entry at the head of the Assayer's queue, on tiles that hold an empty summary: a sketch (0), a list of heavy hitters (1), a set of
registers (2). -/
def summary (kind : Nat) : List (Nat × Byte) :=
  [3, 5].flatMap fun t => if kind = 0
    then [(tilePlace t + 4, 7), (tilePlace t + 0x1E, 0x80), (tilePlace t + 0x1F, 0x7F), (tilePlace t + 0x22, 0x80), (tilePlace t + 0x23, 0xFF)]
    else [(tilePlace t, BitVec.ofNat 8 kind)]
def assay (sh : Word) (kind : Nat) : State :=
  { at' { Stream.default with assayerQ := queued (shapedEntry sh) } with actor := .engine 4, mem := summary kind }
def assayStarts (s : State) (srcs dsts : List Operand) : Bool :=
  match s.startTiles (s.cur * 8 + 4) (strict (0 : Word)) srcs dsts with | .starts _ => true | _ => false
theorem summary_ready {sh : Word} {n : Nat} {srcs dsts : List Operand} (h : assayStarts (assay sh n) srcs dsts = true) :
    ∃ s1, SummaryReady (assay sh n) s1 fs (shapedEntry sh) srcs dsts := by
  revert h
  unfold assayStarts
  split
  · next s1 hs => exact fun _ => ⟨s1, ⟨rfl, [], rfl⟩, hs, rfl, .inl rfl⟩
  · exact fun h => nomatch h
/-- An Assayer entry with SK whose first source is skipped. -/
def assaySkip (sh : Word) (kind : Nat) : State := (assay sh kind).setTile 3 { Tile.default with skip := true }
def assaySkipOk (sh : Word) (kind : Nat) (srcs dsts : List Operand) : Bool :=
  let s := assaySkip sh kind
  srcs.any (fun o => o.mode != 0 && (s.tile o.key).skip) &&
    match s.startTiles (s.cur * 8 + 4) (strict (0 : Word)) srcs dsts with | .starts _ => true | _ => false
theorem assay_skip_ready {sh : Word} {n : Nat} {srcs dsts : List Operand} (h : assaySkipOk sh n srcs dsts = true) :
    ∃ s1, Skips (assaySkip sh n) s1 4 { fs with sk := 1 } (shapedEntry sh) srcs dsts := by
  simp only [assaySkipOk, Bool.and_eq_true, List.any_eq_true, bne_iff_ne] at h
  obtain ⟨⟨o, ho, h2, h3⟩, h4⟩ := h
  revert h4
  split
  · next s1 hs => exact fun _ => ⟨s1, ⟨rfl, [], rfl⟩, hs, rfl, o, ho, h2, h3⟩
  · exact fun h => nomatch h
def on1 (t : BitVec 16) (m : Bool) : Operand := (assay 0 0).entryOp t 0 m
def on2 (t : BitVec 16) (m : Bool) : List Operand := [on1 t m, { on1 t m with key := (on1 t m).key + 1, num := (on1 t m).num + 1 }]
theorem witness_SummariesTakeElements : ∀ n ∈ [0, 1, 2],
    assayStarts (assay (viewShape 0 2 2) n) [] [on1 fs.dt false] = true ∧ assayStarts (assay 0 n) [] (on2 fs.dt false) = true ∧
    assayStarts (assay (viewShape 0 2 2) n) (on2 fs.ta true ++ [on1 fs.tb true]) (on2 fs.dt false) = true ∧
    assayStarts (assay (viewShape 0 2 2) n) [on1 fs.ta true, on1 fs.tb true] [on1 fs.dt false] = true := by decide
theorem witness_SkipsPropagate_assayer : (∀ n ∈ [0, 1, 2],
      assaySkipOk (viewShape 0 2 2) n (on2 fs.ta true ++ [on1 fs.tb true]) (on2 fs.dt false) = true ∧
      assaySkipOk (viewShape 0 2 2) n [on1 fs.ta true, on1 fs.tb true] [on1 fs.dt false] = true ∧
      assaySkipOk 0 n (on2 fs.ta true ++ on2 fs.tb true) (on2 fs.dt false) = true ∧ assaySkipOk 0 n (on2 fs.ta true) [on1 fs.dt false] = true ∧
      assaySkipOk 0 n [on1 fs.ta true] [on1 fs.dt false] = true) ∧
    ∀ c ∈ numeric, shapeReserved (viewShape c 2 2) = false ∧ shapeType (viewShape c 2 2) = c ∧ rowsOk (shapeRows (viewShape c 2 2)) = true ∧
      colsOk (shapeCols (viewShape c 2 2)) = true ∧ viewBytes c (shapeRows (viewShape c 2 2) * shapeCols (viewShape c 2 2)) ≤ 2048 := by decide
theorem witness_SummariesTakeElements_checks : sketchCheck ((assay 0 0).mem.readLE (tileRead (assay 0 0) fs.ta) 4096) = none ∧
    fieldOf ((assay 0 0).mem.readLE (tileRead (assay 0 0) fs.ta) 4096) 1 1 % 4 ≠ 2 ∧
    hitterCheck ((assay 0 1).mem.readLE (tileRead (assay 0 1) fs.ta) 2048) = none ∧
    registerCheck ((assay 0 2).mem.readLE (tileRead (assay 0 2) fs.ta) 2048) = none := by decide +kernel
theorem witness_SummariesTakeElements_views : (∀ c ∈ numeric, ViewReady (shapedEntry (viewShape c 2 2)) [c]) ∧
    (0 : Nat) + shapeRows (viewShape 0 2 2) ≤ 64 ∧ (∀ k ∈ [0, 1, 2, 3, 4, 5], ({ fs with imm := BitVec.ofNat 12 k } : FL).imm.toNat % 16 = k) ∧
    (assay 0 0).launch.m.replay = 0 := by
  dsimp only [ViewReady]; decide
theorem witness_SummariesMergeAndAnswer : ∀ n ∈ [0, 1, 2],
    assayStarts (assay 0 n) (on2 fs.ta true ++ on2 fs.tb true) (on2 fs.dt false) = true ∧
    assayStarts (assay 0 n) (on2 fs.ta true) [on1 fs.dt false] = true ∧ assayStarts (assay 0 n) [on1 fs.ta true] [on1 fs.dt false] = true ∧
    assayStarts (assay 0 n) [on1 fs.ta true, on1 fs.tb true] [on1 fs.dt false] = true := by decide
theorem witness_SummariesMergeAndAnswer_checks : sketchCheck ((assay 0 0).mem.readLE (tileRead (assay 0 0) fs.tb) 4096) = none ∧
    hitterCheck ((assay 0 1).mem.readLE (tileRead (assay 0 1) fs.tb) 2048) = none ∧
    registerCheck ((assay 0 2).mem.readLE (tileRead (assay 0 2) fs.tb) 2048) = none ∧
    ({ fs with opx := 1 } : FL).opx.getLsbD 0 = true ∧ fs.opx.getLsbD 0 = false := by decide +kernel
theorem witness_SummariesKeepTheirMeaning : ([(5, 1, 0)] : List Hitter).length < 124 ∧ (([(5, 1, 0)] : List Hitter).map Prod.fst).Nodup ∧
    (5, 1, 0) ∈ ([(5, 1, 0)] : List Hitter) ∧ (∀ x ∈ ([(5, 1, 0)] : List Hitter), x.1 ≠ 6) ∧ ([3] : List Int).length + ([4] : List Int).length < 2 ^ 63 := by
  decide

/-- A sketch whose lowest level has `n` items, and whose others are empty. -/
def sketch (n coin : Nat) : Sketch :=
  { coin := coin, topw := 7, altb := 0, xs := 1, n := n, nans := 0, mn := 0, mx := 0x3F800000, levels := List.replicate n 0x3F800000 :: List.replicate 7 [],
    seed := 0 }
theorem witness_SketchesKeepTheirMeaning : ∀ n ∈ [0, 3, 124], let k := sketch n 0
    k.levels.length = 8 ∧ (∀ l ∈ k.levels, l.length ≤ 124) ∧ k.altb < 2 ∧ (k.level 0).length = n ∧ (k.level 1).length ≤ 62 ∧ k.coin = 0 ∧
    (sketch n 1).coin = 1 ∧ k.topw = (sketch 0 0).topw ∧ (∀ h < 8, (k.level h).length + ((sketch 0 0).level h).length ≤ 124) := by decide +kernel
theorem witness_SketchesKeepTheirMeaning_values : f32.val 0x7FC00000 = .nan ∧ f32.val 0x7F800000 = .inf false ∧
    f32.val 0xBF800000 = .fin true 8388608 (-23) ∧ f32.val 0x3F000000 = .fin false 8388608 (-24) ∧ f32.val 0x3F800000 = .fin false 8388608 (-23) ∧
    exactly (f32.val 0xBF800000) < 0 ∧ 0 < exactly (f32.val 0x3F000000) ∧ exactly (f32.val 0x3F000000) < 1 ∧ exactly (f32.val 0x3F800000) = 1 := by
  decide +kernel
theorem witness_MomentsKeepTheirMeaning : f32.val 0x7FC00000 = .nan ∧ (f32.val 0x7F800000).isInf = true ∧
    f32.val 0x3F800000 = .fin false 8388608 (-23) ∧ (f32.val (f32.round 0 (.fin false 1 128)).1).isInf = true ∧
    (f32.val (f32.round 0 (.fin false 1 0)).1).isInf = false := by decide +kernel
theorem witness_LogSumsKeepTheirMeaning : f32.val 0x7FC00000 = .nan ∧ f32.val 0 ≠ .nan ∧ [0x3F800000].foldl (f32.minmax true) 0 ≠ 0xFF800000 ∧
    [0x3F800000].foldl (f32.minmax true) 0 ≠ 0x7F800000 ∧ ([] : List Nat).foldl (f32.minmax true) 0xFF800000 = 0xFF800000 ∧
    [0x7F800000].foldl (f32.minmax true) 0 = 0x7F800000 ∧ f32.minmax true 0xFF800000 0xFF800000 = 0xFF800000 := by decide +kernel
theorem witness_EstimatesAreRounded : (([1, 2] : List Nat).filter (· = 0)).length = 0 ∧
    ∀ n : Nat, ((List.replicate n 0).filter (fun x : Nat => x = 0)).length = n := by
  refine ⟨rfl, fun n => ?_⟩
  rw [List.filter_eq_self.2 (fun x h => by simp [List.eq_of_mem_replicate h]), List.length_replicate]


/-! Collectives -/

/-- COLL with X1 and X2 as its XS1 and XS2, and handle 1 bound as `v` says. -/
def fc : FL := { fl with dt := 0, ta := 0, tb := 0, tc := 0, xs1 := 1, xs2 := 2 }
def calling (x1 x2 : Word) (v : Option Handle) : State :=
  { at' { Stream.default with x := [(1, x1), (2, x2)].filter fun e => e.2 != 0 } with handles := v.toList.map fun h => (1, h) }
def bound (g : Nat) (done : Bool) : Handle := { Handle.default with launch := some 0, gen := some g, completed := done }
theorem witness_CollectivesAreTested : on.actor = .sequencer ∧ (calling 0 0 none).st.guardTrue 0 = true ∧ (calling 0 0 none).st.porterQ.entries.length < 16 ∧
    2 ^ 48 ≤ ((calling 0 (2 ^ 48) none).xr 2).toNat ∧ ((calling 0 (2 ^ 32) none).xr 2).toNat < 2 ^ 48 ∧
    tfind (calling 0 (2 ^ 32) none).handles 1 = none ∧ (bound 0 true).launch = some (calling 0 0 none).launchNo := by decide
theorem witness_CollectivesAreTested_generations :
    ((calling 0 (2 ^ 32) none).xr 2).toNat / 2 ^ 32 = 1 ∧ ((calling 0 (2 ^ 32) none).xr 2).toNat % 2 ^ 32 = 0 ∧
    ((calling 0 (2 ^ 32 + 1) none).xr 2).toNat % 2 ^ 32 = 1 ∧ ((calling 0 (2 ^ 32 + 5) none).xr 2).toNat % 2 ^ 32 = 5 ∧
    tfind (calling 0 (2 ^ 32) (some (bound 0 false))).handles 1 = some (bound 0 false) ∧
    tfind (calling 0 (2 ^ 32 + 1) (some (bound 0 true))).handles 1 = some (bound 0 true) ∧ ({ fc with opx := 1 } : FL).opx.getLsbD 0 = true ∧
    ({ bound 0 true with launch := none } : Handle).launch ≠ some 0 := by decide
theorem witness_CollectivesAreTested_stop : ((calling 1 0 none).xr 1).toNat < 65536 ∧ (calling 1 0 none).xr 2 = 0 ∧
    65536 ≤ ((calling 65536 0 none).xr 1).toNat ∧ (calling 1 1 none).xr 2 ≠ 0 := by decide
/-- A COLL at the head of the Porter's queue, for generation 0 of handle 1, and its loop-nest record of one transfer. -/
def ready (h : Option Handle) : State :=
  { at' { Stream.default with porterQ := queued { entry with xs1 := 0x1000, xs2 := 2 ^ 32 } } with
      actor := .engine 3, handles := h.toList.map fun v => (1, v),
      mem := [(0x5010, 1), (0x5040, 64), (0x5048, 0x80), (0x5049, 0x10), (0x5058, 1)] }
theorem witness_CollectivesAreTested_entries : (ready none).walkerLoad ((ready none).physOf 0) < 4 ∧ (ready none).st.porterQ.paging = none ∧
    tfind (ready none).handles 1 = none ∧ tfind (ready (some (bound 0 false))).handles 1 = some (bound 0 false) ∧
    (match (ready (some (bound 0 false))).readNest 0 ([streamId 0, launchId 0], some 0) (some ((ready none).physOf 0)) 0x1000 1
        (fun p => (ready none).st.storesBefore 0 p 128) (fun sub => { code := 4, sub := sub, args := [] }) [] with | .got r _ _ _ => colArrive r = 0 | _ => false) = true := by decide +kernel
theorem witness_CollectivesAreTested_terem : terem (0 : Word) = false ∧ terem (1 <<< 22 : Word) = true := by decide
theorem witness_CollectivesAreTested_stopEntry : let s : State := { ready none with handles := [(0x1000, bound 0 false)] }
    tfind s.handles (0x1000 % 65536) = some (bound 0 false) ∧ (bound 0 false).launch = some s.launchNo := by decide


/-! The device and its mailbox -/

/-- A stage of the climb, with what comes to it. -/
def climbing (n : Nat) (p : Input) : State := { State.reset with dev := { State.reset.dev with stage := BitVec.ofNat 3 n }, inp := p }
theorem witness_ClimbReachesReady : (∀ n < 7, let d := (climbing n {}).dev
      d.railsGood = true ∧ d.stopped = false ∧ d.halted = false ∧ d.stage.toNat = n) ∧
    (climbing 0 {}).dev.flash.imageA.ecdsa = true ∧ (climbing 0 {}).dev.flash.imageA.lms = true ∧
    (climbing 2 { flags := [true, true, false] }).inp.flags.getD 2 true = false ∧ (climbing 2 { flags := [true, false] }).inp.flags.getD 1 true = false ∧
    (climbing 2 { flags := [false] }).inp.flags.getD 0 true = false ∧ (climbing 2 {}).inp.flags.getD 0 true = true ∧
    (climbing 3 { ok := false }).inp.ok = false ∧ (climbing 3 {}).inp.ok = true := by decide
/-- Other contents of module flash. -/
def flashed (f : Flash) : State := { State.reset with dev := { State.reset.dev with flash := f } }
theorem witness_ClimbReachesReady_flash :
    let f := Flash.default
    let bad : Image := { ecdsa := true, lms := false, digest := 0 }
    let dark := (flashed { f with imageA := bad, imageB := bad }).dev.flash
    ¬ (dark.imageA.ecdsa = true ∧ dark.imageA.lms = true) ∧ ¬ (dark.imageB.ecdsa = true ∧ dark.imageB.lms = true) ∧
    (flashed { f with recordSigned := false }).dev.flash.recordSigned = false ∧ (flashed { f with recordFormed := false }).dev.flash.recordSigned = true ∧
    (flashed { f with recordFormed := false }).dev.flash.recordFormed = false ∧ (flashed { f with imageA := bad }).dev.flash.imageB.lms = true ∧
    ({ State.reset.dev with railsGood := false } : Device).railsGood = false := by decide
/-- A record whose repair entries point into their stores, and two whose entries do not. -/
theorem witness_ClimbReachesReady_repair :
    let stores : List (Nat × Nat) :=
      [(384, 512 * 1024), (384, 1024 * 1024), (384, 256 * 1024), (48, 4096 * 1024), (4, 48 * 2 ^ 20), (4, 64 * 2 ^ 20)]
    let good : Repair := { store := 1, unit := 383, offset := 1024 * 1024 - 1 }
    (∃ x, stores[good.store]? = some x ∧ good.unit < x.1 ∧ good.offset < x.2) ∧ 7 < 8 ∧ 96 * 2 ^ 30 - 1 < 96 * 2 ^ 30 ∧
    ¬ (∃ x, stores[6]? = some x) ∧ ¬ ((8 : Nat) < 8) := by
  refine ⟨⟨_, rfl, by decide, by decide⟩, by decide, by decide, ?_, by decide⟩
  rintro ⟨x, hx⟩; exact nomatch hx
/-- Links train: the host with 16 lanes, port 3 to device 5. -/
def training : State := climbing 6 { a := 16, b := 64, nums := [3 * 4096 + 5] }
theorem witness_ClimbReachesReady_links : training.hostUp = false ∧ training.inp.ok = true ∧ training.inp.a ∈ [4, 8, 16] ∧ training.inp.b ∈ [32, 64, 128] ∧
    training.inp.nums = [3 * 4096 + 5] ∧ 3 < 16 ∧ 5 < 4096 ∧ (training.port 3).up = false := by decide
/-- Alarms fire, under policies that ask to halt and to erase. -/
def alarmed (accepted : Bool) (fired : List Bool) : State :=
  { State.reset with dev := { State.reset.dev with accepted := accepted, flash := { Flash.default with policies := [.log, .halt, .erase, .log] } },
                     inp := { flags := fired } }
theorem witness_AlarmsSagsAndPower : (alarmed true [true]).dev.railsGood = true ∧ (∃ i < 4, (alarmed true [true]).inp.flags.getD i false = true) ∧
    (∃ i < 4, (alarmed true [false, true]).inp.flags.getD i false = true ∧ (alarmed true [false, true]).dev.flash.policies[i]? = some .halt) ∧
    (∃ i < 4, (alarmed true [true, true, true]).inp.flags.getD i false = true ∧
      (alarmed true [true, true, true]).dev.flash.policies[i]? = some .erase) ∧
    (¬ ∃ i < 4, (alarmed true [true]).inp.flags.getD i false = true ∧ (alarmed true [true]).dev.flash.policies[i]? = some .halt) ∧
    (alarmed false [true]).dev.accepted = false := by decide
theorem witness_AlarmsSagsAndPower_power : let sagged := { State.reset.dev with sagging := [(0, true)], postponed := [(0, 7)], sagcnt := [(0, BitVec.allOnes 32)] }
    tget false sagged.sagging 0 = true ∧ State.reset.busyCluster 0 = false ∧ on.busyCluster 0 = true ∧ 7 ≤ tget 0 sagged.postponed 0 ∧
    tget 0 State.reset.dev.postponed 0 < 7 ∧ tget 0 sagged.sagcnt 0 = BitVec.allOnes 32 ∧ (0 : Nat) < 48 ∧
    ({ ok := false } : Input).ok = false ∧ tget 0 ({ State.reset.dev with stretch := [(0, 5)] } : Device).stretch 0 = 4 + 1 := by decide
/-- The Factor has a command with a message. -/
def told (code : Nat) (msg : List (Nat × Byte)) : State :=
  { on with dev := { on.dev with command := some code }, mem := (msg.filter fun e => e.2 != 0).map fun e => (seenAt e.1, e.2) }
/-- The words of a message at 8, 16 and 24. -/
def wordsOf (a b c : Nat) : List (Nat × Byte) := ((bytesLE a 8 ++ bytesLE b 8 ++ bytesLE c 8).zipIdx 8).map fun e => (e.2, e.1)
def tells (code a b c : Nat) : State := told code (wordsOf a b c)
/-- The command is at hand with those words. -/
def isTold (code a b c : Nat) : Bool :=
  let s := tells code a b c
  s.dev.command = some code && s.mem.readLE (seenAt 4) 4 = 0 && s.mem.readLE (seenAt 8) 8 = a && s.mem.readLE (seenAt 16) 8 = b &&
    s.mem.readLE (seenAt 24) 8 = c
theorem isTold_at {code a b c : Nat} (h : isTold code a b c = true) : AtCommand (tells code a b c) code := by
  simp only [isTold, Bool.and_eq_true, decide_eq_true_eq] at h
  exact ⟨h.1.1.1.1, h.1.1.1.2⟩
theorem witness_MailboxCarriesCommands : let s : State := { on with inp := { a := 4092, bytes := [1, 2, 3, 4] } }
    s.dev.ready = true ∧ s.hostUp = true ∧ s.hostContained = false ∧ s.inp.a + s.inp.bytes.length ≤ 4096 ∧ s.inp.a < 4096 ∧ s.dev.busy = false ∧
    ({ s with inp := { a := 4096 } } : State).inp.a = 4096 ∧ s.dev.halted = false ∧ ({ s.dev with busy := true } : Device).busy = true := by decide
theorem witness_MailboxCarriesCommands_answer : let d : Device := { on.dev with answer := some (0, [(8, 5), (4095, 6)]) }
    d.answer = some (0, [(8, 5), (4095, 6)]) ∧ ([(8, 5), (4095, 6)].map Prod.fst : List Nat).Nodup ∧
    (∀ b ∈ ([(8, 5), (4095, 6)] : List (Nat × Byte)), 8 ≤ b.1) ∧ (0 : Nat) < 2 ^ 16 := by decide
theorem witness_MailboxCarriesCommands_commands : isTold 1 0 0 0 = true ∧ isTold 0x7F 0 0 0 = true ∧ on.dev.flash.lmsCounter < 2 ^ 20 ∧
    (flashed { Flash.default with lmsCounter := 2 ^ 20 }).dev.flash.lmsCounter = 2 ^ 20 ∧
    isTold 2 (47 * 2 ^ 32) 0 0 = true ∧ 47 * 2 ^ 32 / 2 ^ 16 % 2 ^ 16 = 0 ∧ 47 * 2 ^ 32 % 2 ^ 16 < 7 ∧ isTold 2 (48 * 2 ^ 32) 0 0 = true ∧ isTold 2 7 0 0 = true ∧
    isTold 2 (2 ^ 16) 0 0 = true := by decide


/-! Work queues -/

/-- A machine whose regions are all the Factor's. -/
def bare (s : State) : State := { s with regions := [] }
/-- A descriptor of 64 slots, all in the data page. -/
def descriptor : List (Nat × Byte) := [(8 + 1, 0x10), (8 + 8, 6), (8 + 0xA, 1), (8 + 0x11, 0x10), (8 + 0x18, 8), (8 + 0x19, 0x10), (8 + 0x20, 0x80), (8 + 0x21, 0x10)]
/-- A queue whose ring is the data page, its indices at the start of the code page. -/
def wq : WorkQueue :=
  { base := 0x1000, logslots := 6, prio := 5, weight := 1, ageceil := 5, submit := 0, widx := 0, ridx := 8, widxPa := 0x4000, ridxPa := 0x4008,
    qfault := 0x80, asid := 0, drain := 0, agelim := 10000, ageq := 0, stalllim := 100, credit := 0, head := none, packet := none,
    stalled := false, unpublished := none, closing := false, notified := true, outstanding := [], waiting := [] }
def withQ (w : WorkQueue) (s : State) : State := { s with queues := [(0, w)] }
theorem witness_QueueCommands : AtCommand (told 0x10 descriptor) 0x10 ∧ descriptorOk ((told 0x10 descriptor).mem.read (seenAt 8) 128) = true ∧
    descriptorOk ((told 0x10 []).mem.read (seenAt 8) 128) = false ∧
    ((told 0x10 descriptor).queuePages 0 [0x1000, 0x1000, 0x1008, 0x1080]).isSome = true ∧ tfind on.queues 0 = none := by
  dsimp only [AtCommand]; decide
theorem witness_QueueCommands_pages : let f := pktField ((told 0x10 descriptor).mem.read (seenAt 8) 128)
    f 0x28 2 = 0 ∧ f 0 8 = 0x1000 ∧ f 8 1 = 6 ∧ f 0x10 8 = 0x1000 ∧ f 0x18 8 = 0x1008 ∧ f 0x20 8 = 0x1080 := by decide
theorem witness_QueueCommands_queues : (∀ c ∈ [0x11, 0x12, 0x13], isTold c 0 0 0 = true) ∧ isTold 0x11 4096 0 0 = true ∧
    tfind (withQ wq (tells 0x11 0 0 0)).queues 0 = some wq ∧ tfind (tells 0x11 0 0 0).queues 0 = none ∧ wq.head = none ∧ wq.packet = none ∧
    ({ wq with head := some 0 } : WorkQueue).head ≠ none ∧ wq.stalled = false ∧ ({ wq with stalled := true } : WorkQueue).stalled = true := by decide
theorem witness_QueueCommands_priority : let a := 5 * 2 ^ 16 + 1 * 2 ^ 24 + 7 * 2 ^ 32
    isTold 0x14 a 0 0 = true ∧ a < 2 ^ 40 ∧ a / 2 ^ 16 % 256 ≤ 127 ∧ a / 2 ^ 24 % 256 ≠ 0 ∧ a / 2 ^ 16 % 256 ≤ a / 2 ^ 32 % 256 ∧ a / 2 ^ 32 % 256 ≤ 127 ∧
    a % 2 ^ 16 < 4096 ∧ isTold 0x14 (2 ^ 40) 0 0 = true ∧ isTold 0x14 0 0 0 = true := by decide
theorem witness_QueueCommands_answer : let s : State := withQ wq { on with dev := { on.dev with answer := some (0, []), setPrio := some [0, 5, 1, 7] } }
    s.dev.answer = some (0, []) ∧ s.dev.setPrio = some [0, 5, 1, 7] ∧ tfind s.queues 0 = some wq ∧ on.dev.memoryKeys = true := by decide

theorem witness_LaunchAndSpaceCommands : isTold 0x20 0 0 0 = true ∧ isTold 0x21 0 0 0 = true ∧ isTold 0x30 0 0 0 = true ∧ isTold 0x31 0 0 0 = true ∧
    isTold 0x31 (2 ^ 31 + 0xFFF * 2 ^ 16) 3 0 = true ∧ (tfind (tells 0x20 0 0 0).launches 0).isSome = true ∧
    ((tells 0x20 0 0 0).launchOf 0).phase ≠ .latched ∧ tfind (tells 0x20 1 0 0).launches 1 = none ∧ 0 < ((tells 0x20 0 0 0).launchOf 0).m.streams := by decide
theorem witness_LaunchAndSpaceCommands_trace : let a := 1 * 2 ^ 16 + 10 * 2 ^ 24
    isTold 0x30 a 0x8000 0 = true ∧ a / 2 ^ 14 % 4 = 0 ∧ a < 2 ^ 32 ∧ 0x8000 % (32 * 2 ^ 10) = 0 ∧ (tells 0x30 a 0x8000 0).factorHolds 0x8000 (32 * 2 ^ 10) = true := by decide
theorem witness_LaunchAndSpaceCommands_spaces : isTold 0x22 0 0x1000 0 = true ∧ tfind (tells 0x22 0 0x1000 0).pageRequests (pageKey 0 0x1000) = none ∧
    (tfind ({ tells 0x22 0 0x1000 0 with pageRequests := [(pageKey 0 0x1000, 0)] } : State).pageRequests (pageKey 0 0x1000)).isSome = true ∧
    isTold 0x40 7 0x8000 0 = true ∧ on.factorHolds 0x8000 4096 = true ∧ tget none on.spaces.roots 7 = none ∧ tget none on.spaces.roots 0 ≠ none ∧
    isTold 0x41 7 0 0 = true ∧ isTold 0x42 (2 ^ 16) 0 0 = true ∧ isTold 0x42 0 0x1000 0 = true ∧ isTold 0x43 (5 * 2 ^ 16 + 2 ^ 32) 0 0 = true ∧
    isTold 0x46 0 0 0 = true ∧ isTold 0x46 (2 ^ 16) 0 0 = true := by decide
theorem witness_LaunchAndSpaceCommands_unused : let s : State := { on with spaces := { on.spaces with roots := [(7, some 0)] } }
    tget none s.spaces.roots 7 ≠ none ∧ (∀ e ∈ s.queues, ¬ (e.1 < 4096 ∧ e.2.asid = 7)) ∧ ∀ e ∈ s.launches, ¬ (e.2.phase ≠ .latched ∧ e.2.asid = 7) := by decide
/-- The data page as a region of the Factor, exclusive or quarantined. -/
def factors (s : State) (r : Region) : State := { s with regions := [(0x5000, { r with holder := Config.factorId })] }
theorem witness_LaunchAndSpaceCommands_quiet (place ls : Nat) : NothingOnItsWay on place ls := quiet_nothing (by decide) place ls
theorem witness_LaunchAndSpaceCommands_regions : isTold 0x44 (12 * 2 ^ 17) 0x1000 (launchId 0) = true ∧ isTold 0x44 (12 * 2 ^ 17 + 2 ^ 16) 0x1000 (launchId 0) = true ∧
    isTold 0x45 (12 * 2 ^ 17) 0x1000 0 = true ∧ 12 * 2 ^ 17 / 2 ^ 17 % 64 = 12 ∧ on.badId (launchId 0) = false ∧ launchId 0 < 2 ^ 32 ∧ launchId 0 ≠ Config.factorId ∧
    (match on.translate farTlb 0 0x1000 with
     | some (leaf, s1) => !leaf.host && !s1.noToken leaf && leaf.pa + 0x1000 % 4096 = 0x5000 && s1.regions = on.regions | none => false) = true ∧
    0x5000 % 2 ^ 12 = 0 ∧ tfind (factors on mine).regions 0x5000 = some { mine with holder := Config.factorId } ∧ mine.state = .excl := by decide


/-! Packets, copies, launches -/

/-- A packet's header byte, its length and words of its body, as bytes. -/
def packet (t len : Nat) (words : List Nat) : List Byte := ([BitVec.ofNat 8 t, 1] ++ bytesLE len 2 ++ bytesLE 7 4 ++ words.flatMap (bytesLE · 8) ++ List.replicate 64 0).take 64
/-- The ring's first slots hold a packet, WIDX is 1, and a manifest stands at 0x100. -/
def ring (p : List Byte) : State :=
  { bare (withQ wq on) with
      mem := [(0x4000, 1), (0x4100, 1), (0x4104, 1), (0x4105, 1), (0x4106, 1), (0x4108, 32), (0x4130, 4)] ++
        (p.zipIdx 0x5000).filterMap fun e => if e.1 = 0 then none else some (e.2, e.1) }
def atHeadOf (s : State) (w : WorkQueue) (bad : Option Nat) : Bool :=
  match s.headPacket w with | some (bs, _) => badPacket bs = bad | none => false
theorem witness_PacketsAndCopies : tfind (ring []).queues 0 = some wq ∧ atHeadOf (ring (packet 0 0 [])) wq none = true ∧
    (ring (packet 0 0 [])).ridx wq < (ring (packet 0 0 [])).widx wq ∧ atHeadOf (ring (packet 9 0 [])) wq (some 1) = true ∧
    ((ring []).headPacket wq).isNone = true ∧ on.widx wq ≤ on.ridx wq ∧
    ({ wq with unpublished := some 0 } : WorkQueue).unpublished = some 0 := by decide
theorem witness_PacketsAndCopies_stall : let late : State := { ring [] with dev := { on.dev with ns := 100000 } }
    (0 : Nat) + wq.stalllim * 1000 ≤ late.dev.ns ∧ (late.headPacket wq).isNone = true ∧ on.dev.ns < 0 + wq.stalllim * 1000 ∧
    (late.distPlace wq.asid wq.qfault).isSome = true ∧ wq.qfault ≠ 0 := by decide
/-- A packet at hand. -/
def latched (p : List Byte) (l : Option ((Nat × Nat) ⊕ Latched)) : Packet := { bytes := p, launch := l, prio := 5, weight := 1, ageceil := 5, ns := 0 }
def having (p : List Byte) : State := { ring [] with queues := [(0, { wq with packet := some (latched p none) })] }
def manifestOk (s : State) (a : Nat) : Bool := match s.readManifest 0 a with | .inr _ => true | .inl _ => false
theorem witness_PacketsAndCopies_kinds : (∀ t ∈ [0, 1, 2, 3, 4], natLE (((packet t 0 []).drop 0).take 1) = t) ∧
    natLE (((packet 1 40 [0x100]).drop 8).take 8) = 0x100 ∧ (having (packet 2 40 [])).copies = [] ∧ (having (packet 3 24 [])).colls = [] ∧
    tfind (having (packet 3 24 [])).handles 0 = none := by decide
theorem witness_PacketsAndCopies_manifest : manifestOk (having (packet 1 40 [0x100])) 0x100 = true ∧ manifestOk on 0x100 = false ∧
    (having (packet 1 40 [0x100])).freeNumber = some 1 ∧ natLE (((packet 1 40 [0x100, 0, 0x200]).drop 0x28).take 1) % 4 = 0 ∧
    natLE (((packet 1 40 [0x100, 0, 0x200]).drop 0x18).take 8) = 0x200 ∧ natLE (((packet 1 40 [0x100, 0, 0x200]).drop 0x20).take 8) = 0 ∧
    (latched [] (some (.inl (1, 2)))).launch = some (.inl (1, 2)) ∧
    (latched [] (some (.inr ⟨Manifest.default, [], []⟩))).launch = some (.inr ⟨Manifest.default, [], []⟩) := by decide +kernel
theorem tfind_map_of_mem {α : Type} (v : α) {n : Nat} : ∀ {l : List Nat}, n ∈ l → tfind (l.map fun i => (i, v)) n = some v
  | i :: l, h => by
    by_cases e : n = i
    · simp [tfind, e]
    · simp only [List.map_cons, tfind, if_neg e]
      exact tfind_map_of_mem v ((List.mem_cons.1 h).resolve_left e)
theorem witness_PacketsAndCopies_none : ∃ s : State, s.freeNumber = none ∧ tfind s.queues 0 = some { wq with packet := some (latched (packet 1 40 [0x100]) none) } := by
  refine ⟨{ having (packet 1 40 [0x100]) with launches := (List.range 16384).map fun l => (l, lau) }, ?_, rfl⟩
  refine List.find?_eq_none.2 fun l hl => ?_
  simp [State.numberUsed, tfind_map_of_mem lau hl]
theorem witness_PacketsAndCopies_signal : let w : WorkQueue := { wq with waiting := [(packet 4 16 [0x200], [])] }
    w.waiting = [(packet 4 16 [0x200], [])] ∧ natLE (((packet 4 16 [0x200]).drop 0x10).take 1) % 2 = 0 ∧
    natLE (((packet 4 16 [0x200]).drop 8).take 8) ≠ 0 ∧ ((ring []).distPlace 0 0x200).isSome = true ∧
    ({ wq with waiting := [(packet 4 16 [], [(0, 1)])] } : WorkQueue).waiting = [(packet 4 16 [], [(0, 1)])] := by decide
/-- A copy of 8 bytes from 0x40 to 0x1000. -/
def copying : Copy := { queue := 0, src := 0x40, dst := 0x1000, len := 8, dz := false, tag := 0, complAddr := 0, complHost := false, progress := 0, paging := none }
def inCopy : State := { bare (withQ wq on) with copies := [(0, copying)] }
theorem witness_CopiesMoveTheirBytes : inCopy.dev.memoryKeys = true ∧ copying.complAddr = 0 ∧ 0 < copying.len ∧ tfind inCopy.copies inCopy.inp.a = some copying ∧ copying.paging = none ∧ copying.src % 64 + copying.len ≤ 64 ∧
    copying.dst % 64 + copying.len ≤ 64 ∧ inCopy.inp.upto = none ∧ inCopy.poison = [] ∧
    (match inCopy.outsideSpot (inCopy.copyAsid copying) [Config.hostId, Config.factorId] 1 true copying.src true false with
     | (.ok p _ none, s1) => p = 0x4040 &&
       (match s1.outsideSpot (inCopy.copyAsid copying) [Config.hostId, Config.factorId] 1 true copying.dst false true with
        | (.ok d _ none, s2) => (s2.widxAt d 8).isNone | _ => false)
     | _ => false) = true := by decide


/-- A launch of `n` clusters and of priority 40 waits for its cores; the incumbent of priority 0 may be killed, drained or checkpointed. -/
def waiting (n : Nat) (policy drain : Nat) : State :=
  { on with launches := [(0, { lau with m := { lau.m with policy := policy }, est := 10 }),
                         (1, { Launch.default with m := { Manifest.default with nclust := n, ncore := 8, nstrm := 8 }, prio := 40, drain := drain })],
            newcomers := [1], inp := { a := 1 } }
theorem witness_LaunchesComeAndGo_selection : let s : State := { waiting 1 0 0 with newcomers := [], queues := [(0, { wq with head := some 1 })] }
    s.dev.halted = false ∧ s.newcomers = [] ∧ s.heads.map Prod.snd ++ s.restorable = [1] ∧ on.heads.map Prod.snd ++ on.restorable = [] := by decide
theorem witness_LaunchesComeAndGo_placement : (waiting 1 0 0).dev.halted = false ∧ 1 ∈ (waiting 1 0 0).newcomers ∧
    ((waiting 1 0 0).launchOf 1).phase = .latched ∧ ((waiting 1 0 0).fitsNow 1).isSome = true ∧ ((waiting 1 0 0).launchOf 1).grants = [] ∧
    ((waiting 1 0 0).launchOf 1).argAddr = 0 ∧ ((waiting 1 0 0).launchOf 1).m.replay = 0 ∧ (waiting 1 0 0).l1 = [] ∧
    (∀ n < ((waiting 1 0 0).launchOf 1).m.faultPages,
      ((waiting 1 0 0).translate farTlb 0 (((waiting 1 0 0).launchOf 1).m.faultq + n * 4096)).isSome = true) ∧ ((waiting 48 0 0).fitsNow 1).isNone = true := by decide +kernel
theorem witness_LaunchesComeAndGo_reevaluation :
    (∀ c ∈ [(0, 2 ^ 63), (1, 0), (2, 0)], let s := waiting 48 c.1 c.2
      (s.fit (s.launchOf 1).m (s.leaving 1) (s.targetsBefore 1) (s.shapeFor 1) (s.roomFor 1)).isNone = true) ∧
    (waiting 48 2 0).walkIncumbents 1 [] [] ((waiting 48 2 0).incumbents 1) = some [(0, .kill)] ∧
    (waiting 48 0 (2 ^ 63)).walkIncumbents 1 [] [] ((waiting 48 0 (2 ^ 63)).incumbents 1) = some [(0, .drain)] ∧
    (waiting 48 0 0).walkIncumbents 1 [] [] ((waiting 48 0 0).incumbents 1) = none := by decide +kernel
/-- The launch in another phase. -/
def inPhase (p : Phase) (f : Launch → Launch) : State := on.setLaunch 0 (f { lau with phase := p })
theorem witness_LaunchesComeAndGo_checkpoint : (on.launchOf 0).m.streams = 1 ∧ (inPhase .stopping id).retireReady 0 = false ∧ ((inPhase .stopping id).launchOf 0).phase = .stopping ∧
    (tfind (inPhase .stopping id).launches 0).isSome = true ∧ ((inPhase .checkpointed id).launchOf 0).phase = .checkpointed ∧
    ((inPhase .checkpointed id).launchOf 0).cores ≠ [] ∧ ((inPhase .killing id).launchOf 0).phase = .killing ∧
    (inPhase .killing id).dev.halted = false := by decide
theorem quiet_of {s : State} (n : Nat) (hn : (s.launchOf 0).m.streams = n)
    (h : ∀ i < n, (s.stream (0 * 4096 + i)).running = [] ∧ (s.stream (0 * 4096 + i)).accesses = []) : Quiet s 0 := fun i hi => h i (hn ▸ hi)
theorem witness_LaunchesComeAndGo_quiet : Quiet (inPhase .stopping id) 0 ∧ Quiet on 0 :=
  ⟨quiet_of 1 (by decide) (by intro i hi; exact ⟨rfl, rfl⟩), quiet_of 1 (by decide) (by intro i hi; exact ⟨rfl, rfl⟩)⟩
/-- A launch to be killed with nothing left to write but its completion word, by LKILL or by a machine check. -/
def dying (fatal : Option Nat) : State := bare (inPhase .killing fun v => { v with complAddr := 0x1000, fatal := fatal })
theorem witness_LaunchesComeAndGo_kill : ∀ c ∈ [none, some 23], ((dying c).launchOf 0).phase = .killing ∧ Quiet (dying c) 0 ∧ Clear (dying c) 0 ∧
    ((dying c).launchOf 0).complHost = false ∧ ((dying c).launchOf 0).complAddr ≠ 0 ∧ ((dying c).launchOf 0).fatal = c ∧
    (match (dying c).distPlace 0 0x1000 with | some (p, s1) => (s1.widxAt p 8).isNone | none => false) = true := by
  intro c hc
  refine ⟨by decide +revert, quiet_of 1 (by decide +revert) (by intro i hi; exact ⟨rfl, rfl⟩), ?_, by decide +revert, by decide +revert, by decide +revert,
    by decide +revert⟩
  exact ⟨rfl, rfl, rfl, rfl, rfl, rfl, by decide +revert, by decide +revert⟩
theorem witness_LaunchesComeAndGo_restore : let s : State := { inPhase .checkpointed (fun v => { v with cores := [] }) with newcomers := [0] }
    s.dev.halted = false ∧ 0 ∈ s.newcomers ∧ (s.launchOf 0).phase = .checkpointed ∧ (s.launchOf 0).cores = [] ∧ s.handlesOf 0 = [] ∧
    (s.fitsNow 0).isSome = true := by decide +kernel
/-- A rollback boundary every 0 microseconds; what the launch has to go back to. -/
def rolled : State := inPhase .placed fun v => { v with m := { v.m with policy := 5 } }
def snapshot : Snapshot :=
  { streams := [(0, Stream.default)], tiles := [], mem := [], poison := [], codebooks := [], tags := [], colls := [], est := 0, waybill := 0, replay := 0 }
theorem witness_LaunchesRollBackAndRetire_quiet : rolled.handlesOf 0 = [] ∧ Quiet rolled 0 :=
  ⟨rfl, quiet_of 1 (by decide) (by intro i hi; exact ⟨rfl, rfl⟩)⟩
theorem witness_LaunchesRollBackAndRetire : (rolled.launchOf 0).m.policy.testBit 2 = true ∧ rolled.retireReady 0 = false ∧
    (tfind rolled.launches 0).isSome = true ∧ (rolled.launchOf 0).resumeNs + (rolled.launchOf 0).m.rbint * 1000 ≤ rolled.dev.ns ∧
    (on.launchOf 0).m.policy.testBit 2 = false := by decide
/-- Two entries of one sector: a byte ends as the older has it. -/
def older : Nat × List Byte × List Nat := (0x5000, List.replicate 256 1, [3])
def newer : Nat × List Byte × List Nat := (0x5000, List.replicate 256 2, [])
theorem witness_LaunchesRollBackAndRetire_rollback :
    let s := inPhase (.rolling true) fun v => { v with snapshot := some snapshot, sectorLog := [newer, older] }
    let v := s.launchOf 0
    v.phase = .rolling true ∧ v.snapshot = some snapshot ∧ snapshot.streams = [(0, Stream.default)] ∧ v.sectorLog = [newer, older] ∧
    (∀ e ∈ [newer, older], e.2.1.length = 256 ∧ e.1 + 256 ≤ 2 ^ 64) ∧ (∀ e ∈ snapshot.mem, 2 ^ 64 ≤ e.1) ∧ (∀ e ∈ snapshot.poison, 2 ^ 64 ≤ e.1) ∧
    v.m.replay = 0 ∧ ([older, newer].find? fun e => decide (e.1 ≤ 0x5003 ∧ 0x5003 < e.1 + 256)) = some older := by
  dsimp only
  refine ⟨by decide, rfl, rfl, rfl, ?_, by decide, by decide, by decide, rfl⟩
  intro e he
  rcases List.mem_cons.1 he with h | h
  · subst h; exact ⟨List.length_replicate, by decide⟩
  · rw [List.mem_singleton.1 h]; exact ⟨List.length_replicate, by decide⟩
/-- A core of the launch is lost, or none is; a token change to take back, and one whose region has changed since. -/
theorem witness_LaunchesRollBackAndRetire_tokens :
    let s := inPhase (.rolling false) fun v => { v with snapshot := some snapshot, tokenLog := [[(0x5000, some lent, some mine)]] }
    (s.launchOf 0).phase = .rolling false ∧ (s.launchOf 0).tokenLog = [[(0x5000, some lent, some mine)]] ∧ tfind s.regions 0x5000 = some mine ∧
    (∃ c ∈ lau.cores, tget false ({ on.dev with coreLost := [(0, true)] } : Device).coreLost c.phys = true) ∧
    (¬ ∃ c ∈ lau.cores, tget false s.dev.coreLost c.phys = true) ∧ lent ≠ mine ∧ lent.state ≠ .orphaned := by
  dsimp only
  exact ⟨by decide, rfl, by decide, ⟨⟨0, [0], 0⟩, by decide, by decide⟩, by decide, by decide, by decide⟩
/-- Every stream has halted; a word of device memory for the completion. -/
def done : State := { bare (inPhase .placed fun v => { v with complAddr := 0x1000 }) with streams := [(0, { Stream.default with halted := true })] }
theorem witness_LaunchesRollBackAndRetire_retire : (done.launchOf 0).phase = .placed ∧ done.dev.halted = false ∧ done.retireReady 0 = true ∧
    done.handlesOf 0 = [] ∧ done.regions = [] ∧ (tfind done.streams 0).isSome = true ∧
    (done.launchOf 0).complHost = false ∧ (done.launchOf 0).complAddr ≠ 0 ∧
    (match done.distPlace 0 0x1000 with | some (p, _) => p + 8 ≤ 2 ^ 64 | none => false) = true ∧ (done.launchOf 0).m.replay ≠ 2 := by decide
theorem witness_LaunchesRollBackAndRetire_clear : Clear done 0 ∧ Quiet done 0 ∧ (done.widxAt 0x5000 8).isNone = true :=
  ⟨⟨rfl, rfl, rfl, rfl, rfl, rfl, by decide, by decide⟩, quiet_of 1 (by decide) (by intro i hi; have : i = 0 := by omega
                                                                                    subst this; exact ⟨rfl, rfl⟩), by decide⟩
/-- A region that it lent is out. -/
def lending : State := { inPhase .retiring id with regions := [(0x5000, { mine with state := .lent, holder := Config.hostId, lender := launchId 0 })] }
theorem witness_LaunchesRollBackAndRetire_lent : (lending.launchOf 0).phase = .retiring ∧ lending.lentOut 0 ≠ [] ∧ (inPhase .retiring id).lentOut 0 = [] ∧
    (lending.launchOf 0).retireNs + (lending.launchOf 0).m.retto * 1000 < ({ lending.dev with ns := 1 } : Device).ns ∧ idOf 0 (launchId 0) = true ∧
    idOf 0 ({ lau with m := { lau.m with returnto := Config.factorId } } : Launch).m.returnto = false ∧
    lending.dev.ns ≤ (lending.launchOf 0).retireNs + (lending.launchOf 0).m.retto * 1000 := by decide
/-- A record is held; its slot is free, or not. -/
def recording (mem : List (Nat × Byte)) : State :=
  { bare (inPhase .placed fun v => { v with m := { v.m with faultq := 0x1000 }, pinned := [(0, 5)], held := [(1 <<< 64 : BitVec 1024)] }) with mem := mem }
theorem witness_LaunchesRollBackAndRetire_records : ((recording []).launchOf 0).held = [(1 <<< 64 : BitVec 1024)] ∧ (recording []).dev.memoryKeys = true ∧
    (tfind (recording []).launches 0).isSome = true ∧ (0x1000 % 4096 + (((1 <<< 64 : BitVec 1024).extractLsb' 64 64).toNat - 1) % 2 ^ 4 * 128) / 4096 = 0 ∧
    tfind ((recording []).launchOf 0).pinned 0 = some 5 ∧ tfind lau.pinned 0 = none ∧ ((recording []).widxAt 0x5000 128).isNone = true ∧
    natLE ((recording []).bytes 0x5000 4) < 2 ^ 31 ∧ 2 ^ 31 ≤ natLE ((recording [(0x5003, 0x80)]).bytes 0x5000 4) := by decide +kernel


/-! What comes back to a stream, errors, links -/

/-- A program of one VADD; the stream that issues it. -/
def longProg : State :=
  let i := Instr.vadd fl
  { on with mem := ((bytesLE i.word0.toNat 8 ++ bytesLE i.word1.toNat 8).zipIdx 0x4000).filterMap fun e => if e.1 = 0 then none else some (e.2, e.1) }
theorem witness_StreamsAreAnswered_append : let me := longProg.about 0
    (me.fetchWord (me.physOf 0) me.launchNo me.st.pc.toNat false).1 = .word (Instr.vadd fl).word0 ∧ isLong (Instr.vadd fl).word0 = true ∧
    (me.fetchWord (me.physOf 0) me.launchNo (me.st.pc.toNat + 8) true).1 = .word (Instr.vadd fl).word1 ∧
    reads (Instr.vadd fl).word0 (Instr.vadd fl).word1 (.vadd fl) = true := by decide
/-- An entry that runs on an engine: it reads tile 2 and makes tile 1. -/
def run (unit : Nat) : Running :=
  { unit := unit, entry := entry, marks := [2], versions := [{ tile := 1, bytes := [(0, 7)], quota := 0, skip := false }], flags := 0, progress := 0,
    total := 0, codebook := none, paging := none, porter := none }
theorem witness_StreamsAreAnswered_complete : ∀ u ∈ [1, 2, 4], (run u).unit = u ∧ (run u).paging.isNone = true ∧ (run u).codebook.isNone = true ∧
    (run u).porter.isNone = true ∧ (run u).marks = [2] ∧ 2 ≠ 1 ∧ tef (run u).entry.ssr &&& (run u).flags = 0 ∧
    (at' { Stream.default with running := [run u] }).runs 0 = true ∧
    (at' { Stream.default with running := [run u] }).inp.c = 0 ∧ (at' { Stream.default with running := [run u] }).poison = [] := by decide
/-- It sets INX, and its stream had the trap of INX on when it was queued, or not. -/
theorem witness_EntryFlagsAreSticky : ({ c := 2 } : Input).c = 2 ∧ tef (0 : Word) &&& (8 : BitVec 6) = 0 ∧
    tef (0x3F0000 : Word) &&& (8 : BitVec 6) ≠ 0 ∧ (run 2).versions = [{ tile := 1, bytes := [(0, 7)], quota := 0, skip := false }] ∧
    (on.launchOf 0).held.length < 64 := by decide
theorem witness_StreamsAreAnswered_running (u : Nat) : ((at' { Stream.default with running := [run u] }).stream 0).running[0]? = some (run u) := rfl
/-- A wait that has lasted for 256 cycles, in a stream whose limit is 256, or 257. -/
def lasting (limit : Nat) (q : Queue) : State :=
  { at' { Stream.default with wait := some { since := 0, tiles := [], tile := none, args := [] }, ssr := BitVec.ofNat 64 (limit * 2 ^ 32), vectorQ := q } with
      dev := { on.dev with acyc := [(0, 256)] } }
def lastingQueue : Queue := { queued { entry with ssr := 0x10000000000 } with wait := some { since := 0, tiles := [], tile := none, args := [] } }
theorem witness_StreamsAreAnswered_timeout : let w : Wait := { since := 0, tiles := [], tile := none, args := [] }
    (lasting 256 Queue.default).st.wait = some w ∧ (lasting 256 Queue.default).st.stopped = false ∧ (lasting 256 Queue.default).st.halted = false ∧
    waitlim (lasting 256 Queue.default).st.ssr ≤ (lasting 256 Queue.default).measure 0 w ∧
    (lasting 257 Queue.default).measure 0 w < waitlim (lasting 257 Queue.default).st.ssr ∧
    ((lasting 257 lastingQueue).st.queue 2).wait = some w ∧ waitlim (0x10000000000 : Word) ≤ (lasting 257 lastingQueue).measure 0 w := by decide
/-- A barrier's wait, of a generation that is released, or not. -/
def barred (released : Nat) : State :=
  group { BarTag.default with gen := 1, released := released } { Stream.default with pend := [(0, 1)], wait := some { since := 0, tag := some 0 } }
theorem witness_StreamsAreAnswered_barrier : (barred 0).st.wait = some { since := 0, tag := some 0 } ∧ ((barred 1).about 0).waitOver 0 0 { since := 0, tag := some 0 } = true ∧
    ((barred 0).about 0).waitOver 0 0 { since := 0, tag := some 0 } = false ∧ (barred 0).runs 0 = true := by decide
/-- A CLAIM that waits for its turn of a replay, which has come. -/
theorem witness_StreamsAreAnswered_turn : let w : Wait := { since := 0, actor := some 0 }
    w.actor.isSome = true ∧ (on.about 0).waitOver 0 0 w = true := by decide
/-- One access has not performed. -/
def pending (p : Access) : State := at' { Stream.default with accesses := [(0, p)], accessNo := 1 }
theorem witness_StreamsAreAnswered_accesses : let here := Place.base .spad
    (∀ t ∈ [Todo.load none, .store [1, 2]], let p := access 0 1 here t
      tfind (pending p).st.accesses (pending p).inp.b = some p ∧ p.failed = false ∧ (pending p).st.blocked 0 p = false ∧
      ((pending p).about 0).mayPerform 0 p = true ∧ (pending p).st.fences = [] ∧ p.leaf = none ∧ p.sem = 0 ∧ p.places = [here]) ∧
    (access 0 5 here (.atomic 0 0 0)).space = 5 ∧ ({ access 0 4 0 (.load none) with failed := true } : Access).failed = true ∧
    (pending (access 0 4 0 (.load none))).st.ssr.getLsbD 22 = false ∧ (at' { Stream.default with ssr := 1 <<< 22 }).st.ssr.getLsbD 22 = true := by decide
/-- A pair in scratchpad, of which either half may perform, or none may. -/
def pairOf (t : Todo) : Access := { access 0 1 (Place.base .spad) t with n := 16 }
theorem witness_StreamsAreAnswered_halves : (∀ t ∈ [Todo.load none, .store (List.replicate 16 3)], ∀ c ∈ [1, 2],
    let p := pairOf t
    let s : State := { pending p with inp := { c := c } }
    tfind s.st.accesses s.inp.b = some p ∧ p.isPair = true ∧ (s.inp.c = 1 ∨ s.inp.c = 2) ∧ p.failed = false ∧
      s.st.blocked s.inp.b (p.first (s.inp.c == 2)) = false ∧ (s.about 0).mayPerform 0 (p.first (s.inp.c == 2)) = true ∧ p.leaf = none ∧ p.sem = 0 ∧
      p.places = [Place.base .spad] ∧ s.poison = []) ∧ ({ pairOf (.load none) with failed := true } : Access).failed = true := by decide
/-- The second of two accesses of one class. -/
theorem witness_StreamsAreAnswered_blocked : heldUp.st.blocked 1 (access 1 0 0x5000 (.load none)) = true ∧
    (heldUp.about 0).mayPerform 0 (access 1 1 (Place.base .spad) (.load (some (0, 0)))) = false := by decide
/-- A fetch that waits for a page, asked for at 0. -/
def paging : PageWait := { asid := 0, va := 0x7000, space := 0, store := false, fetch := true, f := 0 }
def unanswered (ns : Nat) : State :=
  { at' { Stream.default with paging := some paging } with pageRequests := [(pageKey 0 0x7000, 0)], dev := { on.dev with ns := ns }, inp := { a := 0, b := 0x7000 } }
theorem witness_StreamsAreAnswered_pages : tfind (unanswered 0).pageRequests (pageKey 0 0x7000) = some 0 ∧ (unanswered 0).dev.ns < 0 + 10 ^ 9 ∧
    0 + 10 ^ 9 ≤ (unanswered (10 ^ 9)).dev.ns ∧ (unanswered 0).copies = [] ∧ (unanswered 0).colls = [] ∧
    (unanswered 0).streams = [(0, { Stream.default with paging := some paging })] ∧ (unanswered 0).st.paging = some paging ∧
    tfind (unanswered 0).pageRequests (pageKey 0 0) = none ∧
    (unanswered (10 ^ 9)).dev.halted = false ∧ ({ on.dev with halted := true } : Device).halted = true := by
  refine ⟨by decide, by decide, by decide, rfl, rfl, rfl, rfl, by decide, by decide, rfl⟩
/-- The Rearguard has a copy; the launch has a rollback checkpoint, or none. -/
def comparing (policy unit : Nat) (t sh : Stream) : State :=
  { (at' t).setLaunch 0 { lau with m := { lau.m with policy := policy }, snapshot := some snapshot } with
      inp := { a := 0, b := unit }, shadow := [(0, sh)], mem := ((bytesLE (Instr.stm ⟨0, 1, 1, 0, 0, 3, 0, 0, 0, 0, 0, 0⟩).word0.toNat 8).zipIdx 0x4000).filterMap fun e => if e.1 = 0 then none else some (e.2, e.1) }
def queueing (w : Word) : Stream := { Stream.default with vectorQ := queued { entry with xs1 := w } }
theorem witness_ErrorsAreContained_compare : let s := comparing 4 2 (queueing 0) (queueing 1)
    s.runs 0 = true ∧ tfind s.shadow 0 = some (queueing 1) ∧ (s.st.queue 2).entries = [entry] ∧ ((queueing 1).queue 2).entries = [{ entry with xs1 := 1 }] ∧
    (s.launchOf 0).m.policy / 4 % 2 = 1 ∧ (s.launchOf 0).snapshot.isSome = true ∧ (s.launchOf 0).phase ≠ .killing ∧
    ((comparing 0 2 (queueing 0) (queueing 1)).launchOf 0).m.policy / 4 % 2 ≠ 1 ∧ tfind on.shadow 0 = none := by
  refine ⟨by decide, rfl, rfl, rfl, by decide, by decide, by decide, by decide, by decide⟩
/-- An MMA is bound to its format word, which the copy has too, or not; what else is killed already. -/
theorem witness_ErrorsAreContained_word : let u : Stream := { Stream.default with matrixQ := queued { entry with w0 := 0xE0 }, fq := [7] }
    ({ entry with w0 := 0xE0 } : Entry).pops = true ∧ ({ entry with w0 := 0xE0 } : Entry).unbound = false ∧ u.boundWord 1 = [u.fq.headD 0] ∧
    ({ u with fq := [8] } : Stream).boundWord 1 ≠ [u.fq.headD 0] ∧ lau.fatal = none ∧ (inPhase .killing id).launches.isEmpty = false := by decide
/-- A store at the PC, whose data and address differ in the copy. -/
theorem witness_ErrorsAreContained_operation : let s := comparing 4 0 Stream.default { Stream.default with x := [(1, 2)] }
    (match (s.about 0).instrAt 0 with
     | some i => leavesCore i && s.st.guardTrue i.guard && opValues s.st i != opValues { Stream.default with x := [(1, 2)] } i &&
         opValues s.st i == opValues Stream.default i
     | none => false) = true := by decide +kernel
theorem witness_ErrorsAreContained_uncorrectable : let s : State := { on with inp := { a := 0x5000, d := 8 } }
    s.inp.c = 0 ∧ s.inp.a + s.inp.d ≤ Place.base .host ∧ ({ a := 0, c := 1 } : Input).c = 1 ∧ on.hasStream 0 = true ∧
    on.checked 0 = true ∧ ({ a := 0, c := 2 } : Input).c = 2 ∧ on.streamsOn 5 = [] ∧ ({ a := l1Key 0 0x5000, b := 255, c := 3, d := 1 } : Input).c = 3 ∧
    (tfind cached.l1 (l1Key 0 0x5000)).isSome = true := by decide
/-- A region whose holder is a stream on the core that is lost. -/
theorem witness_ErrorsAreContained_lost : let s : State := { on with regions := [(0x5000, { mine with holder := streamId 0 })] }
    tfind s.regions 0x5000 = some { mine with holder := streamId 0 } ∧ idKind (streamId 0) = 0 ∧ s.location (streamId 0) = [0] ∧
    mine.state ≠ .quarantined ∧ mine.state ≠ .orphaned := by decide
/-- A port that is up, with these permits. -/
def upPort (p : Permits) (f : Port → Port) : State := { on with ports := [(0, f { Port.default with up := true, routes := [1] })], permits := [(0, p)] }
/-- An error of bucket 0 of class 0, with the Bloom filter and without. -/
def erring (cfg : Word) (n : Nat) : State :=
  { on with dev := { on.dev with bktcfg := [(0, cfg)], buckets := [(0, n)] }, inp := { a := 0, b := 0, c := 1 } }
theorem witness_ErrorsAreContained_lane : (upPort Permits.default id).dev.railsGood = true ∧ ((upPort Permits.default id).port 0).up = true ∧
    5 ≤ ((upPort Permits.default id).port 0).good := by decide
theorem witness_ErrorsAreContained_buckets : (erring 0 0).dev.railsGood = true ∧ (erring 0 0).inp.c < 2 ^ 18 ∧
    ((erring 1 0).bktcfg 0).getLsbD 0 = true ∧ ((erring 0 0).bktcfg 0).getLsbD 0 = false ∧
    min (5 + 1) 65535 < (erring (8 <<< 48) 5).mark 0 ∧ ¬ min (7 + 1) 65535 < (erring (8 <<< 48) 7).mark 0 := by decide
theorem witness_ErrorsAreContained_leak (cfg : Word) : (erring cfg 0).leak 0 = erring cfg 0 := by
  simp [State.leak, erring, on, State.reset, State.powerOn, Device.powerOn]
theorem witness_ErrorsAreContained_seen : let bits := bloomBits 0 1
    let f : BitVec 4096 := 1 <<< bits.1 ||| 1 <<< bits.2
    f.getLsbD bits.1 = true ∧ f.getLsbD bits.2 = true := by decide +kernel

theorem witness_PortsAndChunks : let s := upPort { Permits.default with held := 255, returning := 1 } id
    (s.port 0).up = true ∧ (s.port 0).retraining = false ∧ (tget Permits.default s.permits 0).returning ≠ 0 ∧
    (tget Permits.default s.permits 0).total = 256 ∧ (tget Permits.default s.permits 1).returning = 0 ∧ (s.port 0).replaying = false ∧
    (tget Permits.default s.permits 0).held ≠ 0 ∧ s.inp.ok = true ∧
    (tget Permits.default (upPort { Permits.default with held := 255 } id).permits 0).total ≠ 256 ∧ ({ c := 3 } : Input).c = 3 := by decide
theorem witness_PortsAndChunks_lanes : (∀ n ∈ [4, 5, 8, 9], ((upPort Permits.default fun p => { p with good := n }).port 0).up = true) ∧
    ((upPort Permits.default fun p => { p with spare := true }).port 0).spare = true ∧
    ((upPort Permits.default fun p => { p with retraining := true }).port 0).retraining = true ∧ 4 - 1 < 4 ∧ 4 ≤ 5 - 1 := by decide
theorem other_device (n : Nat) : ∃ d < 2, d ≠ n := by
  by_cases h : n = 0
  · exact ⟨1, by omega, by omega⟩
  · exact ⟨0, by omega, by omega⟩
/-- The port, with flits in its replay buffer, and permits to send by. -/
def sending (l : List Flit) (i : Input) : State :=
  { upPort Permits.default (fun p => { p with replay := l }) with permits := [(1, { Permits.default with held := 3, inflight := 1 })], inp := i }
def flit : Flit := { vc := 0, dev := 1, start := 0, f := 0, off := 0 }
theorem witness_PortsAndChunks_sends : let s := sending [flit] { a := 0, b := 2, c := 4 }
    (s.port 0).routes = [1] ∧ (tget Permits.default s.permits ((0 * 2 + 2 % 2) * 2 + 2 / 2)).held ≠ 0 ∧ (s.nextFlit [1] 0 0).isSome = true ∧
    (s.port 0).replay = [flit] ∧ flit.vc = 2 - 2 ∧ (tget Permits.default s.permits ((0 * 2 + 2 % 2) * 2 + 2 / 2)).inflight ≠ 0 ∧
    ({ ok := false } : Input).ok = false := by decide
/-- Port 0 goes down; port 1 leads to the same peer. -/
def twoRoutes : State :=
  { on with ports := [(0, { Port.default with up := true, routes := [1], retraining := true }), (1, { Port.default with up := true, routes := [1] })] }
theorem witness_PortsAndChunks_routes : (twoRoutes.port 0).up = true ∧ (twoRoutes.port 0).retraining = true ∧ 1 ∈ (twoRoutes.port 0).routes ∧
    tget false twoRoutes.peersLost 1 = false ∧ (1, { Port.default with up := true, routes := [1] }) ∈ twoRoutes.ports ∧ 1 ≠ 0 := by decide
/-- A chunk of 64 bytes of generation 0 of handle 1, to the data page. -/
def chunkOf (dev gen op : Nat) : Chunk :=
  { handle := 1, gen := gen, f := 0, rank := 0, dev := dev, start := 0, size := 64, off := 0, dst := 0x1000, op := op, ty := 0, sat := false, bytes := List.replicate 64 5, bad := [] }
/-- Its handle, which receives by a record that holds and has no arrival action; the data page is the port's. -/
def receiving (v : Option Handle) : State :=
  { on with handles := v.toList.map fun h => (1, h), regions := [(0x5000, { mine with holder := portId 1 })] }
theorem witness_PortsAndChunks_arrival : ∃ d < 2, d ≠ Config.deviceNumber ∧ (linked on).routed d = true ∧
    chunkOk (chunkOf d 0 0) = true ∧ chunkOk (chunkOf d 1 0) = true := by
  obtain ⟨d, hd, h⟩ := other_device Config.deviceNumber
  refine ⟨d, hd, h, ?_, ?_, ?_⟩
  · rcases (by omega : d = 0 ∨ d = 1) with h | h <;> subst h <;> decide
  · simp [chunkOk, chunkOf, within]
  · simp [chunkOk, chunkOf, within]
theorem witness_PortsAndChunks_handle : let v : Handle := { bound 0 false with recv := some (2 ^ 28 * 2 ^ (8 * 0x44)) }
    tfind (receiving none).handles 1 = none ∧ tfind (receiving (some v)).handles 1 = some v ∧ v.gen = some (chunkOf 0 0 0).gen ∧
    (chunkOf 0 1 0).gen = (v.gen.getD 0 + 1) % 2 ^ 32 ∧ (receiving (some v)).heldBytes + (chunkOf 0 1 0).bytes.length ≤ 65536 ∧
    (chunkOf 0 0 0).op = 0 ∧ (chunkOf 0 0 0).bytes.length = 64 ∧ colHold (2 ^ 28 * 2 ^ (8 * 0x44)) = true ∧ colAkind (2 ^ 28 * 2 ^ (8 * 0x44)) = 0 ∧
    (match (receiving (some v)).chunkPlaces 1 v.asid [(0x1000, 64)] with | .ok ([(p, n)], s1) => p = 0x5000 && n = 64 && !s1.logFull 0 p | _ => false) = true ∧
    (chunkOf 0 0 0).bad = [] ∧ (chunkOf 0 0 0).off = 0 ∧ v.counts = [] ∧ (receiving none).dev.memoryKeys = true ∧
    (receiving (some v)).colls = [] ∧ v.held = [] := by decide +kernel
/-- The same chunk at 0x1020 lies in two units. -/
theorem witness_PortsAndChunks_units : let v : Handle := { bound 0 false with recv := some (2 ^ 28 * 2 ^ (8 * 0x44)) }
    unitsAt 0x1020 64 = [(0x1020, 32), (0x1040, 32)] ∧ unitsAt 0x1000 64 = [(0x1000, 64)] ∧
    (match (receiving (some v)).chunkPlaces 1 v.asid (unitsAt 0x1020 64) with
     | .ok (l, s1) => l = [(0x5020, 32), (0x5040, 32)] && !s1.logFull 0 0x5020 && !s1.logFull 0 0x5040 | _ => false) = true ∧
    (0x5020 + 32 ≤ 0x5040) ∧ 64 < ({ chunkOf 0 0 0 with size := 128 } : Chunk).size := by decide +kernel
def filled (n : Nat) : State := receiving (some { bound 0 false with held := [{ chunkOf 0 1 0 with bytes := List.replicate n 0 }] })
theorem filled_bytes (n : Nat) : (filled n).heldBytes = n := by simp [State.heldBytes, filled, receiving]
theorem witness_PortsAndChunks_full : ¬ (filled 65536).heldBytes + (chunkOf 0 1 0).bytes.length ≤ 65536 := by
  rw [filled_bytes]; decide
/-- A start whose ring has only device `d`. -/
def started (d : Nat) : CollStart :=
  { id := 3, stream := none, seq := 0, record := 1 * 2 ^ 128, ring := [d], gen := 0, handle := 1, asid := 0, next := 1, total := 1, unacked := [0],
    failed := none, paging := none, complAddr := 0, complHost := false, tag := 0, queue := 0 }
theorem witness_PortsAndChunks_acknowledged : ∀ d < 2, (started d).id = 3 ∧ 0 ∈ (started d).unacked ∧ colDevice (started d).record (started d).ring 0 = d ∧
    tfind on.handles (started d).handle = none ∧ on.delivered 3 0 = true ∧
    ({ on with sent := [{ dev := d, chunk := { chunkOf d 0 0 with start := 3 }, next := 0 }] } : State).delivered 3 0 = false := by decide +kernel
theorem witness_PortsAndChunks_refused : ({ on with refused := [(0, chunkOf 0 0 0)] } : State).refused[0]? = some (0, chunkOf 0 0 0) ∧ on.dev.ns < 0 + 2000 ∧
    0 + 2000 ≤ ({ on.dev with ns := 2000 } : Device).ns ∧ tfind on.handles (chunkOf 0 0 0).handle = none ∧
    (∃ d < 2, d ≠ Config.deviceNumber) := ⟨rfl, by decide, by decide, rfl, other_device _⟩
/-- The window is open on address space 0; the data page is the host's, or a peer's. -/
def windowed (id : Nat) (i : Input) : State :=
  { on with spaces := { on.spaces with window := some 0, remote := [(0, true), (1, true)] }, regions := [(0x5000, { mine with holder := id })], inp := i,
            ports := (linked on).ports }
def spotOk (s : State) (ids : List Nat) (cls : Nat) (load store : Bool) : Bool :=
  match s.outsideSpot 0 ids cls false 0x1000 load store with | (.ok p _ none, s1) => p = 0x5000 && (s1.widxAt p 8).isNone | _ => false
theorem witness_OutsideAccesses : let s := windowed Config.hostId { a := 0x1000, c := 8, bytes := [1, 2] }
    s.dev.ready = true ∧ s.hostUp = true ∧ s.hostContained = false ∧ s.inp.flags = [] ∧ s.inp.a % 4096 + s.inp.bytes.length ≤ 4096 ∧
    (∀ m ∈ [(true, false), (false, true), (true, true)], spotOk s [Config.hostId] 1 m.1 m.2 = true) ∧ s.spaces.window = some 0 ∧ s.inp.a < 2 ^ 40 ∧
    s.poison = [] ∧ s.own = [] ∧ s.dev.memoryKeys = true ∧ 0 < s.inp.bytes.length ∧ s.inp.bytes.length ≤ 512 ∧ s.inp.a + s.inp.c ≤ 2 ^ 40 ∧ s.inp.a % 4096 + s.inp.c ≤ 4096 ∧ s.inp.a % s.inp.c = 0 ∧
    (s.widxOf 0 s.inp.a s.inp.c).isNone = true ∧ on.spaces.window = none ∧ ({ c := 3 } : Input).c ≠ 4 := by decide
theorem witness_OutsideAccesses_link : on.hostUp = true ∧ on.dev.ready = true ∧ ({ b := 1 } : Input).b = 1 ∧
    tfind (pending (access 0 5 0 (.load none))).st.accesses 0 = some (access 0 5 0 (.load none)) ∧ ({ on with hostContained := true } : State).hostContained = true ∧ on.inp.ok = true := by decide
theorem witness_OutsideAccesses_peer : ∀ d < 2,
    let x : RemoteAccess := { dev := d, asid := 0, va := 0x1000, kind := 0, size := 8, op := 0, value := 0, cmp := 0 }
    let s := windowed (peerId d) { access := some x }
    s.inp.access = some x ∧ tget false s.peersLost d = false ∧ tget false s.spaces.remote (x.asid * 4096 + x.dev) = true ∧ x.va % x.size = 0 ∧
    s.routed x.dev = true ∧ s.inp.flags = [] ∧ spotOk s [peerId d] 2 true false = true ∧ spotOk s [peerId d] 2 false true = true ∧
    (s.widxOf 0 x.va x.size).isNone = true ∧ tget false on.spaces.remote (x.asid * 4096 + x.dev) = false ∧ s.poison = [] ∧ s.own = [] ∧ s.dev.memoryKeys = true := by decide
theorem witness_OutsideAccesses_peer_other : ∃ d < 2, d ≠ Config.deviceNumber := other_device _
/-- A record waits in the trace buffer of cluster 0; the ring has room, or not. -/
def traced (idx : Nat) : State :=
  { on.setLaunch 0 { lau with traceBase := 0x8000, traceIdx := idx } with traceBufs := [(0, { recs := [(0, [7, 8])], lost := 0, ringLost := 0 })], inp := { a := 0, c := 1 } }
theorem witness_OutsideAccesses_trace : (tget TraceBuf.default (traced 0).traceBufs 0).recs = [(0, [7, 8])] ∧ (tfind (traced 0).launches 0).isSome = true ∧
    (traced 0).inp.c = 1 ∧ ((traced 0).launchOf 0).traceIdx + 2 ≤ 2 ^ ((traced 0).launchOf 0).traceLog ∧
    ¬ ((traced 1023).launchOf 0).traceIdx + 2 ≤ 2 ^ ((traced 1023).launchOf 0).traceLog := by decide +kernel


/-! Scalars, and the turn of an engine -/

theorem witness_IntegerResults : on.st.guardTrue 0 = true ∧ (on.xr 1).setWidth 64 = (0 : Word) ∧
    ((at' { Stream.default with x := [(1, 7)] }).xr 1).setWidth 64 ≠ (0 : Word) := by decide
theorem witness_ComparisonsAndPredicates : on.st.guardTrue 0 = true ∧ on.st.guardTrue 9 = true := by decide
theorem witness_FloatToIntegerSaturates : on.st.guardTrue 0 = true ∧ f32.val 0x7FC00000 = .nan ∧ f32.val 0x7F800000 = .inf false ∧
    f32.val 0xFF800000 = .inf true ∧ (roundInt 0 false 1 64).1 > 2 ^ 63 - 1 ∧ (roundInt 0 true 3 62).1 < -2 ^ 63 ∧ (roundInt 0 false 1 (-1)).2 = true := by decide
theorem witness_ScalarFloats : tef on.st.ssr &&& flagInv = 0 ∧ (f32.val 0x7FC00000 = .nan) ∧ (f32.val 0x80000000).isZero = true := by decide
theorem witness_RoundingIsCorrect : f32.val 0x7FC00000 = .nan ∧ f32.val 0x3F800000 ≠ .nan ∧ f32.val 0x7F800000 ≠ .nan ∧ f32.val 0x00000001 ≠ .nan := by decide
/-- A tie between two magnitudes, the odd one lower; a fraction at and past the largest; one below the least normal number. -/
theorem witness_RoundingIsCorrect_fractions : (2 ^ 25 + 6 : Nat) ≠ 0 ∧ magnitude f32 0x4C000001 < ((2 ^ 25 + 6 : Nat) : Rat) / ((1 : Nat) : Rat) ∧
    ((2 ^ 25 + 6 : Nat) : Rat) / ((1 : Nat) : Rat) < magnitude f32 0x4C000002 ∧ magnitude f32 f32.infBits ≤ ((2 ^ 128 : Nat) : Rat) / ((1 : Nat) : Rat) ∧
    magnitude f32 0x3F800000 = ((1 : Nat) : Rat) / ((1 : Nat) : Rat) := by decide +kernel
theorem witness_RoundingIsCorrect_operations : exactly (.fin true 1 0) + exactly (.fin false 1 0) = 0 ∧ exactly (.fin false 3 1) = 6 ∧
    0 < exactly (.fin false 2 0) ∧ exactly (.fin false 0 0) = 0 := by decide +kernel
theorem witness_ScalarFrames : tef on.st.ssr = 0 ∧ (∃ t, exec (.add ⟨0, 1, 2, 3, 0, 0⟩) on = .next t) ∧
    (∃ t, exec (.fadd ⟨0, 1, 2, 3, 0, 0⟩) on = .next t) ∧ (∃ fn F, (Instr.add ⟨0, 1, 2, 3, 0, 0⟩).parts = some (0, fn, F)) ∧
    ∃ fn F, (Instr.fadd ⟨0, 1, 2, 3, 0, 0⟩).parts = some (4, fn, F) :=
  ⟨by decide, ⟨_, rfl⟩, ⟨_, rfl⟩, ⟨_, _, rfl⟩, ⟨_, _, rfl⟩⟩
theorem witness_ScalarFrames_falseGuard : (Instr.tsig ⟨1, 0, 0, 63, 1, 0⟩).isWord = true ∧ (Instr.tsig ⟨1, 0, 0, 63, 1, 0⟩).long?.isNone = true ∧
    on.InWindow (.tsig ⟨1, 0, 0, 63, 1, 0⟩) ∧ on.st.guardTrue (Instr.tsig ⟨1, 0, 0, 63, 1, 0⟩).guard = false := by
  dsimp only [State.InWindow, Instr.parts]; decide
theorem witness_StreamControl : on.st.guardTrue 0 = true := by decide
/-- The vector engine is to start the VADD at the head of its queue. -/
def starting : State :=
  { at' { Stream.default with vectorQ := queued { entry with w0 := (Instr.vadd fl).word0, w1 := (Instr.vadd fl).word1 } } with tape := [.start 0 2] }
theorem witness_EngineTurnRunsHead : let a := ({ starting with tape := [] } : State).acting 0 (.engine 2) false
    starting.tape = [.start 0 2] ∧ ({ starting with tape := [] } : State).hasStream 0 = true ∧
    (a.st.queue 2).entries = [{ entry with w0 := (Instr.vadd fl).word0, w1 := (Instr.vadd fl).word1 }] ∧
    a.headReady 2 2 0 = true ∧ a.firstAmong 0 2 (a.headReady 2 2) = true ∧ (a.serve 0 2).rearguard 0 2 = none ∧
    reads (Instr.vadd fl).word0 (Instr.vadd fl).word1 (.vadd fl) = true := by
  refine ⟨rfl, by decide, rfl, by decide, by decide, by decide, by decide⟩
theorem witness_IssueAddsNothing : on.shadow = [] ∧ (∀ e ∈ (addr 0).streams, e.2.yielded = []) ∧ on.newcomers = [] ∧ (on.stream 0).passed = [] ∧
    (∀ f, Instr.nop ⟨0, 0, 0, 0, 0⟩ ≠ .tquota f ∧ Instr.nop ⟨0, 0, 0, 0, 0⟩ ≠ .treset f) :=
  ⟨rfl, by decide, rfl, rfl, fun f => ⟨by simp, by simp⟩⟩
/-- An enabled trap stops the entry's stream: what `EntriesSetTheirFlags` says of an entry's flags reaches SSR as
`witness_EntryFlagsAreSticky` says. Entries of every engine, on the types that set flags. -/
theorem witness_EntriesSetTheirFlags : (∀ c ∈ [0, 1], ∀ n ∈ [1, 2, 3], vecOk (viewShape c 2 2) fl n numeric = true) ∧
    vecOk (viewShape 1 2 2) fl 1 [0, 1] = true ∧ vecOk (viewShape 0 2 2) fl 0 numeric = true ∧
    matOk (mat entry [0]) [matOp fm.ta true, matOp fm.tb true] [] = true ∧
    matOk (mat entry []) [] [matOp fm.dt false, { matOp fm.dt false with key := (matOp fm.dt false).key + 1, num := (matOp fm.dt false).num + 1 }] = true ∧
    (∀ n ∈ [0, 1, 2], assayStarts (assay (viewShape 0 2 2) n) [on1 fs.ta true, on1 fs.tb true] [on1 fs.dt false] = true ∧
      assayStarts (assay 0 n) [on1 fs.ta true] [on1 fs.dt false] = true) ∧ ViewReady (shapedEntry (viewShape 0 2 2)) [0, 1] := by
  dsimp only [ViewReady]; decide

end Sys2Proof.Tests
end

section
/-! PROOF. The integer instructions (R132 to R135): the model computes on numbers and wraps at width n; each of its integers is
that of an operation on n-bit words, and an ALU function writes that word. -/

namespace Sys2Proof.Machine

/-! ### Integers and the words of n bits that they wrap to (R82) -/

theorem sextNat_toNat {n : Nat} (a : BitVec n) : sextNat a.toNat n = a.toInt := by
  simp only [sextNat, Nat.mod_eq_of_lt a.isLt, BitVec.toInt_eq_toNat_cond, Int.natCast_pow]
  cases n with
  | zero => rw [BitVec.eq_nil a]; rfl
  | succ m =>
    have h : a.toNat < 2 ^ m ↔ 2 * a.toNat < 2 ^ (m + 1) := by omega
    simp only [Nat.add_sub_cancel, h]
    rfl

section Words

variable {n : Nat} (a b : BitVec n)

theorem ofInt_toNat : BitVec.ofInt n (a.toNat : Int) = a := by
  rw [BitVec.ofInt_natCast, BitVec.ofNat_toNat, BitVec.setWidth_eq]

theorem ofInt_toNat_add : BitVec.ofInt n ((a.toNat + b.toNat : Nat) : Int) = a + b := by
  rw [Int.natCast_add, BitVec.ofInt_add, ofInt_toNat, ofInt_toNat]

theorem ofInt_toNat_mul : BitVec.ofInt n ((a.toNat * b.toNat : Nat) : Int) = a * b := by
  rw [Int.natCast_mul, BitVec.ofInt_mul, ofInt_toNat, ofInt_toNat]

theorem ofInt_toNat_sub : BitVec.ofInt n ((a.toNat : Int) - b.toNat) = a - b := by
  rw [Int.sub_eq_add_neg, BitVec.ofInt_add, BitVec.ofInt_neg, ofInt_toNat, ofInt_toNat, BitVec.sub_eq_add_neg]

theorem ofInt_two_pow_mul (k : Int) : BitVec.ofInt n ((2 : Int) ^ n * k) = 0 := by
  apply BitVec.eq_of_toNat_eq
  have hz : (2 : Int) ^ n * k % ((2 ^ n : Nat) : Int) = 0 := by
    rw [Int.natCast_pow]; exact Int.mul_emod_right _ k
  rw [BitVec.toNat_ofInt, hz]
  rfl

/-- The high half of a double word of an integer. -/
theorem extractLsb'_ofInt_two_mul (z : Int) :
    (BitVec.ofInt (2 * n) z).extractLsb' n n = BitVec.ofInt n (z / (2 : Int) ^ n) := by
  have hpos : ((2 ^ (2 * n) : Nat) : Int) = (2 : Int) ^ n * (2 : Int) ^ n := by
    rw [Int.natCast_pow, ← Int.pow_add, ← Nat.two_mul]; rfl
  have hne : (2 : Int) ^ n ≠ 0 := Int.pow_ne_zero (by decide)
  have hz : ((BitVec.ofInt (2 * n) z).toNat : Int) + (2 : Int) ^ n * ((2 : Int) ^ n * (z / ((2 ^ (2 * n) : Nat) : Int))) = z := by
    rw [BitVec.toNat_ofInt, Int.toNat_of_nonneg (Int.emod_nonneg _ (hpos ▸ Int.mul_ne_zero hne hne)), ← Int.mul_assoc, ← hpos]
    exact Int.emod_add_mul_ediv z _
  have hd : (((BitVec.ofInt (2 * n) z).toNat / 2 ^ n : Nat) : Int) + (2 : Int) ^ n * (z / ((2 ^ (2 * n) : Nat) : Int)) =
      z / (2 : Int) ^ n := by
    conv => rhs; rw [← hz]
    rw [Int.add_mul_ediv_left _ _ hne, Int.natCast_ediv, Int.natCast_pow]
    rfl
  rw [← hd, BitVec.ofInt_add, ofInt_two_pow_mul, BitVec.ofInt_natCast, BitVec.extractLsb', Nat.shiftRight_eq_div_pow]
  exact (BitVec.add_zero _).symm

theorem ofInt_mulh : BitVec.ofInt n (a.toInt * b.toInt / (2 : Int) ^ n) =
    (a.signExtend (2 * n) * b.signExtend (2 * n)).extractLsb' n n := by
  rw [← extractLsb'_ofInt_two_mul, BitVec.ofInt_mul]; rfl

theorem toNat_mulhn : ((a.setWidth (2 * n) * b.setWidth (2 * n)).extractLsb' n n).toNat = a.toNat * b.toNat / 2 ^ n := by
  have hab : a.toNat * b.toNat < 2 ^ n * 2 ^ n := Nat.mul_lt_mul'' a.isLt b.isLt
  have hn : 2 ^ (2 * n) = 2 ^ n * 2 ^ n := by rw [Nat.two_mul, Nat.pow_add]
  have hle : 2 ^ n ≤ 2 ^ (2 * n) := Nat.pow_le_pow_right (by omega) (by omega)
  rw [BitVec.extractLsb'_toNat, BitVec.toNat_mul, BitVec.toNat_setWidth_of_le (by omega), BitVec.toNat_setWidth_of_le (by omega),
    Nat.shiftRight_eq_div_pow, hn, Nat.mod_eq_of_lt hab, Nat.mod_eq_of_lt (Nat.div_lt_of_lt_mul hab)]

theorem toNat_andn : (a &&& ~~~b).toNat = a.toNat &&& (2 ^ n - 1 - b.toNat) := by
  rw [BitVec.toNat_and, BitVec.toNat_not]

theorem ofInt_min : BitVec.ofInt n (min a.toInt b.toInt) = if a.slt b then a else b := by
  simp only [BitVec.slt_iff_toInt_lt]
  split
  · next h => rw [Int.min_eq_left (Int.le_of_lt h), BitVec.ofInt_toInt]
  · next h => rw [Int.min_eq_right (Int.not_lt.1 h), BitVec.ofInt_toInt]

theorem ofInt_max : BitVec.ofInt n (max a.toInt b.toInt) = if a.slt b then b else a := by
  simp only [BitVec.slt_iff_toInt_lt]
  split
  · next h => rw [Int.max_eq_right (Int.le_of_lt h), BitVec.ofInt_toInt]
  · next h => rw [Int.max_eq_left (Int.not_lt.1 h), BitVec.ofInt_toInt]

theorem toNat_minn : (if a.ult b then a else b).toNat = min a.toNat b.toNat := by
  simp only [BitVec.ult_iff_toNat_lt]
  split
  · next h => rw [Nat.min_eq_left (Nat.le_of_lt h)]
  · next h => rw [Nat.min_eq_right (Nat.not_lt.1 h)]

theorem toNat_maxn : (if a.ult b then b else a).toNat = max a.toNat b.toNat := by
  simp only [BitVec.ult_iff_toNat_lt]
  split
  · next h => rw [Nat.max_eq_right (Nat.le_of_lt h)]
  · next h => rw [Nat.max_eq_left (Nat.not_lt.1 h)]

theorem ofInt_natAbs_toInt : BitVec.ofInt n (a.toInt.natAbs : Int) = if a.msb then -a else a := by
  cases h : a.msb with
  | true =>
    rw [Int.ofNat_natAbs_of_nonpos (Int.le_of_lt (BitVec.toInt_neg_of_msb_true h)), BitVec.ofInt_neg, BitVec.ofInt_toInt]; rfl
  | false =>
    rw [Int.natAbs_of_nonneg (BitVec.toInt_nonneg_of_msb_false h), BitVec.ofInt_toInt]; rfl

theorem ofInt_neg_toInt : BitVec.ofInt n (-a.toInt) = -a := by rw [BitVec.ofInt_neg, BitVec.ofInt_toInt]

/-! ### Shifts, rotations and bit counts (R133) -/

theorem ofInt_shl (k : Nat) : BitVec.ofInt n ((a.toNat * 2 ^ k : Nat) : Int) = a <<< k := by
  apply BitVec.eq_of_toNat_eq
  rw [BitVec.ofInt_natCast, BitVec.toNat_ofNat, BitVec.toNat_shiftLeft, Nat.shiftLeft_eq]

theorem toNat_shr (k : Nat) : (a >>> k).toNat = a.toNat / 2 ^ k := by
  rw [BitVec.toNat_ushiftRight, Nat.shiftRight_eq_div_pow]

theorem ofInt_sra (k : Nat) : BitVec.ofInt n (a.toInt / (2 : Int) ^ k) = a.sshiftRight k := by
  rw [BitVec.sshiftRight_eq, Int.shiftRight_eq_div_pow, Int.natCast_pow]; rfl

theorem toNat_rol {k : Nat} (hk : k < n) : (a.rotateLeft k).toNat = rolN n a.toNat k := by
  rw [BitVec.toNat_rotateLeft, Nat.mod_eq_of_lt hk, rolN, Nat.shiftLeft_eq, Nat.shiftRight_eq_div_pow]
  have hlow : a.toNat / 2 ^ (n - k) < 2 ^ k := by
    rw [Nat.div_lt_iff_lt_mul (Nat.two_pow_pos _), ← Nat.pow_add, Nat.add_sub_cancel' (Nat.le_of_lt hk)]; exact a.isLt
  have hhigh : a.toNat * 2 ^ k % 2 ^ n = 2 ^ k * (a.toNat % 2 ^ (n - k)) := by
    rw [Nat.mul_comm, ← Nat.mul_mod_mul_left, ← Nat.pow_add, Nat.add_sub_cancel' (Nat.le_of_lt hk)]
  rw [hhigh, Nat.two_pow_add_eq_or_of_lt hlow]

theorem toNat_clz (hn : 0 < n) : a.clz.toNat = clzN n a.toNat := by
  unfold clzN
  by_cases h : a = 0
  · subst h
    simp [BitVec.clz_eq_iff_eq_zero.2, Nat.mod_eq_of_lt Nat.lt_two_pow_self]
  · have ha : a.toNat ≠ 0 := fun e => h (BitVec.eq_of_toNat_eq e)
    have hlt : a.clz.toNat < n := by
      have := BitVec.clz_lt_iff_ne_zero.2 h
      simpa [BitVec.lt_def, Nat.mod_eq_of_lt Nat.lt_two_pow_self] using this
    have hlog : a.toNat.log2 = n - 1 - a.clz.toNat := by
      rw [Nat.log2_eq_iff ha]
      refine ⟨BitVec.two_pow_sub_clz_le_toNat_of_ne_zero hn h, ?_⟩
      have := @BitVec.toNat_lt_two_pow_sub_clz n a
      rwa [show n - 1 - a.clz.toNat + 1 = n - a.clz.toNat by omega]
    rw [if_neg ha, hlog]; omega

/-- The count of trailing zeros is the place of the lowest one. -/
theorem ctzN_of_lowest : ∀ {n v k : Nat}, k < n → v.testBit k = true → (∀ i < k, v.testBit i = false) → ctzN n v = k
  | n + 1, v, 0, _, h1, _ => by
    rw [Nat.testBit_zero, decide_eq_true_eq] at h1
    simp [ctzN, h1]
  | n + 1, v, k + 1, hk, h1, h0 => by
    have hv : ¬ v % 2 = 1 := by simpa [Nat.testBit_zero] using h0 0 (by omega)
    rw [ctzN, if_neg hv, ctzN_of_lowest (n := n) (k := k) (by omega) (by rwa [Nat.testBit_div_two])
      (fun i hi => by rw [Nat.testBit_div_two]; exact h0 (i + 1) (by omega)), Nat.add_comm]

theorem ctzN_zero : ∀ n, ctzN n 0 = n
  | 0 => rfl
  | n + 1 => by simp [ctzN, ctzN_zero n, Nat.add_comm]

theorem toNat_ctz : a.ctz.toNat = ctzN n a.toNat := by
  by_cases h : a = 0
  · subst h
    simp [BitVec.ctz_eq_reverse_clz, BitVec.clz_eq_iff_eq_zero.2, BitVec.reverse_eq_zero_iff.2, ctzN_zero,
      Nat.mod_eq_of_lt Nat.lt_two_pow_self]
  · have hlt : a.ctz.toNat < n := by
      have := BitVec.ctz_lt_iff_ne_zero.2 h
      simpa [BitVec.lt_def, Nat.mod_eq_of_lt Nat.lt_two_pow_self] using this
    exact (ctzN_of_lowest hlt (BitVec.getLsbD_true_ctz_of_ne_zero h) fun i hi => BitVec.getLsbD_false_of_lt_ctz hi).symm

/-- A word of one bit more is a word and its lowest bit. -/
theorem exists_concat (a : BitVec (n + 1)) : ∃ (x : BitVec n) (b : Bool), a = x.concat b := by
  refine ⟨BitVec.ofNat n (a.toNat / 2), a.getLsbD 0, BitVec.eq_of_toNat_eq ?_⟩
  have ha : a.toNat / 2 < 2 ^ n := by have := a.isLt; omega
  have hb : (a.getLsbD 0).toNat = a.toNat % 2 := by
    rw [BitVec.getLsbD, Nat.toNat_testBit]; simp
  rw [BitVec.toNat_concat, BitVec.toNat_ofNat, Nat.mod_eq_of_lt ha, hb]
  omega

theorem toNat_concat_mod_two (x : BitVec n) (b : Bool) : (x.concat b).toNat % 2 = b.toNat := by
  have := b.toNat_lt
  rw [BitVec.toNat_concat]; omega

theorem toNat_concat_div_two (x : BitVec n) (b : Bool) : (x.concat b).toNat / 2 = x.toNat := by
  have := b.toNat_lt
  rw [BitVec.toNat_concat]; omega

theorem toNat_popc : ∀ {n : Nat} (a : BitVec n), a.cpop.toNat = popcN n a.toNat
  | 0, a => by rw [BitVec.eq_nil a]; rfl
  | n + 1, a => by
    obtain ⟨x, b, rfl⟩ := exists_concat a
    rw [BitVec.toNat_cpop_concat, popcN, toNat_concat_mod_two, toNat_concat_div_two, toNat_popc x]

theorem reverse_concat (x : BitVec n) (b : Bool) : (x.concat b).reverse = BitVec.cons b x.reverse := by
  have := (BitVec.cons b x.reverse).concat_reverse_setWidth_msb_eq_reverse
  rw [BitVec.setWidth_cons, BitVec.reverse_reverse_eq, BitVec.msb_cons] at this
  rw [this, BitVec.reverse_reverse_eq]

theorem toNat_brev : ∀ {n : Nat} (a : BitVec n), a.reverse.toNat = brevN n a.toNat
  | 0, a => by rw [BitVec.eq_nil a]; rfl
  | n + 1, a => by
    obtain ⟨x, b, rfl⟩ := exists_concat a
    rw [reverse_concat, BitVec.toNat_cons', brevN, toNat_concat_mod_two, toNat_concat_div_two, toNat_brev x, Nat.shiftLeft_eq]

/-! ### Division (R134) -/

theorem toInt_eq_zero_iff : a.toInt = 0 ↔ a = 0 := by
  rw [← BitVec.toInt_inj]; simp

theorem ofInt_tdiv : BitVec.ofInt n (a.toInt.tdiv b.toInt) = a.sdiv b := by
  apply BitVec.eq_of_toInt_eq
  rw [BitVec.toInt_ofInt, BitVec.toInt_sdiv]

theorem ofInt_divS : BitVec.ofInt n (divS n a.toInt b.toInt) = if b = 0 then BitVec.allOnes n else a.sdiv b := by
  unfold divS
  simp only [toInt_eq_zero_iff]
  split
  · rw [BitVec.ofInt_neg]; exact BitVec.neg_one_eq_allOnes
  · split
    · next h =>
      simp only [Bool.and_eq_true, decide_eq_true_eq] at h
      obtain ⟨ha, hb⟩ := h
      have hmin : a = BitVec.intMin n := by
        rw [BitVec.intMin_eq_neg_two_pow, ← ha, BitVec.ofInt_toInt]
      rw [← ofInt_tdiv, hb, Int.tdiv_neg, Int.tdiv_one, ofInt_neg_toInt, BitVec.ofInt_toInt, hmin, BitVec.neg_intMin]
    · rw [ofInt_tdiv]

theorem ofInt_remS : BitVec.ofInt n (remS n a.toInt b.toInt) = if b = 0 then a else a.srem b := by
  have hmod : BitVec.ofInt n (a.toInt.tmod b.toInt) = a.srem b := by rw [← BitVec.toInt_srem, BitVec.ofInt_toInt]
  unfold remS
  simp only [toInt_eq_zero_iff]
  split
  · exact BitVec.ofInt_toInt
  · split
    · next h =>
      simp only [Bool.and_eq_true, decide_eq_true_eq] at h
      rw [← hmod, h.2]; simp
    · rw [← Int.tmod_def, hmod]

theorem toNat_divn : (if b = 0 then BitVec.allOnes n else a / b).toNat = divN n a.toNat b.toNat := by
  unfold divN
  by_cases h : b = 0
  · simp [h]
  · have hb : b.toNat ≠ 0 := fun e => h (BitVec.eq_of_toNat_eq e)
    rw [if_neg h, if_neg hb, BitVec.toNat_udiv]

theorem toNat_remn : (if b = 0 then a else a % b).toNat = remN a.toNat b.toNat := by
  unfold remN
  by_cases h : b = 0
  · simp [h]
  · have hb : b.toNat ≠ 0 := fun e => h (BitVec.eq_of_toNat_eq e)
    rw [if_neg h, if_neg hb, BitVec.toNat_umod, Nat.mod_eq_sub_mul_div]

end Words

/-! ### ALU functions (R132 to R134) -/

/-- Wrapping at width n and extending by the sign is the sign extension of the n-bit word. -/
theorem wordOfInt_wrapS (v : Int) (n : Nat) : wordOfInt (wrapS v n) = (BitVec.ofInt n v).signExtend 64 := by
  have h : (v % (2 : Int) ^ n).toNat = (BitVec.ofInt n v).toNat := by rw [BitVec.toNat_ofInt, Int.natCast_pow]; rfl
  rw [wrapS, h, sextNat_toNat]; rfl

theorem aluWidth_pos (sz : BitVec 2) : 0 < aluWidth sz := by revert sz; decide

/-- A shift count is the same taken from the register and from its low n bits. -/
theorem toNat_setWidth_mod_aluWidth (sz : BitVec 2) (x : Word) :
    (x.setWidth (aluWidth sz)).toNat % aluWidth sz = x.toNat % aluWidth sz := by
  have h : aluWidth sz ∣ 2 ^ aluWidth sz := by revert sz; decide
  rw [BitVec.toNat_setWidth, Nat.mod_mod_of_dvd _ h]

section Alu

variable {f : FA} {s : State} {r : BitVec (aluWidth f.sz)}

/-- What an ALU function writes, where its integer is that of the n-bit word `r`. -/
theorem aluOp_eq {op : Nat → Nat → Nat → Int} (hg : s.st.guardTrue f.g = true)
    (h : BitVec.ofInt (aluWidth f.sz) (op (aluWidth f.sz) ((s.xr f.xa).setWidth (aluWidth f.sz)).toNat
      ((s.xr f.xb).setWidth (aluWidth f.sz)).toNat) = r) :
    aluOp f s op = .next ((s.xw f.xd (r.signExtend 64)).advance 8) := by
  simp only [BitVec.toNat_setWidth] at h
  unfold aluOp
  rw [issue_of_guard hg]
  simp only [wordOfInt_wrapS, h]
  rfl

/-- An ALU function whose integer is a natural number. -/
theorem aluOp_eq_of_toNat {op : Nat → Nat → Nat → Nat} (hg : s.st.guardTrue f.g = true)
    (h : r.toNat = op (aluWidth f.sz) ((s.xr f.xa).setWidth (aluWidth f.sz)).toNat
      ((s.xr f.xb).setWidth (aluWidth f.sz)).toNat) :
    aluOp f s (fun n a b => (op n a b : Nat)) = .next ((s.xw f.xd (r.signExtend 64)).advance 8) :=
  aluOp_eq hg (by rw [← h, ofInt_toNat])

/-- An ALU function of the signed values of its operands. -/
theorem aluOp_eq_of_toInt {op : Nat → Int → Int → Int} (hg : s.st.guardTrue f.g = true)
    (h : BitVec.ofInt (aluWidth f.sz) (op (aluWidth f.sz) ((s.xr f.xa).setWidth (aluWidth f.sz)).toInt
      ((s.xr f.xb).setWidth (aluWidth f.sz)).toInt) = r) :
    aluOp f s (fun n a b => op n (sextNat a n) (sextNat b n)) = .next ((s.xw f.xd (r.signExtend 64)).advance 8) :=
  aluOp_eq hg (by rw [sextNat_toNat, sextNat_toNat, h])

end Alu

theorem aluArithmetic : AluArithmetic := by
  intro f s hg n a b gives
  show execAdd f s = _ ∧ execSub f s = _ ∧ execMul f s = _ ∧ execMulh f s = _ ∧ execMulhn f s = _ ∧ execAndR f s = _ ∧
    execOrR f s = _ ∧ execXor f s = _ ∧ execAndn f s = _ ∧ execMin f s = _ ∧ execMax f s = _ ∧ execMinn f s = _ ∧
    execMaxn f s = _ ∧ execAbs f s = _ ∧ execNeg f s = _ ∧ execSext f s = _ ∧ execSel f s = _ ∧ execZext f s = _
  refine ⟨aluOp_eq hg (ofInt_toNat_add a b), aluOp_eq hg (ofInt_toNat_sub a b), aluOp_eq hg (ofInt_toNat_mul a b),
    aluOp_eq_of_toInt hg (op := fun n x y => x * y / 2 ^ n) (ofInt_mulh a b), aluOp_eq_of_toNat hg (toNat_mulhn a b),
    aluOp_eq_of_toNat hg (BitVec.toNat_and a b), aluOp_eq_of_toNat hg (BitVec.toNat_or a b),
    aluOp_eq_of_toNat hg (BitVec.toNat_xor a b), aluOp_eq_of_toNat hg (toNat_andn a b),
    aluOp_eq_of_toInt hg (ofInt_min a b), aluOp_eq_of_toInt hg (ofInt_max a b),
    aluOp_eq_of_toNat hg (toNat_minn a b), aluOp_eq_of_toNat hg (toNat_maxn a b),
    aluOp_eq_of_toInt hg (op := fun _ x _ => (x.natAbs : Nat)) (ofInt_natAbs_toInt a),
    aluOp_eq_of_toInt hg (op := fun _ x _ => -x) (ofInt_neg_toInt a), aluOp_eq_of_toNat hg rfl, ?sel, ?zext⟩
  case sel => exact aluOp_eq hg (by split <;> exact ofInt_toNat _)
  case zext =>
    rw [execZext, issue_of_guard hg, ← BitVec.toNat_setWidth, BitVec.ofNat_toNat]
    rfl

theorem aluShiftsAndCounts : AluShiftsAndCounts := by
  intro f s hg n a k gives
  have hk : ((s.xr f.xb).setWidth n).toNat % n = k := toNat_setWidth_mod_aluWidth f.sz _
  show execShl f s = _ ∧ execShr f s = _ ∧ execSra f s = _ ∧ execRol f s = _ ∧ execClz f s = _ ∧ execCtz f s = _ ∧
    execPopc f s = _ ∧ execBrev f s = _
  refine ⟨aluOp_eq hg ?shl, aluOp_eq_of_toNat hg ?shr, aluOp_eq hg ?sra, aluOp_eq_of_toNat hg ?rol,
    aluOp_eq_of_toNat hg (toNat_clz a (aluWidth_pos f.sz)), aluOp_eq_of_toNat hg (toNat_ctz a),
    aluOp_eq_of_toNat hg (toNat_popc a), aluOp_eq_of_toNat hg (toNat_brev a)⟩
  case shl => exact hk ▸ ofInt_shl a k
  case shr => exact hk ▸ toNat_shr a k
  case sra => rw [sextNat_toNat]; exact hk ▸ ofInt_sra a k
  case rol => exact hk ▸ toNat_rol a (Nat.mod_lt _ (aluWidth_pos f.sz))

theorem aluDivision : AluDivision := by
  intro f s hg n a b gives
  show execDiv f s = _ ∧ execRem f s = _ ∧ execDivn f s = _ ∧ execRemn f s = _
  exact ⟨aluOp_eq_of_toInt hg (ofInt_divS a b), aluOp_eq_of_toInt hg (ofInt_remS a b),
    aluOp_eq_of_toNat hg (toNat_divn a b), aluOp_eq_of_toNat hg (toNat_remn a b)⟩

/-! ### Immediates (R135) -/

theorem aluiOp_eq {f : FI} {s : State} (hg : s.st.guardTrue f.g = true) (op : Word → BitVec 32 → Word) :
    aluiOp f s op = .next ((s.xw f.xd (op (s.xr f.xa) f.imm)).advance 8) := issue_of_guard hg _

/-- MOVHI's word: the immediate above the low half that is kept. -/
theorem append_low_half (i : BitVec 32) (x : Word) :
    (i ++ x.extractLsb' 0 32 : Word) = i.setWidth 64 <<< 32 ||| (x &&& 0xFFFFFFFF) := by
  have hi : i.toNat <<< 32 < 2 ^ 64 := by rw [Nat.shiftLeft_eq]; omega
  apply BitVec.eq_of_toNat_eq
  rw [BitVec.toNat_append, BitVec.extractLsb'_toNat, BitVec.toNat_or, BitVec.toNat_and, BitVec.toNat_shiftLeft,
    BitVec.toNat_setWidth_of_le (by omega), Nat.mod_eq_of_lt hi]
  exact congrArg (_ ||| ·) (Nat.and_two_pow_sub_one_eq_mod x.toNat 32).symm

theorem immediateArithmetic : ImmediateArithmetic := by
  intro f s hg a simm zimm gives
  show execAddi f s = _ ∧ execMuli f s = _ ∧ execAndi f s = _ ∧ execOri f s = _ ∧ execXori f s = _ ∧ execShli f s = _
    ∧ execShri f s = _ ∧ execSrai f s = _ ∧ execMovi f s = _ ∧ execMovhi f s = _
  refine ⟨aluiOp_eq hg _, aluiOp_eq hg _, aluiOp_eq hg _, aluiOp_eq hg _, aluiOp_eq hg _, aluiOp_eq hg _, aluiOp_eq hg _,
    aluiOp_eq hg _, aluiOp_eq hg _, ?_⟩
  rw [execMovhi, issue_of_guard hg, append_low_half]
  rfl

/-- Settles O9: each function's integer at width n is that of a word operation on the low n bits of its operands. -/
theorem integerResults : Obligations.IntegerResults :=
  ⟨aluArithmetic, aluShiftsAndCounts, aluDivision, immediateArithmetic⟩

end Sys2Proof.Machine
end

section
/-! PROOF. The state and the elements of tiles (R110, R153 to R155): the start of an instruction on one ready operand is one known
state, and storing one element writes its own bits. -/

/-! ### Only one stream and one tile -/

section OnlyTile

open Sys2Proof Sys2Proof.Machine

theorem OnlyTile.trans {s t u : State} {k key : Nat} (h : OnlyTile s t k key) (h' : OnlyTile t u k key) : OnlyTile s u k key :=
  ⟨by rw [h'.1, h.1], fun j hj => (h'.2.1 j hj).trans (h.2.1 j hj), fun j hj => (h'.2.2 j hj).trans (h.2.2 j hj)⟩

theorem OnlyTile.cur {s t : State} {k key : Nat} (h : OnlyTile s t k key) : t.cur = s.cur := by rw [h.1]

theorem OnlyTile.admitted (s : State) (o : Operand) : OnlyTile s (s.admitted o) s.cur o.key :=
  ⟨by rw [State.admitted_frame], fun j hj => by rw [State.stream_admitted, if_neg (fun e => hj e.1)],
    fun j hj => by rw [State.tile_admitted, if_neg hj]⟩

theorem OnlyTile.setTile (s : State) (k key : Nat) (x : Tile) : OnlyTile s (s.setTile key x) k key :=
  ⟨rfl, fun _ _ => rfl, fun _ hj => State.tile_setTile_ne s hj x⟩

theorem OnlyTile.finishWrite (s : State) (k key : Nat) (bytes : List (Nat × Byte)) (dq : BitVec 4) (skip : Bool)
    (who : Option (BitVec 3)) : OnlyTile s (s.finishWrite key bytes dq skip who) k key :=
  ⟨by rw [State.finishWrite_frame], fun j _ => s.stream_finishWrite key j bytes dq skip who,
    fun j hj => by rw [State.tile_finishWrite, if_neg hj]⟩

/-- A further update of the acting stream. -/
theorem OnlyTile.thenSt {s t : State} {key : Nat} (h : OnlyTile s t s.cur key) (x : Stream) : OnlyTile s (t.setSt x) s.cur key := by
  have hset := OnlyStream.setSt t x
  rw [h.cur] at hset
  exact h.trans ⟨by rw [hset.1], hset.2, fun _ _ => rfl⟩

end OnlyTile

namespace Sys2Proof.Machine

/-! ### The start on one ready operand (R105 to R107) -/

/-- The wait of the acting stream is over. -/
def State.noWait (s : State) : State := s.setSt { s.st with wait := none }

theorem State.readTest_of_ready {s : State} {o : Operand} (h : SourceReady s o) : s.readTest o (s.cur * 8) = true := by
  obtain ⟨hwip, hcount⟩ := h
  unfold State.readTest
  split
  · simp only [hwip]; rfl
  · next hm =>
    obtain ⟨hreached, hpending⟩ := hcount hm
    simp only [reached, hreached, hwip, hpending]; rfl

theorem writeTest_of_ready {s : State} {o : Operand} (h : DestReady s o) : writeTest (s.tile o.key) o = true := by
  obtain ⟨hwip, -, hquota, hcount, -⟩ := h
  simp only [writeTest, reached, Bool.and_eq_true, Bool.or_eq_true, decide_eq_true_eq, Bool.not_eq_true']
  exact ⟨⟨Decidable.or_iff_not_imp_left.2 hcount, hquota⟩, hwip⟩

theorem tileStart_source {i : Instr} {top : BitVec 16} {mark : Bool} {s : State} (hs : s.st.ssr.getLsbD 0 = false)
    (hr : SourceReady s (s.operand top mark)) (body : Operand → State → Result) :
    tileStart i top true false mark s body = body (s.operand top mark) (s.admitted (s.operand top mark)).noWait := by
  have hstart := State.startTiles_source (State.readTest_of_ready hr)
  rw [← hs] at hstart
  exact tileStart_starts hstart body

/-- What an instruction's one destination leaves: its tile reserved. -/
def State.reserved (s : State) (key : Nat) : State := s.setTile key { s.tile key with wip := true, pending := none }

theorem tileStart_dest {i : Instr} {top : BitVec 16} {mark : Bool} {s : State} (hs : s.st.ssr.getLsbD 0 = false)
    (hd : DestReady s (s.operand top mark)) (body : Operand → State → Result) :
    tileStart i top false true mark s body = body (s.operand top mark) (s.reserved (s.operand top mark).key).noWait := by
  obtain ⟨-, hinflight, -, -, hfirst⟩ := id hd
  have hstart := State.startTiles_dest (writeTest_of_ready hd) hinflight hfirst
  rw [← hs] at hstart
  exact tileStart_starts hstart body

/-! ### Quota, reset and the state word (R110, R153, R154) -/

theorem State.resettable_iff (s : State) (key : Nat) : s.resettable key = true ↔ (s.tile key).inflight = 0 ∧
    ((s.tile key).quota = 0 ∨ (s.tile key).quota = 15) ∧
    ∀ j < s.launch.m.streams, (s.stream (s.launchNo * 4096 + j)).waitsOn key = false := by
  simp only [State.resettable, Bool.and_eq_true, Bool.or_eq_true, decide_eq_true_eq, Bool.not_eq_true', List.any_eq_false,
    List.mem_range, Bool.not_eq_true, and_assoc]

theorem Tile.statWord_eq (t : Tile) : t.statWord =
    BitVec.ofNat 64 (t.count.toNat + t.quota.toNat * 2 ^ 16 + (if t.skip then 1 else 0) * 2 ^ 20) := by
  unfold Tile.statWord
  cases t.skip <;> rfl

theorem quotaResetAndState : QuotaResetAndState := by
  intro f s hin hg o x
  have hw : topTile f.top < s.launch.m.twin := hin
  have hreset := tileGuard_of (i := .treset f) hw hg
  show (_ → execTquota f s = _) ∧ (_ → _ → _ → execTreset f s = _) ∧ (_ → _ → ∃ c : Cause, _ ∧ _ ∧ execTreset f s = _) ∧
    execTstat f s = _
  refine ⟨fun hx => ?quota, fun hi hq hj => ?reset, fun h0 h15 => ?stale, ?stat⟩
  case quota =>
    rw [execTquota, tileGuard_of (i := .tquota f) hw hg]
    exact if_pos (by simpa only [Bool.or_eq_true, decide_eq_true_eq] using hx)
  case reset =>
    rw [execTreset, hreset]
    exact if_pos ((s.resettable_iff o.key).2 ⟨hi, hq, hj⟩)
  case stale =>
    have hr : ¬ s.resettable o.key = true := fun h => by
      obtain ⟨-, hq, -⟩ := (s.resettable_iff o.key).1 h
      exact hq.elim h0 h15
    rw [execTreset, hreset]
    exact ⟨_, rfl, rfl, if_neg hr⟩
  case stat =>
    rw [execTstat, tileGuard_of (i := .tstat f) hw hg, Tile.statWord_eq]
    rfl

/-! ### One element in a tile's data (R160) -/

theorem length_bytesLE : ∀ v n : Nat, (bytesLE v n).length = n
  | _, 0 => rfl
  | v, n + 1 => congrArg (· + 1) (length_bytesLE (v / 256) n)

theorem natLE_bytesLE : ∀ v n : Nat, natLE (bytesLE v n) = v % 256 ^ n
  | v, 0 => (Nat.mod_one v).symm
  | v, n + 1 => by
    have hsplit : v % 256 ^ (n + 1) = v % 256 + 256 * (v / 256 % 256 ^ n) := by rw [Nat.pow_succ', Nat.mod_mul]
    rw [bytesLE, natLE, natLE_bytesLE (v / 256) n, BitVec.toNat_ofNat, hsplit]

theorem readLE_writeLE (m : Memory) (a v n : Nat) : (m.writeLE a v n).readLE a n = v % 256 ^ n := by
  have h := m.read_write a (bytesLE v n)
  rw [length_bytesLE] at h
  rw [Memory.readLE, Memory.writeLE, h, natLE_bytesLE]

/-- A patch of consecutive offsets is a write. -/
theorem patch_mapIdx (a : Nat) : ∀ (bs : List Byte) (m : Memory) (o : Nat),
    m.patch a (bs.mapIdx fun i b => (o + i, b)) = m.write (a + o) bs
  | [], _, _ => rfl
  | b :: bs, m, o => by
    have h := patch_mapIdx a bs (m.set (a + o) b) (o + 1)
    simp only [List.mapIdx_cons, Memory.patch, Memory.write, Nat.add_zero, Nat.add_assoc] at h ⊢
    rw [← h]
    simp only [Nat.add_comm 1]

/-- A type other than CB4 has elements of whole bytes. -/
theorem typeBits_eq {c : Nat} (h : c ≠ 8) : typeBits c = 8 * (typeBits c / 8) := by
  simp only [typeBits, if_neg h]
  split
  · rfl
  · split <;> rfl

theorem mul_typeBits {c : Nat} (h : c ≠ 8) (k : Nat) : k * typeBits c = 8 * (k * (typeBits c / 8)) := by
  rw [Nat.mul_left_comm, ← typeBits_eq h]

/-- Storing one element of a type of whole bytes writes its bytes. -/
theorem patch_storeElems_bytes (m : Memory) (a i x : Nat) {c : Nat} (h : c ≠ 8) :
    m.patch a (storeElems m a c i [x]) = m.writeLE (a + i * (typeBits c / 8)) x (typeBits c / 8) := by
  simp only [storeElems, if_neg h, packBytes, List.append_nil, patch_mapIdx]
  rfl

/-- The byte that holds code `i` of a CB4 block once it is stored. -/
def nibbleByte (old : Byte) (i x : Nat) : Byte :=
  BitVec.ofNat 8 (if i % 2 = 1 then old.toNat % 16 + x % 16 * 16 else x % 16 + old.toNat / 16 * 16)

theorem patch_storeElems_nibble (m : Memory) (a i x : Nat) :
    m.patch a (storeElems m a 8 i [x]) = m.set (a + i / 2) (nibbleByte (m.get (a + i / 2)) i x) := by
  simp only [storeElems, nibbleByte, if_true]
  split <;> rfl

theorem elemAt_storeElems (m : Memory) (a c i x : Nat) :
    elemAt (m.patch a (storeElems m a c i [x])) a c i = x % 2 ^ typeBits c := by
  by_cases h : c = 8
  · subst h
    rw [patch_storeElems_nibble, elemAt, if_pos rfl, Memory.get_set, if_pos rfl, nibbleByte, BitVec.toNat_ofNat]
    show _ = x % 16
    dsimp only
    split <;> split <;> omega
  · have hbits : 256 ^ (typeBits c / 8) = 2 ^ typeBits c := by
      rw [show 256 = 2 ^ 8 from rfl, ← Nat.pow_mul, ← typeBits_eq h]
    rw [patch_storeElems_bytes m a i x h, elemAt, if_neg h, readLE_writeLE, hbits]

/-- Storing one element leaves every byte that holds none of its bits. -/
theorem get_storeElems_outside (m : Memory) {a c i p : Nat} (x : Nat)
    (hp : p < a + i * typeBits c / 8 ∨ a + ((i + 1) * typeBits c + 7) / 8 ≤ p) :
    (m.patch a (storeElems m a c i [x])).get p = m.get p := by
  by_cases h : c = 8
  · subst h
    rw [show typeBits 8 = 4 from rfl] at hp
    rw [patch_storeElems_nibble, Memory.get_set, if_neg (by omega)]
  · rw [mul_typeBits h, mul_typeBits h, Nat.succ_mul i] at hp
    rw [patch_storeElems_bytes m a i x h, Memory.writeLE, Memory.get_write_outside _ (by rw [length_bytesLE]; omega)]

/-- Storing a CB4 code leaves the other nibble of its byte. -/
theorem getLsbD_nibbleByte (old : Byte) (i x : Nat) {j : Nat} (hj : j < 8) (h : if i % 2 = 1 then j < 4 else 4 ≤ j) :
    (nibbleByte old i x).getLsbD j = old.getLsbD j := by
  rw [nibbleByte, BitVec.getLsbD_ofNat, decide_eq_true hj, Bool.true_and, BitVec.getLsbD]
  split at h
  · next hi =>
    have := Nat.testBit_two_pow_mul_add (x % 16) (i := 4) (b := old.toNat % 16) (by omega) j
    rw [if_pos h] at this
    rw [if_pos hi, Nat.add_comm, Nat.mul_comm, this, show 16 = 2 ^ 4 from rfl, Nat.testBit_mod_two_pow]
    simp [h]
  · next hi =>
    have := Nat.testBit_two_pow_mul_add (old.toNat / 16) (i := 4) (b := x % 16) (by omega) j
    rw [if_neg (by omega)] at this
    rw [if_neg hi, Nat.add_comm, Nat.mul_comm, this, show 16 = 2 ^ 4 from rfl, Nat.testBit_div_two_pow]
    congr 1; omega

/-- Storing one element changes no bit but its own. -/
theorem getLsbD_storeElems_outside (m : Memory) {a c i b : Nat} (x : Nat)
    (hb : b < i * typeBits c ∨ (i + 1) * typeBits c ≤ b) :
    ((m.patch a (storeElems m a c i [x])).get (a + b / 8)).getLsbD (b % 8) = (m.get (a + b / 8)).getLsbD (b % 8) := by
  by_cases h : c = 8
  · subst h
    rw [show typeBits 8 = 4 from rfl] at hb
    rw [patch_storeElems_nibble, Memory.get_set]
    split
    · next he => rw [he, getLsbD_nibbleByte _ _ _ (by omega) (by split <;> omega)]
    · rfl
  · rw [get_storeElems_outside]
    rw [mul_typeBits h, mul_typeBits h] at hb ⊢
    omega

/-- The bytes of one element end where its bits do. -/
theorem elemSpan_one_le (c i : Nat) : (elemSpan c i 1).1 + (elemSpan c i 1).2 ≤ ((i + 1) * typeBits c + 7) / 8 := by
  unfold elemSpan
  split
  · next h => rw [h, show typeBits 8 = 4 from rfl]; dsimp only; omega
  · next h =>
    rw [mul_typeBits h, Nat.succ_mul i]
    dsimp only
    omega

/-- An element of a view lies within the view's bytes. -/
theorem elem_le_viewBytes {c i n : Nat} (h : i < n) : ((i + 1) * typeBits c + 7) / 8 ≤ viewBytes c n := by
  have : (i + 1) * typeBits c ≤ n * typeBits c := Nat.mul_le_mul_right _ h
  unfold viewBytes
  omega

/-- A marked table reads as marked wherever it lists an entry. -/
theorem tget_of_mem_marked {p : Nat} {v : Bool} : ∀ {t : Table Bool}, t.all (·.2) = true → (p, v) ∈ t → tget false t p = true
  | (k, w) :: t, hall, hp => by
    simp only [List.all_cons, Bool.and_eq_true] at hall
    simp only [tget]
    split
    · exact hall.1
    · next hne =>
      rcases List.mem_cons.1 hp with he | hp
      · exact absurd (congrArg Prod.fst he) hne
      · exact tget_of_mem_marked hall.2 hp

theorem State.poisoned_eq_false {s : State} {a n : Nat} (hm : s.poison.all (·.2) = true)
    (h : ∀ p, a ≤ p → p < a + n → tget false s.poison p = false) : s.poisoned a n = false := by
  unfold State.poisoned
  rw [List.any_eq_false]
  rintro ⟨p, v⟩ hp hq
  simp only [Bool.and_eq_true, decide_eq_true_eq] at hq
  obtain ⟨⟨hlo, hhi⟩, -⟩ := hq
  exact absurd ((h p hlo hhi).symm.trans (tget_of_mem_marked hm hp)) (by decide)

/-! ### TGET and TINS (R155) -/

/-- SHAPE holds a view of one operand, as R161 checks it. -/
theorem elemCause_eq_none {shape index w0 : Word} (hres : shapeReserved shape = false) (hc : shapeType shape < 9)
    (hrows : rowsOk (shapeRows shape) = true) (hcols : colsOk (shapeCols shape) = true)
    (hfits : viewBytes (shapeType shape) (shapeRows shape * shapeCols shape) ≤ 2048)
    (hi : index.toNat < shapeRows shape * shapeCols shape) : elemCause shape index w0 = none := by
  have hcheck : shapeCheck shape (shapeType shape) true true
      [{ rows := shapeRows shape, cols := shapeCols shape, type := shapeType shape }] = none := by
    simp [shapeCheck, hres, hrows, hcols, View.fits, View.count, hfits, Nat.not_le.2 hc]
  simp only [elemCause, hcheck]
  exact if_neg (Nat.not_le.2 hi)

/-- What TGET leaves of a state whose source it has admitted: the wait and the mark are over, and XD holds the element. -/
def State.tgetEnd (s : State) (o : Operand) (xd : BitVec 6) (v : Word) : State :=
  (((s.admitted o).noWait.takeMark o.key).xw xd v).advance 8

/-- What TINS leaves: a finished version of the reserved tile. -/
def State.tinsEnd (s : State) (key : Nat) (bytes : List (Nat × Byte)) (q : BitVec 4) : State :=
  ((s.reserved key).noWait.finishWrite key bytes q false (some (s.writerOf s.cur))).advance 8

section Ends

variable (s : State) (o : Operand) (xd : BitVec 6) (v : Word) (key : Nat) (bytes : List (Nat × Byte)) (q : BitVec 4)

theorem onlyTile_tgetEnd : OnlyTile s (s.tgetEnd o xd v) s.cur o.key :=
  ((((OnlyTile.admitted s o).thenSt _).trans (OnlyTile.setTile _ _ _ _)).thenSt _).thenSt _

theorem mem_tgetEnd : (s.tgetEnd o xd v).mem = s.mem := by
  rw [State.tgetEnd, State.advance_mem, State.xw_mem, State.takeMark, State.setTile_mem, State.noWait, State.setSt_mem,
    State.admitted_mem]

theorem st_tgetEnd : ∃ ssr, (s.tgetEnd o xd v).st = (({ s.st with ssr := ssr, wait := none } : Stream).xw xd v).advance 8 := by
  obtain ⟨ssr, h⟩ : ∃ ssr, (s.admitted o).st = { s.st with ssr := ssr } := by
    unfold State.st
    rw [State.admitted_cur, State.stream_admitted]
    split <;> exact ⟨_, rfl⟩
  refine ⟨ssr, ?_⟩
  rw [State.tgetEnd, State.st_advance, State.st_xw, State.takeMark, State.st_setTile, State.noWait, State.st_setSt, h]

theorem tile_tgetEnd (h : o.mark = true) : ((s.tgetEnd o xd v).tile o.key).inflight = (s.tile o.key).inflight ∧
    ((s.tgetEnd o xd v).tile o.key).count = (s.tile o.key).count := by
  rw [State.tgetEnd, State.tile_advance, State.tile_xw, State.takeMark, State.tile_setTile_self, Tile.restamp_inflight,
    Tile.restamp_count, State.noWait, State.tile_setSt, State.tile_admitted, if_pos rfl, Tile.restamp_inflight, Tile.restamp_count,
    admitRead_frame, h]
  exact ⟨rfl, rfl⟩

theorem onlyTile_tinsEnd : OnlyTile s (s.tinsEnd key bytes q) s.cur key :=
  (((OnlyTile.setTile s _ key _).thenSt _).trans (OnlyTile.finishWrite _ _ key bytes q _ _)).thenSt _

theorem mem_tinsEnd : (s.tinsEnd key bytes q).mem = s.mem.patch (tilePlace key) bytes := by
  rw [State.tinsEnd, State.advance_mem, State.mem_finishWrite, State.noWait, State.setSt_mem, State.reserved, State.setTile_mem,
    if_neg (by decide)]

theorem st_tinsEnd : (s.tinsEnd key bytes q).st = { s.st with pc := s.st.pc + 8, wait := none } := by
  rw [State.tinsEnd, State.st_advance, State.finishWrite_frame]
  show Stream.advance (State.noWait _).st 8 = _
  rw [State.noWait, State.st_setSt]
  rfl

theorem tile_tinsEnd : ((s.tinsEnd key bytes q).tile key).count = (s.tile key).count + 1 ∧
    ((s.tinsEnd key bytes q).tile key).quota = q ∧ ((s.tinsEnd key bytes q).tile key).skip = false := by
  rw [State.tinsEnd, State.tile_advance, State.tile_finishWrite, if_pos rfl, Tile.restamp_count, Tile.restamp_quota,
    Tile.restamp_skip, State.noWait, State.tile_setSt, State.reserved, State.tile_setTile_self, Tile.restamp_count]
  exact ⟨rfl, rfl, rfl⟩

end Ends

/-- TGET of a ready source and a clear element. -/
theorem execTget_ready {f : FK} {s : State} (hw : topTile f.top < s.launch.m.twin) (hg : s.st.guardTrue f.g = true)
    (hs : s.st.ssr.getLsbD 0 = false) (hc : elemCause s.st.shape (s.xr f.xa) (Instr.tget f).word0 = none)
    (hr : SourceReady s (s.operand f.top true)) :
    let o := s.operand f.top true
    let c := shapeType s.st.shape
    let i := (s.xr f.xa).toNat
    s.poisoned (tilePlace o.key + (elemSpan c i 1).1) (elemSpan c i 1).2 = false →
    execTget f s = .next (s.tgetEnd o f.xd (elemWord c (elemAt s.mem (tilePlace o.key) c i))) := by
  intro o c i hp
  have hpois : (s.admitted o).noWait.poisoned (tilePlace o.key + (elemSpan c i 1).1) (elemSpan c i 1).2 = false := by
    rw [← hp, State.noWait, State.poisoned, State.setSt_poison, State.admitted_frame, State.poisoned]
  have hmem : (s.admitted o).noWait.mem = s.mem := State.admitted_mem s o
  rw [execTget, tileGuard_of (i := .tget f) hw hg]
  simp only [hc]
  rw [tileStart_source hs hr, hmem, if_neg (Bool.eq_false_iff.1 hpois)]
  rfl

/-- TINS of a ready destination. -/
theorem execTins_ready {f : FK} {s : State} (hw : topTile f.top < s.launch.m.twin) (hg : s.st.guardTrue f.g = true)
    (hs : s.st.ssr.getLsbD 0 = false) (hc : elemCause s.st.shape (s.xr f.xa) (Instr.tins f).word0 = none)
    (hd : DestReady s (s.operand f.top false)) :
    let key := (s.operand f.top false).key
    let c := shapeType s.st.shape
    execTins f s = .next (s.tinsEnd key
      (storeElems s.mem (tilePlace key) c (s.xr f.xa).toNat [(s.xr f.xd).toNat % 2 ^ typeBits c]) f.q) := by
  intro key c
  have hx : (s.reserved key).noWait.xr f.xd = s.xr f.xd := by
    rw [State.xr, State.noWait, State.st_setSt]; rfl
  rw [execTins, tileGuard_of (i := .tins f) hw hg]
  simp only [hc]
  rw [tileStart_dest hs hd, hx]
  rfl

theorem elementMoves : ElementMoves := by
  intro f s hin hg hs o c i place hres hc hrows hcols hfits hi
  have hw : topTile f.top < s.launch.m.twin := hin
  have hcause : ∀ w0, elemCause s.st.shape (s.xr f.xa) w0 = none := fun w0 => elemCause_eq_none hres hc hrows hcols hfits hi
  have hend : ((i + 1) * typeBits c + 7) / 8 ≤ 2048 := Nat.le_trans (elem_le_viewBytes hi) hfits
  refine ⟨fun hr hclear hmarked => ?get, fun hd => ?ins⟩
  case get =>
    have hspan := elemSpan_one_le c i
    have hpois : s.poisoned (place + (elemSpan c i 1).1) (elemSpan c i 1).2 = false :=
      State.poisoned_eq_false hmarked fun p hlo hhi => hclear p (by omega) (by omega)
    have hexec := execTget_ready hw hg hs (hcause _) hr hpois
    obtain ⟨v, hv⟩ : ∃ v, v = elemWord c (elemAt s.mem place c i) := ⟨_, rfl⟩
    rw [← hv] at hexec ⊢
    obtain ⟨ssr, hst⟩ := st_tgetEnd s o f.xd v
    obtain ⟨hinflight, hcount⟩ := tile_tgetEnd s o f.xd v rfl
    have hxr : ∀ r, (s.tgetEnd o f.xd v).xr r = if r = 0 then 0 else if r = f.xd then v else s.xr r := fun r => by
      rw [State.xr, hst, Stream.xr_advance, Stream.xr_xw]; rfl
    refine ⟨_, hexec, onlyTile_tgetEnd .., SameMemory.of_mem (mem_tgetEnd ..), ?pc, fun hd => ?dest, fun r hne => ?others,
      hinflight, hcount⟩
    case pc => rw [hst, Stream.advance_pc, Stream.xw_pc]; rfl
    case dest => rw [hxr, if_neg hd, if_pos rfl]
    case others =>
      rw [hxr, if_neg hne]
      split
      · next h0 => rw [h0]; rfl
      · rfl
  case ins =>
    have hexec : exec (.tins f) s = .next (s.tinsEnd o.key _ f.q) := execTins_ready hw hg hs (hcause _) hd
    obtain ⟨hcount, hquota, hskip⟩ := tile_tinsEnd s o.key _ f.q
    refine ⟨_, hexec, onlyTile_tinsEnd .., st_tinsEnd .., ?elem, fun b _ hb => ?bits, fun p hp => ?outside, hcount, hquota, hskip⟩
    case elem =>
      rw [mem_tinsEnd]
      exact (elemAt_storeElems s.mem place c i _).trans (Nat.mod_mod _ _)
    case bits =>
      rw [mem_tinsEnd]
      exact getLsbD_storeElems_outside s.mem _ hb
    case outside =>
      rw [mem_tinsEnd]
      exact get_storeElems_outside (c := c) (i := i) s.mem _ (by omega)

/-- Settles O21: the start of a ready instruction is one known state, and storing one element writes only its own bits. -/
theorem tileStateAndElements : Obligations.TileStateAndElements := ⟨quotaResetAndState, elementMoves⟩

end Sys2Proof.Machine
end

section
/-! PROOF. The moves of the accumulators and what a matrix entry tests (R270, R277 to R281): the start of a ready entry is one known
commit, an accumulator reads as the words put into it, and the elements of a version are those packed into its bytes. -/

namespace Sys2Proof

/-! ### Tables in pieces -/

theorem tget_of_not_mem {α : Type} (d : α) {a : Nat} : ∀ {t : Table α}, (∀ e ∈ t, e.1 ≠ a) → tget d t a = d
  | [], _ => rfl
  | (k, v) :: t, h => by
    have hk : k ≠ a := h (k, v) List.mem_cons_self
    rw [tget, if_neg hk.symm, tget_of_not_mem d fun e he => h e (List.mem_cons_of_mem _ he)]

theorem tget_append_of_left {α : Type} (d : α) {u : Table α} {a : Nat} (hu : ∀ e ∈ u, e.1 ≠ a) :
    ∀ t : Table α, tget d (t ++ u) a = tget d t a
  | [] => tget_of_not_mem d hu
  | (k, v) :: t => by rw [List.cons_append, tget, tget, tget_append_of_left d hu t]

theorem tget_append_of_right {α : Type} (d : α) (u : Table α) {a : Nat} :
    ∀ {t : Table α}, (∀ e ∈ t, e.1 ≠ a) → tget d (t ++ u) a = tget d u a
  | [], _ => rfl
  | (k, v) :: t, h => by
    have hk : k ≠ a := h (k, v) List.mem_cons_self
    rw [List.cons_append, tget, if_neg hk.symm, tget_append_of_right d u fun e he => h e (List.mem_cons_of_mem _ he)]

theorem tget_filter_key {α : Type} (d : α) {p : Nat → Bool} {a : Nat} (ha : p a = true) :
    ∀ t : Table α, tget d (t.filter fun e => p e.1) a = tget d t a
  | [] => rfl
  | (k, v) :: t => by
    have ih := tget_filter_key d ha t
    rw [List.filter_cons]
    split
    · rw [tget, tget, ih]
    · next hk =>
      have hne : a ≠ k := fun e => hk (e ▸ ha)
      rw [ih, tget, if_neg hne]

theorem key_ne_of_mem_filter {α : Type} {p : Nat → Bool} {a : Nat} (ha : p a = false) {t : Table α} :
    ∀ e ∈ t.filter fun e => p e.1, e.1 ≠ a := fun e he h => by
  have hp : p e.1 = true := (List.mem_filter.1 he).2
  rw [h, ha] at hp
  exact absurd hp (by decide)

/-- A list of values laid out from key `o` on, its defaults left out, reads as the list. -/
theorem tget_filter_mapIdx {α β : Type} [DecidableEq β] (d : β) (g : α → β) (a : Nat) : ∀ (ws : List α) (o : Nat),
    tget d ((ws.mapIdx fun i w => (o + i, g w)).filter fun e => e.2 != d) a = if o ≤ a then (ws.map g).getD (a - o) d else d
  | [], o => by simp
  | w :: ws, o => by
    have ih := tget_filter_mapIdx d g a ws (o + 1)
    simp only [Nat.add_assoc, Nat.add_comm 1] at ih
    have hlater : o + 1 ≤ a → (ws.map g).getD (a - (o + 1)) d = ((w :: ws).map g).getD (a - o) d := fun h => by
      rw [show a - o = a - (o + 1) + 1 by omega, List.map_cons, List.getD_cons_succ]
    rw [List.mapIdx_cons, List.filter_cons]
    by_cases ha : a = o
    · subst ha
      rw [if_neg (Nat.not_succ_le_self a)] at ih
      rw [if_pos (Nat.le_refl a), Nat.sub_self, List.map_cons, List.getD_cons_zero]
      by_cases hw : g w = d
      · rw [if_neg (by simp only [hw, bne_self_eq_false, Bool.false_eq_true, not_false_eq_true]), ih, hw]
      · rw [if_pos (bne_iff_ne.2 hw)]
        exact if_pos rfl
    · have hrest : (if o + 1 ≤ a then (ws.map g).getD (a - (o + 1)) d else d) =
          if o ≤ a then ((w :: ws).map g).getD (a - o) d else d := by
        by_cases h : o + 1 ≤ a
        · rw [if_pos h, if_pos (by omega), hlater h]
        · rw [if_neg h, if_neg (by omega)]
      rw [← hrest, ← ih]
      split
      · exact if_neg ha
      · rfl

/-! ### Bytes in pieces -/

theorem natLE_lt : ∀ bs : List Byte, natLE bs < 256 ^ bs.length
  | [] => Nat.one_pos
  | b :: bs => by
    have ih := natLE_lt bs
    have hb := b.isLt
    rw [natLE, List.length_cons, Nat.pow_succ]
    omega

theorem Memory.readLE_lt (m : Memory) (a n : Nat) : m.readLE a n < 256 ^ n := by
  have h := natLE_lt (m.read a n)
  rwa [Memory.length_read] at h

theorem Memory.patch_append : ∀ (m : Memory) (a : Nat) (bs cs : List (Nat × Byte)),
    m.patch a (bs ++ cs) = (m.patch a bs).patch a cs
  | _, _, [], _ => rfl
  | m, a, (o, b) :: bs, cs => Memory.patch_append (m.set (a + o) b) a bs cs

end Sys2Proof

namespace Sys2Proof.Machine

/-! ### The elements of a packed version (R160) -/

/-- A packed element is written, and those after it. -/
theorem patch_packBytes_cons (m : Memory) (a n o x : Nat) (xs : List Nat) :
    m.patch a (packBytes n o (x :: xs)) = (m.writeLE (a + o) x n).patch a (packBytes n (o + n) xs) := by
  rw [packBytes, Memory.patch_append, patch_mapIdx]
  rfl

theorem readLE_patch_packBytes_before (a n : Nat) {p : Nat} : ∀ (xs : List Nat) (m : Memory) (o : Nat), p + n ≤ a + o →
    (m.patch a (packBytes n o xs)).readLE p n = m.readLE p n
  | [], _, _, _ => rfl
  | x :: xs, m, o, h => by
    rw [patch_packBytes_cons, readLE_patch_packBytes_before a n xs _ (o + n) (by omega), Memory.readLE, Memory.writeLE,
      Memory.read_write_outside m (.inl h)]
    rfl

theorem readLE_patch_packBytes (a n : Nat) : ∀ (xs : List Nat) (m : Memory) (o i : Nat), i < xs.length →
    (m.patch a (packBytes n o xs)).readLE (a + o + i * n) n = xs.getD i 0 % 256 ^ n
  | x :: xs, m, o, 0, _ => by
    rw [patch_packBytes_cons, readLE_patch_packBytes_before a n xs _ _ (by omega), Nat.zero_mul, Nat.add_zero, readLE_writeLE]
    rfl
  | x :: xs, m, o, i + 1, h => by
    have ih := readLE_patch_packBytes a n xs (m.writeLE (a + o) x n) (o + n) i (by simpa using h)
    rw [patch_packBytes_cons, List.getD_cons_succ, ← ih, Nat.succ_mul]
    congr 1
    omega

theorem pow_typeBits {c : Nat} (h : c ≠ 8) : 256 ^ (typeBits c / 8) = 2 ^ typeBits c := by
  rw [show 256 = 2 ^ 8 from rfl, ← Nat.pow_mul, ← typeBits_eq h]

theorem elemAt_lt (m : Memory) (a i : Nat) {c : Nat} (h : c ≠ 8) : elemAt m a c i < 2 ^ typeBits c := by
  rw [elemAt, if_neg h, ← pow_typeBits h]
  exact Memory.readLE_lt ..

/-- The elements of a version whose bytes are packed elements. -/
theorem elemAt_patch_packBytes (m : Memory) (a c : Nat) {xs : List Nat} {i : Nat} (h : c ≠ 8) (hi : i < xs.length)
    (hx : xs.getD i 0 < 2 ^ typeBits c) :
    elemAt (m.patch a (packBytes (typeBits c / 8) 0 xs)) a c i = xs.getD i 0 := by
  have hread := readLE_patch_packBytes a (typeBits c / 8) xs m 0 i hi
  rw [Nat.add_zero] at hread
  rw [elemAt, if_neg h, hread, pow_typeBits h, Nat.mod_eq_of_lt hx]

theorem elemsFrom_eq_map (m : Memory) (a c : Nat) : ∀ n first,
    elemsFrom m a c first n = (List.range n).map fun i => elemAt m a c (first + i)
  | 0, _ => rfl
  | n + 1, first => by
    rw [elemsFrom, elemsFrom_eq_map m a c n (first + 1), List.range_succ_eq_map, List.map_cons, List.map_map]
    simp only [Nat.add_zero, Function.comp_def, Nat.succ_eq_add_one, Nat.add_assoc, Nat.add_comm 1]

theorem narrow_lt (c : Nat) (sat : Bool) (v : Int) : narrow c sat v < 2 ^ typeBits c := by
  have hpos : (0 : Int) < 2 ^ typeBits c := Int.pow_pos (by decide)
  unfold narrow
  dsimp only
  generalize (if sat = true then _ else v) = u
  have hlt := Int.emod_lt_of_pos u hpos
  have hnonneg := Int.emod_nonneg u (Int.ne_of_gt hpos)
  rw [← Int.ofNat_lt, Int.toNat_of_nonneg hnonneg, Int.natCast_pow]
  exact hlt

/-- A signed pattern of a BF16 magnitude has 16 bits. -/
theorem bf16_signed_lt (neg : Bool) {b : Nat} (h : b < 2 ^ 15) : bf16.signed neg b < 2 ^ 16 := by
  have hsign : bf16.signBit = 2 ^ 15 := rfl
  unfold Fmt.signed
  split <;> omega

theorem bf16_roundFrac_lt (mode : Mode) (neg : Bool) (num den : Nat) : (bf16.roundFrac mode neg num den).1 < 2 ^ 16 := by
  have hinf : bf16.infBits = 32640 := rfl
  unfold Fmt.roundFrac
  refine iteInduction (motive := fun r : Nat × BitVec 6 => r.1 < 2 ^ 16) (fun _ => ?zero) fun _ =>
    iteInduction (motive := fun r : Nat × BitVec 6 => r.1 < 2 ^ 16) (fun _ => ?overflow) fun hfin => ?finite
  case zero => exact bf16_signed_lt neg (by decide)
  case overflow => exact bf16_signed_lt neg (iteInduction (motive := (· < 2 ^ 15)) (fun _ => by decide) fun _ => by decide)
  case finite =>
    rw [hinf] at hfin
    exact bf16_signed_lt neg (Nat.lt_trans (Nat.not_le.1 hfin) (by decide))

theorem bf16_round_lt (mode : Mode) : ∀ v, (bf16.round mode v).1 < 2 ^ 16
  | .nan => (by decide : bf16.nanBits < 2 ^ 16)
  | .inf neg => bf16_signed_lt neg (by decide)
  | .fin neg n e => bf16_roundFrac_lt mode neg _ _

/-! ### Accumulators (R264) -/

theorem accWord_lt (t : Stream) (a m n : Nat) : accWord t a m n < 2 ^ 32 := (tget 0 t.acc _).isLt

theorem length_accWords (t : Stream) (a : Nat) : (t.accWords a).length = 1024 := by simp [Stream.accWords]

/-- Word i of an accumulator stands at row i / 32 and column i mod 32. -/
theorem accWords_getD (t : Stream) (a : Nat) {i : Nat} (h : i < 1024) :
    (t.accWords a).getD i 0 = accWord t a (i / 32) (i % 32) := by
  have hi : 1024 * a + 32 * (i / 32) + i % 32 = 1024 * a + i := by omega
  simp [Stream.accWords, accWord, hi, h, List.getD_eq_getElem?_getD]

/-- An accumulator reads as the words put into it, and the others as before. -/
theorem accWord_setAcc (t : Stream) (a : Nat) {ws : List Nat} (hlen : ws.length = 1024) (b : Nat) {m n : Nat} (hm : m < 32)
    (hn : n < 32) : accWord (t.setAcc a ws) b m n = if b = a then ws.getD (32 * m + n) 0 % 2 ^ 32 else accWord t b m n := by
  have hlow : ∀ k, 1024 * a ≤ k → ∀ e ∈ t.acc.filter fun e => decide (e.1 < 1024 * a), e.1 ≠ k := fun k hk =>
    key_ne_of_mem_filter (p := fun k => decide (k < 1024 * a)) (decide_eq_false (by omega))
  have hhigh : ∀ k, k < 1024 * a + 1024 → ∀ e ∈ t.acc.filter fun e => decide (1024 * a + 1024 ≤ e.1), e.1 ≠ k := fun k hk =>
    key_ne_of_mem_filter (p := fun k => decide (1024 * a + 1024 ≤ k)) (decide_eq_false (by omega))
  have htake : ws.take 1024 = ws := List.take_of_length_le (Nat.le_of_eq hlen)
  have hnew : ∀ k, tget 0 ((ws.mapIdx fun i w => (1024 * a + i, BitVec.ofNat 32 w)).filter fun e => e.2 != 0) k =
      if 1024 * a ≤ k then (ws.map (BitVec.ofNat 32)).getD (k - 1024 * a) 0 else 0 := fun k =>
    tget_filter_mapIdx 0 (BitVec.ofNat 32) k ws (1024 * a)
  have hkeys : ∀ e ∈ (ws.mapIdx fun i w => (1024 * a + i, BitVec.ofNat 32 w)).filter (fun e => e.2 != 0),
      1024 * a ≤ e.1 ∧ e.1 < 1024 * a + 1024 := fun e he => by
    obtain ⟨i, hi, rfl⟩ := List.mem_mapIdx.1 (List.mem_filter.1 he).1
    dsimp only
    omega
  unfold accWord Stream.setAcc
  rw [htake]
  dsimp only
  generalize hk : 1024 * b + 32 * m + n = k
  split
  · next hb =>
    subst hb
    rw [tget_append_of_left 0 (hhigh k (by omega)), tget_append_of_right 0 _ (hlow k (by omega)), hnew, if_pos (by omega),
      show k - 1024 * b = 32 * m + n by omega]
    have hi : 32 * m + n < ws.length := by omega
    simp [List.getD_eq_getElem?_getD, hi]
  · next hb =>
    rcases Nat.lt_or_gt_of_ne hb with hlt | hgt
    · rw [tget_append_of_left 0 (hhigh k (by omega)), tget_append_of_left 0 fun e he => by have := hkeys e he; omega]
      exact congrArg BitVec.toNat (tget_filter_key 0 (p := fun k => decide (k < 1024 * a)) (decide_eq_true (by omega)) _)
    · rw [List.append_assoc, tget_append_of_right 0 _ (hlow k (by omega)),
        tget_append_of_right 0 _ fun e he => by have := hkeys e he; omega]
      exact congrArg BitVec.toNat (tget_filter_key 0 (p := fun k => decide (1024 * a + 1024 ≤ k)) (decide_eq_true (by omega)) _)

/-- A zeroed accumulator reads as zeros, and the others as before. -/
theorem accWord_zeroAcc (t : Stream) (a b : Nat) {m n : Nat} (hm : m < 32) (hn : n < 32) :
    accWord (t.zeroAcc a) b m n = if b = a then 0 else accWord t b m n := by
  obtain ⟨k, hk⟩ : ∃ k, k = 1024 * b + 32 * m + n := ⟨_, rfl⟩
  have hb : k / 1024 = b := by omega
  rw [accWord, accWord, ← hk, Stream.zeroAcc]
  split
  · next h =>
    rw [tget_of_not_mem 0 (key_ne_of_mem_filter (p := fun k => k / 1024 != a) (by simp [hb, h]))]
    rfl
  · next h => exact congrArg BitVec.toNat (tget_filter_key 0 (p := fun k => k / 1024 != a) (by simpa [hb] using h) _)

end Sys2Proof.Machine
namespace Sys2Proof.Machine

/-! ### What the admissions of a start leave alone (R106, R107) -/

/-- From `s` to `s1` only tiles and the acting stream's SSR may have changed. -/
def Admits (s s1 : State) : Prop :=
  s1 = { s with streams := s1.streams, tiles := s1.tiles } ∧ (∀ k ≠ s.cur, s1.stream k = s.stream k) ∧
    s1.st = { s.st with ssr := s1.st.ssr }

theorem Admits.refl (s : State) : Admits s s := ⟨rfl, fun _ _ => rfl, rfl⟩

theorem Admits.cur {s s1 : State} (h : Admits s s1) : s1.cur = s.cur := by rw [h.1]
theorem Admits.mem {s s1 : State} (h : Admits s s1) : s1.mem = s.mem := by rw [h.1]
theorem Admits.codebooks {s s1 : State} (h : Admits s s1) : s1.codebooks = s.codebooks := by rw [h.1]
theorem Admits.coreKeyOf {s s1 : State} (h : Admits s s1) (k : Nat) : s1.coreKeyOf k = s.coreKeyOf k := by rw [h.1]; rfl

theorem Admits.trans {s t u : State} (h : Admits s t) (h' : Admits t u) : Admits s u := by
  have hcur := h.cur
  obtain ⟨ht, hothers, hst⟩ := h
  obtain ⟨hu, hothers', hst'⟩ := h'
  exact ⟨by rw [hu, ht], fun k hk => (hothers' k (hcur ▸ hk)).trans (hothers k hk), by rw [hst', hst]⟩

theorem Admits.setTile (s : State) (key : Nat) (x : Tile) : Admits s (s.setTile key x) := ⟨rfl, fun _ _ => rfl, rfl⟩

theorem Admits.setSsr (s : State) (w : Word) : Admits s (s.setSt { s.st with ssr := w }) :=
  ⟨rfl, fun k hk => by rw [State.stream_setSt, if_neg hk], by rw [State.st_setSt]⟩

theorem Admits.admitAll : ∀ (os : List Operand) (s : State), Admits s (s.admitAll os).1
  | [], s => .refl s
  | o :: os, s => (Admits.setTile s o.key _).trans (Admits.admitAll os _)

theorem Admits.reserve : ∀ (os : List Operand) (s : State), Admits s (s.reserve os)
  | [], s => .refl s
  | o :: os, s => (Admits.setTile s o.key _).trans (Admits.reserve os _)

theorem Admits.of_starts {s s1 : State} {me : Nat} {st : Bool} {srcs dsts : List Operand}
    (h : s.startTiles me st srcs dsts = .starts s1) : Admits s s1 := by
  have hoverread : Admits s (if (s.admitAll srcs).2 then
      (s.admitAll srcs).1.setSt { (s.admitAll srcs).1.st with ssr := (s.admitAll srcs).1.st.ssr ||| 2 }
      else (s.admitAll srcs).1) := by
    split
    · exact (Admits.admitAll srcs s).trans (Admits.setSsr _ _)
    · exact Admits.admitAll srcs s
  unfold State.startTiles at h
  split at h
  · cases h
  · dsimp only at h
    split at h
    · cases h
    · split at h
      · cases h
      · split at h
        · cases h
        · split at h
          · cases h
          · cases h
            exact hoverread.trans (Admits.reserve dsts _)

theorem State.startTiles_nil (s : State) (me : Nat) (st : Bool) : s.startTiles me st [] [] = .starts s := by
  cases st <;> rfl

/-! ### The start of an entry at the head of its queue (R106, R114, R117) -/

theorem longWith_atHead {i : Instr} {f : FL} {bind : Stream → Entry → Stream × Entry} {s : State} {unit : Nat} {e : Entry}
    (h : s.AtHead unit e) (start : Nat → Entry → State → Result) : longWith i f bind s start = start unit e s := by
  obtain ⟨hactor, rest, hentries⟩ := h
  simp only [longWith, hactor, hentries]

/-- A plan that passes its checks starts its work. -/
theorem longInstr_atHead {i : Instr} {f : FL} {s : State} {unit : Nat} {e : Entry} {plan : Entry → State → Except Cause Work}
    {w : Work} (h : s.AtHead unit e) (hplan : plan e s = .ok w) :
    longInstr i f s plan = s.startEntry unit e (f.sk = 1) f.dq w := by
  rw [longInstr, longWith_atHead h]
  simp only [hplan]

/-- Work that finds its tiles ready, with no skip to propagate and nothing poisoned, is committed. -/
theorem State.startEntry_starts {s s1 : State} {unit : Nat} {e : Entry} {sk : Bool} {w : Work} (dq : BitVec 4)
    (hstart : s.startTiles (s.cur * 8 + unit) (strict e.ssr) w.srcs w.dsts = .starts s1)
    (hskip : (sk && s.skipped w.srcs) = false) (hcheck : w.check s = none)
    (hreads : ∀ r ∈ w.reads, s.poisoned r.1 r.2 = false) :
    s.startEntry unit e sk dq w = s1.commit unit e false dq w := by
  have hclean : w.reads.find? (fun r => s.poisoned r.1 r.2) = none := by
    rw [List.find?_eq_none]
    exact fun r hr => by rw [hreads r hr]; exact Bool.false_ne_true
  simp only [State.startEntry, hstart, hskip, hcheck, hclean]

theorem State.poisoned_of_nil {s : State} (h : s.poison = []) (a n : Nat) : s.poisoned a n = false := by
  rw [State.poisoned, h]; rfl

theorem startEntry_of_matrixReady {s s1 : State} {f : FL} {e : Entry} {w : Work} (h : MatrixReady s s1 f e w.srcs w.dsts)
    (hcheck : w.check s = none) : s.startEntry 1 e (f.sk = 1) f.dq w = s1.commit 1 e false f.dq w := by
  obtain ⟨-, hstart, hpoison, hsk⟩ := h
  refine State.startEntry_starts f.dq hstart ?_ hcheck fun r _ => State.poisoned_of_nil hpoison ..
  rcases hsk with hsk | hnone
  · rw [hsk]; rfl
  · have hskipped : s.skipped w.srcs = false := by
      unfold State.skipped
      rw [List.any_eq_false]
      intro o ho
      rcases hnone o ho with hmode | hskip
      · simp [hmode]
      · simp [hskip]
    rw [hskipped, Bool.and_false]

/-! ### What a commit leaves (R106) -/

/-- The running entry of work that starts with the effect `fx` and propagates no skip. -/
def Work.started (w : Work) (unit : Nat) (e : Entry) (dq : BitVec 4) (fx : Effect) : Running :=
  { unit := unit, entry := e, marks := (w.srcs.filter Operand.mark).map Operand.key,
    versions := w.dsts.mapIdx fun n o => { tile := o.key, bytes := fx.versions.getD n [], quota := dq, skip := false },
    flags := fx.flags, progress := 0, total := fx.total, codebook := fx.codebook, paging := none, porter := fx.porter }

theorem OnlyStream.popHead (s : State) (unit : Nat) : OnlyStream s (s.popHead unit) s.cur := OnlyStream.setSt s _

theorem State.st_popHead_matrix (s : State) : (s.popHead 1).st =
    { s.st with matrixQ := { s.st.matrixQ with entries := s.st.matrixQ.entries.tail, wait := none, paging := none, passed := [] } } := by
  rw [State.popHead, State.st_setSt]
  rfl

/-- The state of a commit after the effect of its work, before the entry joins those that run. -/
def Work.after (w : Work) (s1 : State) (unit : Nat) : State := (w.run (s1.popHead unit)).post (s1.popHead unit)

theorem commit_of_always_id {w : Work} (halways : w.always = id) (s1 : State) (unit : Nat) (e : Entry) (dq : BitVec 4) :
    s1.commit unit e false dq w = .next ((w.after s1 unit).setSt { (w.after s1 unit).st with
      running := (w.after s1 unit).st.running ++ [w.started unit e dq (w.run (s1.popHead unit))] }) := by
  simp only [State.commit, halways]
  rfl

/-- Work whose effect besides its versions is an update of the acting stream changes that stream alone. -/
theorem commit_of_setSt {s1 : State} {unit : Nat} {e : Entry} {dq : BitVec 4} {w : Work} {g : Stream → Stream}
    (halways : w.always = id) (hpost : (w.run (s1.popHead unit)).post = fun s => s.setSt (g s.st)) :
    ∃ t, s1.commit unit e false dq w = .next t ∧ OnlyStream s1 t s1.cur ∧
      t.st = { g (s1.popHead unit).st with
        running := (g (s1.popHead unit).st).running ++ [w.started unit e dq (w.run (s1.popHead unit))] } := by
  have hafter : w.after s1 unit = (s1.popHead unit).setSt (g (s1.popHead unit).st) := by rw [Work.after, hpost]
  refine ⟨_, commit_of_always_id halways s1 unit e dq, ?only, ?st⟩
  case only =>
    rw [hafter]
    exact (OnlyStream.popHead s1 unit).trans ((OnlyStream.setSt (s1.popHead unit) _).trans (OnlyStream.setSt _ _))
  case st => rw [State.st_setSt, hafter, State.st_setSt]

/-- Work with no destination, whose effect is new words in accumulator `a` of the acting stream, makes that accumulator. -/
theorem makesAccumulator_of_commit {s s1 : State} {i : Instr} {e : Entry} {dq : BitVec 4} {w : Work} {g : Stream → Stream}
    {a : Nat} {val : Nat → Nat → Nat} (hadmits : Admits s s1) (hexec : exec i s = s1.commit 1 e false dq w)
    (halways : w.always = id) (hdsts : w.dsts = []) (hmarks : ∀ o ∈ w.srcs, o.mark = true)
    (hpost : (w.run (s1.popHead 1)).post = fun s => s.setSt (g s.st)) (hacc : ∀ t, g t = { t with acc := (g t).acc })
    (hval : ∀ t, ∀ m < 32, ∀ n < 32, accWord (g t) a m n = val m n)
    (hothers : ∀ t, ∀ b ≠ a, ∀ m < 32, ∀ n < 32, accWord (g t) b m n = accWord t b m n) :
    MakesAccumulator s s1 i e w.srcs a 0 val := by
  obtain ⟨t, hnext, ⟨hframe, hstreams⟩, hst⟩ := commit_of_setSt (e := e) (dq := dq) halways hpost
  have hpop := State.st_popHead_matrix s1
  obtain ⟨-, -, hadmit⟩ := id hadmits
  have hword : ∀ b m n, accWord t.st b m n = accWord (g (s1.popHead 1).st) b m n := fun b m n => by rw [hst]; rfl
  have hbefore : ∀ b m n, accWord (s1.popHead 1).st b m n = accWord s.st b m n := fun b m n => by rw [hpop, hadmit]; rfl
  refine ⟨t, w.started 1 e dq (w.run (s1.popHead 1)), hexec.trans hnext, by rw [hframe], ?streams, ?queue, ?st, rfl, ?marks,
    ?versions, fun m hm n hn => ?val, fun b _ hb m hm n hn => ?others⟩
  case streams => rwa [hadmits.cur] at hstreams
  case queue =>
    rw [hst, hacc, hpop, hadmit]
    rfl
  case st =>
    rw [hst, hacc, hpop, hadmit, BitVec.add_zero]
    rfl
  case marks => rw [Work.started, List.filter_eq_self.2 hmarks]
  case versions => rw [Work.started, hdsts]; rfl
  case val => rw [hword, hval _ m hm n hn]
  case others => rw [hword, hothers _ b hb m hm n hn, hbefore]

end Sys2Proof.Machine
namespace Sys2Proof.Machine

/-! ### MZERO and MLDACC (R279, R280) -/

/-- What MZERO starts: no operand, and its accumulator zeroed. -/
def mzeroWork (f : FL) : Work :=
  { srcs := [], dsts := [], run := fun _ => { post := fun s => s.setSt (s.st.zeroAcc (accNo f)) } }

theorem execMzero_atHead {f : FL} {s : State} {e : Entry} (h : s.AtHead 1 e) :
    exec (.mzero f) s = s.startEntry 1 e (f.sk = 1) f.dq (mzeroWork f) := by
  show execMzero f s = _
  exact longInstr_atHead h rfl

theorem mzero_makesAccumulator {f : FL} {s : State} {e : Entry} (h : s.AtHead 1 e) :
    MakesAccumulator s s (.mzero f) e [] (accNo f) 0 fun _ _ => 0 := by
  have hcommit : s.startEntry 1 e (f.sk = 1) f.dq (mzeroWork f) = s.commit 1 e false f.dq (mzeroWork f) :=
    State.startEntry_starts f.dq (s.startTiles_nil _ _) (Bool.and_false _) rfl fun _ hr => nomatch hr
  exact makesAccumulator_of_commit (g := fun t => t.zeroAcc (accNo f)) (.refl s) ((execMzero_atHead h).trans hcommit) rfl rfl
    (fun _ ho => nomatch ho) rfl (fun _ => rfl) (fun t m hm n hn => by rw [accWord_zeroAcc t _ _ hm hn, if_pos rfl])
    fun t b hb m hm n hn => by rw [accWord_zeroAcc t _ _ hm hn, if_neg hb]

theorem mark_of_mem_pairOps {pair : Bool} {o : Operand} (h : o.mark = true) : ∀ x ∈ pairOps o pair, x.mark = true := by
  cases pair <;> simp [pairOps, Operand.twin, h]

/-- MDRAIN and MLDACC name a pair of tiles where their type has 32 bits. -/
def takesPair (f : FL) : Bool := f.opxType = 0 || f.opxType = 2

theorem takesPair_of_wide {f : FL} (h : f.opxType = 0 ∨ f.opxType = 2) : takesPair f = true := by simpa [takesPair] using h

theorem takesPair_of_narrow {f : FL} (h : f.opxType = 1 ∨ f.opxType = 6) : takesPair f = false := by
  rcases h with h | h <;> simp [takesPair, h]

/-- The words that MLDACC takes from its operand. -/
def loadedWords (f : FL) (m : Memory) (p : Nat) : List Nat :=
  if takesPair f then elemsFrom m p 0 0 1024
  else if f.opxType = 1 then (elemsFrom m p 1 0 1024).map fun b => if (bf16.val b).isNan then f32.nanBits else b * 2 ^ 16
  else (elemsFrom m p 6 0 1024).map fun b => (sextNat b 8 % 2 ^ 32).toNat

theorem length_loadedWords (f : FL) (m : Memory) (p : Nat) : (loadedWords f m p).length = 1024 := by
  unfold loadedWords
  split
  · simp [elemsFrom_eq_map]
  · split <;> simp [elemsFrom_eq_map]

/-- What MLDACC starts on the operand `a`. -/
def mldaccWork (f : FL) (a : Operand) : Work :=
  { srcs := pairOps a (takesPair f), dsts := [],
    reads := [(tilePlace a.key, if takesPair f then 4096 else if f.opxType = 1 then 2048 else 1024)],
    run := fun s => { post := fun t => t.withAcc (accNo f) (loadedWords f s.mem (tilePlace a.key)) } }

theorem execMldacc_atHead {f : FL} {s : State} {e : Entry} (h : s.AtHead 1 e) :
    exec (.mldacc f) s = s.startEntry 1 e (f.sk = 1) f.dq (mldaccWork f (s.entryOp f.ta e.eta true)) := by
  show execMldacc f s = _
  exact longInstr_atHead h rfl

theorem mldacc_makesAccumulator {f : FL} {s s1 : State} {e : Entry} {os : List Operand} {val : Nat → Nat → Nat}
    (hos : pairOps (s.entryOp f.ta e.eta true) (takesPair f) = os) (h : MatrixReady s s1 f e os [])
    (hval : ∀ m < 32, ∀ n < 32,
      (loadedWords f s.mem (tilePlace (s.entryOp f.ta e.eta true).key)).getD (32 * m + n) 0 % 2 ^ 32 = val m n) :
    MakesAccumulator s s1 (.mldacc f) e os (accNo f) 0 val := by
  subst hos
  obtain ⟨a, ha⟩ : ∃ a, a = s.entryOp f.ta e.eta true := ⟨_, rfl⟩
  have hexec := (execMldacc_atHead h.1).trans (startEntry_of_matrixReady (w := mldaccWork f _) h rfl)
  have hadmits := Admits.of_starts h.2.1
  have hmem : (s1.popHead 1).mem = s.mem := hadmits.mem
  have hpost : ((mldaccWork f a).run (s1.popHead 1)).post =
      fun t => t.setSt (t.st.setAcc (accNo f) (loadedWords f s.mem (tilePlace a.key))) := by
    rw [← hmem]; rfl
  have hlen := length_loadedWords f s.mem (tilePlace a.key)
  rw [← ha] at hexec hval ⊢
  exact makesAccumulator_of_commit hadmits hexec rfl rfl (mark_of_mem_pairOps (ha ▸ rfl)) hpost (fun _ => rfl)
    (fun t m hm n hn => by rw [accWord_setAcc t _ hlen _ hm hn, if_pos rfl, hval m hm n hn])
    fun t b hb m hm n hn => by rw [accWord_setAcc t _ hlen _ hm hn, if_neg hb]

/-- The words of a pair of tiles. -/
theorem loadedWords_pair {f : FL} (h : f.opxType = 0 ∨ f.opxType = 2) (m : Memory) (p : Nat) {i : Nat} (hi : i < 1024) :
    (loadedWords f m p).getD i 0 % 2 ^ 32 = elemAt m p 0 i := by
  have hpair := takesPair_of_wide h
  rw [loadedWords, if_pos hpair, elemsFrom_eq_map]
  simp only [List.getD_eq_getElem?_getD, List.getElem?_map, List.getElem?_range hi, Option.map_some, Option.getD_some, Nat.zero_add]
  exact Nat.mod_eq_of_lt (elemAt_lt m p i (by decide))

/-- The BF16 elements of a tile, widened to binary32. -/
theorem loadedWords_bf16 {f : FL} (h : f.opxType = 1) (m : Memory) (p : Nat) {i : Nat} (hi : i < 1024) :
    (loadedWords f m p).getD i 0 % 2 ^ 32 =
      if bf16.val (elemAt m p 1 i) = .nan then 0x7FC00000 else elemAt m p 1 i * 2 ^ 16 := by
  have hpair := takesPair_of_narrow (.inl h)
  have hlt : elemAt m p 1 i < 2 ^ 16 := elemAt_lt m p i (by decide)
  rw [loadedWords, hpair, if_neg Bool.false_ne_true, if_pos h, elemsFrom_eq_map]
  simp only [List.getD_eq_getElem?_getD, List.getElem?_map, List.getElem?_range hi, Option.map_some, Option.getD_some, Nat.zero_add,
    Val.isNan, decide_eq_true_eq]
  split
  · rfl
  · exact Nat.mod_eq_of_lt (by omega)

/-- The I8 elements of a tile, extended by their sign. -/
theorem loadedWords_int {f : FL} (h : f.opxType = 6) (m : Memory) (p : Nat) {i : Nat} (hi : i < 1024) :
    (loadedWords f m p).getD i 0 % 2 ^ 32 = ((BitVec.ofNat 8 (elemAt m p 6 i)).signExtend 32).toNat := by
  have hpair := takesPair_of_narrow (.inr h)
  have hlt : elemAt m p 6 i < 2 ^ 8 := elemAt_lt m p i (by decide)
  obtain ⟨b, hb⟩ : ∃ b, b = BitVec.ofNat 8 (elemAt m p 6 i) := ⟨_, rfl⟩
  have hsext : (sextNat (elemAt m p 6 i) 8 % 2 ^ 32).toNat = (b.signExtend 32).toNat := by
    rw [BitVec.signExtend, BitVec.toNat_ofInt, ← sextNat_toNat, hb, BitVec.toNat_ofNat, Nat.mod_eq_of_lt hlt]
    rfl
  rw [loadedWords, hpair, if_neg Bool.false_ne_true, if_neg (by omega), elemsFrom_eq_map, ← hb]
  simp only [List.getD_eq_getElem?_getD, List.getElem?_map, List.getElem?_range hi, Option.map_some, Option.getD_some, Nat.zero_add,
    hsext]
  exact Nat.mod_eq_of_lt (BitVec.isLt _)

/-! ### MDRAIN (R278) -/

/-- The bytes of the versions that MDRAIN makes of an accumulator's words, and its flags. -/
def drained (f : FL) (e : Entry) (ws : List Nat) : List (List (Nat × Byte)) × BitVec 6 :=
  if takesPair f then ([wordBytes ws 0 512, wordBytes ws 512 512], 0)
  else if f.opxType = 1 then
    let (xs, fl) := joinFlags (ws.map fun w => bf16.round e.rm (f32.val w))
    ([packBytes 2 0 xs], fl)
  else ([packBytes 1 0 (ws.map fun w => narrow 6 (f.sat = 1) (sextNat w 32))], 0)

/-- The acting stream once MDRAIN has taken the accumulator. -/
def Stream.afterDrain (t : Stream) (f : FL) : Stream :=
  let u := { t with lastDrained := some (BitVec.ofNat 2 (accNo f)) }
  if f.bit 61 then u.zeroAcc (accNo f) else u

theorem Stream.afterDrain_running (t : Stream) (f : FL) : (t.afterDrain f).running = t.running := by
  unfold Stream.afterDrain
  dsimp only
  split <;> rfl

theorem Stream.afterDrain_lastDrained (t : Stream) (f : FL) : (t.afterDrain f).lastDrained = some (BitVec.ofNat 2 (accNo f)) := by
  unfold Stream.afterDrain
  dsimp only
  split <;> rfl

theorem accWord_afterDrain (t : Stream) (f : FL) {m n : Nat} (hm : m < 32) (hn : n < 32) :
    accWord (t.afterDrain f) (accNo f) m n = if f.opx.getLsbD 4 then 0 else accWord t (accNo f) m n := by
  have hbit : f.bit 61 = f.opx.getLsbD 4 := rfl
  unfold Stream.afterDrain
  rw [hbit]
  dsimp only
  split
  · rw [accWord_zeroAcc _ _ _ hm hn, if_pos rfl]
  · rfl

/-- What MDRAIN starts on the destination `d`. -/
def mdrainWork (f : FL) (e : Entry) (d : Operand) : Work :=
  { srcs := [], dsts := pairOps d (takesPair f),
    run := fun s =>
      { versions := (drained f e (s.st.accWords (accNo f))).1, flags := (drained f e (s.st.accWords (accNo f))).2,
        post := fun s => s.setSt (s.st.afterDrain f) } }

theorem execMdrain_atHead {f : FL} {s : State} {e : Entry} (h : s.AtHead 1 e) :
    exec (.mdrain f) s = s.startEntry 1 e (f.sk = 1) f.dq (mdrainWork f e (s.entryOp f.dt e.edt false)) := by
  show execMdrain f s = _
  exact longInstr_atHead h rfl

/-- MDRAIN starts: its destinations' versions hold the drained bytes, the accumulator is zeroed with CLR, and it is the last
drained. -/
theorem execMdrain_ready {f : FL} {s s1 : State} {e : Entry} {ds : List Operand}
    (hds : pairOps (s.entryOp f.dt e.edt false) (takesPair f) = ds) (h : MatrixReady s s1 f e [] ds) :
    ∃ t r, exec (.mdrain f) s = .next t ∧ OnlyStream s1 t s.cur ∧ t.st.running = s1.st.running ++ [r] ∧
      r.versions = ds.mapIdx (fun n o =>
        { tile := o.key, bytes := (drained f e (s.st.accWords (accNo f))).1.getD n [], quota := f.dq, skip := false }) ∧
      t.st.lastDrained = some (BitVec.ofNat 2 (accNo f)) ∧
      ∀ m < 32, ∀ n < 32, accWord t.st (accNo f) m n = if f.opx.getLsbD 4 then 0 else accWord s.st (accNo f) m n := by
  subst hds
  obtain ⟨d, hd⟩ : ∃ d, d = s.entryOp f.dt e.edt false := ⟨_, rfl⟩
  have hexec := (execMdrain_atHead h.1).trans (startEntry_of_matrixReady (w := mdrainWork f e _) h rfl)
  have hadmits := Admits.of_starts h.2.1
  obtain ⟨-, -, hadmit⟩ := id hadmits
  have hpop := State.st_popHead_matrix s1
  obtain ⟨t, hnext, honly, hst⟩ := commit_of_setSt (s1 := s1) (unit := 1) (e := e) (dq := f.dq) (w := mdrainWork f e d)
    (g := fun t => t.afterDrain f) rfl rfl
  rw [← hd] at hexec ⊢
  refine ⟨t, (mdrainWork f e d).started 1 e f.dq ((mdrainWork f e d).run (s1.popHead 1)), hexec.trans hnext,
    hadmits.cur ▸ honly, ?running, ?versions, ?last, fun m hm n hn => ?words⟩
  case running =>
    rw [hst]
    dsimp only
    rw [Stream.afterDrain_running, hpop]
  case versions =>
    have hwords : (s1.popHead 1).st.accWords (accNo f) = s.st.accWords (accNo f) := by rw [hpop, hadmit]; rfl
    rw [← hwords]
    rfl
  case last =>
    rw [hst]
    exact Stream.afterDrain_lastDrained ..
  case words =>
    have hword : accWord (s1.popHead 1).st (accNo f) m n = accWord s.st (accNo f) m n := by rw [hpop, hadmit]; rfl
    rw [hst, ← hword, ← accWord_afterDrain _ f hm hn]
    rfl

end Sys2Proof.Machine
namespace Sys2Proof.Machine

section Drained

variable {f : FL} (e : Entry) (t : Stream) (m : Memory) (p : Nat) {i : Nat}

/-- A pair of tiles holds the words, 512 each. -/
theorem elemAt_drained_pair (h : f.opxType = 0 ∨ f.opxType = 2) {j : Nat} (hj : j < 2) (hi : i < 512) :
    elemAt (m.patch p ((drained f e (t.accWords (accNo f))).1.getD j [])) p 0 i =
      accWord t (accNo f) ((512 * j + i) / 32) (i % 32) := by
  have hpair := takesPair_of_wide h
  obtain ⟨ws, hws⟩ : ∃ ws, ws = t.accWords (accNo f) := ⟨_, rfl⟩
  have hlen : ws.length = 1024 := hws ▸ length_accWords t (accNo f)
  have hword : ((ws.drop (512 * j)).take 512).getD i 0 = accWord t (accNo f) ((512 * j + i) / 32) (i % 32) := by
    have hget := accWords_getD t (accNo f) (i := 512 * j + i) (by omega)
    rw [show (512 * j + i) % 32 = i % 32 by omega] at hget
    rw [← hget, ← hws]
    simp [List.getD_eq_getElem?_getD, List.getElem?_drop, hi]
  have hbytes : (drained f e ws).1.getD j [] = packBytes 4 0 ((ws.drop (512 * j)).take 512) := by
    rw [drained, if_pos hpair]
    match j, hj with
    | 0, _ => rfl
    | 1, _ => rfl
  rw [← hws, hbytes, ← hword]
  refine elemAt_patch_packBytes m p 0 (by decide) ?_ ?_
  · rw [List.length_take, List.length_drop, hlen]; omega
  · rw [hword]; exact accWord_lt ..

/-- One tile holds values of the words, packed as elements of its type. -/
theorem elemAt_drained_map {c : Nat} (hc : c ≠ 8) {g : Nat → Nat} (hg : ∀ w, g w < 2 ^ typeBits c) (hi : i < 1024) :
    elemAt (m.patch p (packBytes (typeBits c / 8) 0 ((t.accWords (accNo f)).map g))) p c i =
      g (accWord t (accNo f) (i / 32) (i % 32)) := by
  have hlen : i < (t.accWords (accNo f)).length := by rw [length_accWords]; exact hi
  have hget : ((t.accWords (accNo f)).map g).getD i 0 = g (accWord t (accNo f) (i / 32) (i % 32)) := by
    rw [← accWords_getD t (accNo f) hi]
    simp [List.getD_eq_getElem?_getD, hlen]
  rw [elemAt_patch_packBytes m p c hc (by rwa [List.length_map]) (by rw [hget]; exact hg _), hget]

theorem elemAt_drained_bf16 (h : f.opxType = 1) (hi : i < 1024) :
    elemAt (m.patch p ((drained f e (t.accWords (accNo f))).1.getD 0 [])) p 1 i =
      (bf16.round e.rm (f32.val (accWord t (accNo f) (i / 32) (i % 32)))).1 := by
  have hpair := takesPair_of_narrow (.inl h)
  rw [drained, hpair, if_neg Bool.false_ne_true, if_pos h, joinFlags, List.map_map, List.getD_cons_zero]
  exact elemAt_drained_map (c := 1) (g := fun w => (bf16.round e.rm (f32.val w)).1) t m p (by decide)
    (fun w => bf16_round_lt e.rm (f32.val w)) hi

theorem elemAt_drained_int (h : f.opxType = 6) (hi : i < 1024) :
    elemAt (m.patch p ((drained f e (t.accWords (accNo f))).1.getD 0 [])) p 6 i =
      narrow 6 (f.sat = 1) (BitVec.ofNat 32 (accWord t (accNo f) (i / 32) (i % 32))).toInt := by
  have hpair := takesPair_of_narrow (.inr h)
  have hsext : (BitVec.ofNat 32 (accWord t (accNo f) (i / 32) (i % 32))).toInt =
      sextNat (accWord t (accNo f) (i / 32) (i % 32)) 32 := by
    rw [← sextNat_toNat, BitVec.toNat_ofNat, Nat.mod_eq_of_lt (accWord_lt ..)]
  rw [hsext, drained, hpair, if_neg Bool.false_ne_true, if_neg (by omega), List.getD_cons_zero]
  exact elemAt_drained_map (c := 6) (g := fun w => narrow 6 (f.sat = 1) (sextNat w 32)) t m p (by decide)
    (fun w => narrow_lt 6 _ (sextNat w 32)) hi

end Drained

/-! ### CBLOAD (R281) -/

/-- The codebook that CBLOAD reads at its offset in the operand `a`. -/
def loadedBook (e : Entry) (m : Memory) (a : Operand) : BitVec 256 :=
  BitVec.ofNat 256 (m.readLE (tilePlace a.key + e.xs1.toNat) 32)

/-- What CBLOAD starts on the source `a` and the destinations `ds`, once its number and its offset are accepted. -/
def cbloadWork (f : FL) (e : Entry) (a : Operand) (ds : List Operand) : Work :=
  let n := (f.imm.extractLsb' 0 6).toNat
  { srcs := [a], dsts := ds, reads := [(tilePlace a.key + e.xs1.toNat, 32)],
    run := fun s =>
      { codebook := some (n, loadedBook e s.mem a), versions := [[]],
        post := fun t => { t with codebooks := tset 0 t.codebooks (t.coreKeyOf t.cur * 64 + n) (loadedBook e s.mem a) } } }

theorem execCbload_atHead {f : FL} {s : State} {e : Entry} (h : s.AtHead 1 e)
    (hn : (f.imm.extractLsb' 0 6).toNat < s.launch.m.ncb) (halign : e.xs1.toNat % 32 = 0) (hend : e.xs1.toNat ≤ 2016) :
    exec (.cbload f) s = s.startEntry 1 e (f.sk = 1) f.dq
      (cbloadWork f e (s.entryOp f.ta e.eta true) (if f.opx.getLsbD 0 then [s.entryOp f.dt e.edt false] else [])) := by
  show execCbload f s = _
  refine longInstr_atHead h ?_
  have hoffset : ¬ (e.xs1.toNat % 32 != 0 || decide (2016 < e.xs1.toNat)) = true := by simp [halign, hend]
  dsimp only
  rw [if_neg (Nat.not_le.2 hn), if_neg hoffset]
  rfl

theorem State.st_withCodebooks (s : State) (c : Table (BitVec 256)) : ({ s with codebooks := c } : State).st = s.st := rfl

/-- The codebook stands on the acting stream's core at once. -/
theorem cbloadWork_after (f : FL) (e : Entry) (a : Operand) (ds : List Operand) (s1 : State) :
    (cbloadWork f e a ds).after s1 1 =
      { s1.popHead 1 with
        codebooks := tset 0 (s1.popHead 1).codebooks
          ((s1.popHead 1).coreKeyOf (s1.popHead 1).cur * 64 + (f.imm.extractLsb' 0 6).toNat)
          (loadedBook e (s1.popHead 1).mem a) } := rfl

theorem execCbload_ready {f : FL} {s s1 : State} {e : Entry} {ds : List Operand}
    (hds : ds = if f.opx.getLsbD 0 then [s.entryOp f.dt e.edt false] else [])
    (h : MatrixReady s s1 f e [s.entryOp f.ta e.eta true] ds) (hn : (f.imm.extractLsb' 0 6).toNat < s.launch.m.ncb)
    (halign : e.xs1.toNat % 32 = 0) (hend : e.xs1.toNat ≤ 2016) :
    ∃ t r, exec (.cbload f) s = .next t ∧ t.st.running = s1.st.running ++ [r] ∧
      r.versions = ds.map (fun o => { tile := o.key, bytes := [], quota := f.dq, skip := false }) ∧
      (let book := loadedBook e s.mem (s.entryOp f.ta e.eta true)
       let n := (f.imm.extractLsb' 0 6).toNat
       r.codebook = some (n, book) ∧
       ∀ k, tget 0 t.codebooks k = if k = s.coreKeyOf s.cur * 64 + n then book else tget 0 s.codebooks k) := by
  obtain ⟨a, ha⟩ : ∃ a, a = s.entryOp f.ta e.eta true := ⟨_, rfl⟩
  have hadmits := Admits.of_starts h.2.1
  have hmem : (s1.popHead 1).mem = s.mem := hadmits.mem
  have hcore : (s1.popHead 1).coreKeyOf (s1.popHead 1).cur = s.coreKeyOf s.cur := by
    rw [(OnlyStream.popHead s1 1).cur, hadmits.cur, ← hadmits.coreKeyOf]
    rfl
  obtain ⟨w, hw⟩ : ∃ w, w = cbloadWork f e a ds := ⟨_, rfl⟩
  have hexec : exec (.cbload f) s = s1.commit 1 e false f.dq w := by
    rw [execCbload_atHead h.1 hn halign hend, ← hds, ← ha, ← hw]
    exact startEntry_of_matrixReady (by rw [hw]; exact ha ▸ h) (by rw [hw]; rfl)
  have hafter := cbloadWork_after f e a ds s1
  rw [← hw, hmem, hcore, show (s1.popHead 1).codebooks = s.codebooks from hadmits.codebooks] at hafter
  have hst : (w.after s1 1).st = (s1.popHead 1).st := by rw [hafter, State.st_withCodebooks]
  rw [← ha]
  refine ⟨_, w.started 1 e f.dq (w.run (s1.popHead 1)), hexec.trans (commit_of_always_id (by rw [hw]; rfl) s1 1 e f.dq), ?running,
    ?versions, ?codebook, fun k => ?codebooks⟩
  case running => rw [State.st_setSt, hst, State.st_popHead_matrix]
  case versions =>
    rw [hw, hds]
    split <;> rfl
  case codebook => rw [hw, ← hmem]; rfl
  case codebooks => rw [State.setSt_codebooks, hafter, tget_tset]

end Sys2Proof.Machine
namespace Sys2Proof.Machine

/-! ### The moves of accumulators (R278 to R281) -/

theorem map_tile_mapIdx (ds : List Operand) (bytes : Nat → List (Nat × Byte)) (q : BitVec 4) :
    (ds.mapIdx fun n o => ({ tile := o.key, bytes := bytes n, quota := q, skip := false } : Version)).map Version.tile =
      ds.map Operand.key := by
  apply List.ext_getElem <;> simp

theorem accumulatorTransfers : AccumulatorTransfers := by
  intro f s s1 e acc ty d a twin drains loads
  have hwide : ty = 0 ∨ ty = 2 → ∀ o, pairOps o (takesPair f) = [o, twin o] := fun hty o => by
    rw [takesPair_of_wide hty]; rfl
  have hnarrow : ty = 1 ∨ ty = 6 → ∀ o, pairOps o (takesPair f) = [o] := fun hty o => by
    rw [takesPair_of_narrow hty]; rfl
  have hdrains : ∀ ds, pairOps d (takesPair f) = ds → MatrixReady s s1 f e [] ds → drains ds := by
    intro ds hds hready
    obtain ⟨t, r, hexec, honly, hrunning, hversions, hlast, hwords⟩ := execMdrain_ready hds hready
    have hget : ∀ j v, r.versions[j]? = some v →
        j < ds.length ∧ v.bytes = (drained f e (s.st.accWords acc)).1.getD j [] ∧ v.quota = f.dq ∧ v.skip = false := by
      intro j v hv
      rw [hversions, List.getElem?_mapIdx, Option.map_eq_some_iff] at hv
      obtain ⟨o, ho, rfl⟩ := hv
      exact ⟨(List.getElem?_eq_some_iff.1 ho).1, rfl, rfl, rfl⟩
    refine ⟨t, r, hexec, honly, hrunning, by rw [hversions, map_tile_mapIdx], hlast, fun v hv => ?flags, hwords,
      fun j v hv => ?elements⟩
    case flags =>
      obtain ⟨j, hj⟩ := List.mem_iff_getElem?.1 hv
      exact (hget j v hj).2.2
    case elements =>
      obtain ⟨hj, hbytes, -⟩ := hget j v hv
      have hfirst : ty = 1 ∨ ty = 6 → j = 0 := fun hty => by
        rw [← hds, hnarrow hty] at hj
        exact Nat.lt_one_iff.1 hj
      rw [hbytes]
      refine ⟨fun hty i hi => ?pair, fun hty i hi => ?bf16, fun hty i hi => ?int⟩
      case pair =>
        rw [← hds, hwide hty] at hj
        exact elemAt_drained_pair e s.st s.mem _ hty hj hi
      case bf16 => rw [hfirst (.inl hty)]; exact elemAt_drained_bf16 e s.st s.mem _ hty hi
      case int => rw [hfirst (.inr hty)]; exact elemAt_drained_int e s.st s.mem _ hty hi
  refine ⟨fun hty => hdrains _ (hwide hty d), fun hty => hdrains _ (hnarrow hty d), mzero_makesAccumulator,
    fun hty h => mldacc_makesAccumulator (hwide hty a) h fun m hm n hn => loadedWords_pair hty _ _ (by omega),
    fun hty h => mldacc_makesAccumulator (hnarrow (.inl hty) a) h fun m hm n hn => loadedWords_bf16 hty _ _ (by omega),
    fun hty h => mldacc_makesAccumulator (hnarrow (.inr hty) a) h fun m hm n hn => loadedWords_int hty _ _ (by omega),
    fun _ h => execCbload_ready rfl h⟩

/-! ### The checks at the head of the matrix queue (R270) -/

/-- A stream that takes a trap stops, and keeps its matrix queue, its format queue and every tile. -/
theorem takeTrap_stops {s : State} (hs : s.st.stopped = false) (pc : Word) (c : Cause) :
    (s.takeTrap s.cur 1 pc s.st.pc c).st.stopped = true ∧ (s.takeTrap s.cur 1 pc s.st.pc c).st.matrixQ = s.st.matrixQ ∧
      (s.takeTrap s.cur 1 pc s.st.pc c).st.fq = s.st.fq ∧ (s.takeTrap s.cur 1 pc s.st.pc c).tiles = s.tiles := by
  have hst : (s.takeTrap s.cur 1 pc s.st.pc c).st =
      { s.st with stopped := true, cut := s.st.cutAt s.st.pc, wait := none, passed := [] } := by
    rw [State.st, State.takeTrap_cur, State.takeTrap_stream, if_pos ⟨rfl, hs⟩]
    rfl
  rw [hst]
  exact ⟨rfl, rfl, rfl, State.takeTrap_tiles ..⟩

section Pop

variable {i : Instr} {f : FL} {s : State} {e : Entry} {banks : List (BitVec 16)} {check : State → Word → Option Nat}
  {srcs : List (BitVec 16 × (Entry → BitVec 16) × Nat)} {run : Word → State → List Nat → List Nat × BitVec 6}

theorem matrixPop_of_bankConflict (h : s.AtHead 1 e) (hb : banksDiffer banks = false) :
    matrixPop i f s banks check srcs run = s.entryTrap 1 e { code := 2, args := [e.w0.toNat, e.w1.toNat] } := by
  rw [matrixPop, longWith_atHead h]
  simp only [hb, Bool.not_false, if_true]

theorem matrixPop_of_unbound (h : s.AtHead 1 e) (hb : banksDiffer banks = true) (hu : e.unbound = true) :
    matrixPop i f s banks check srcs run = s.entryTrap 1 e { code := 3, args := [e.w0.toNat, e.w1.toNat] } := by
  rw [matrixPop, longWith_atHead h]
  simp only [hb, hu, Bool.not_true, Bool.false_eq_true, if_false, if_true]

theorem matrixPop_of_check {sub : Nat} (h : s.AtHead 1 e) (hb : banksDiffer banks = true) (hu : e.unbound = false)
    (hc : check s (s.st.fq.headD 0) = some sub) :
    matrixPop i f s banks check srcs run = s.entryTrap 1 e (formatCause sub (s.st.fq.headD 0).toNat e) := by
  rw [matrixPop, longWith_atHead h]
  simp only [hb, hu, hc, Bool.not_true, Bool.false_eq_true, if_false]

end Pop

/-- A word with a reserved format or a reserved bit has subcode 1, whatever the instruction. -/
theorem formatCheck_of_reserved {w : Word} (h : 3 ≤ fwA w ∨ 3 ≤ fwB w ∨ w.extractLsb' 28 4 ≠ 0) (ncb : Nat)
    (fmts : Nat → Nat → Bool) (scales sat drained : Bool) : formatCheck w ncb fmts scales sat drained = some 1 := by
  unfold formatCheck
  exact if_pos (by simpa only [Bool.or_eq_true, decide_eq_true_eq, bne_iff_ne, or_assoc] using h)

theorem banksDiffer_pair (a b : BitVec 16) : banksDiffer [a, b] = true ↔ ¬ topTile a / 32 = topTile b / 32 := by
  simp only [banksDiffer, List.all_cons, List.all_nil, Bool.and_true, bne_iff_ne, ne_eq]
  exact not_congr eq_comm

theorem banksDiffer_triple (a b c : BitVec 16) : banksDiffer [a, b, c] = true ↔
    ¬ topTile a / 32 = topTile b / 32 ∧ ¬ (topTile a / 32 = topTile c / 32 ∨ topTile b / 32 = topTile c / 32) := by
  simp only [banksDiffer, List.all_cons, List.all_nil, Bool.and_true, Bool.and_eq_true, bne_iff_ne, ne_eq, not_or, and_assoc]
  rw [eq_comm (a := topTile b / 32), eq_comm (a := topTile c / 32), eq_comm (a := topTile c / 32)]

/-- The tiles whose bank groups MMA compares. -/
def mmaBanks (f : FL) : List (BitVec 16) := if f.bit 57 then [f.ta, f.tb, f.tc] else [f.ta, f.tb]

theorem banksDiffer_mmaBanks (f : FL) : banksDiffer (mmaBanks f) = true ↔ ¬ topTile f.ta / 32 = topTile f.tb / 32 ∧
    ¬ (f.opx.getLsbD 0 = true ∧ (topTile f.ta / 32 = topTile f.tc / 32 ∨ topTile f.tb / 32 = topTile f.tc / 32)) := by
  have hbit : f.bit 57 = f.opx.getLsbD 0 := rfl
  rw [mmaBanks, hbit]
  cases f.opx.getLsbD 0 with
  | false => simp only [Bool.false_eq_true, if_false, banksDiffer_pair, false_and, not_false_eq_true, and_true]
  | true => simp only [if_true, banksDiffer_triple, true_and]

/-- An instruction that pops a format word, and compares the bank groups of `banks`. -/
def PopsFormat (i : Instr) (f : FL) (s : State) (banks : List (BitVec 16)) : Prop :=
  ∃ check srcs run, exec i s = matrixPop i f s banks check srcs run ∧
    ∀ w, 3 ≤ fwA w ∨ 3 ≤ fwB w ∨ w.extractLsb' 28 4 ≠ 0 → check s w = some 1

theorem mma_popsFormat (f : FL) (s : State) : PopsFormat (.mma f) f s (mmaBanks f) := by
  refine ⟨?check, ?srcs, ?run, ?exec, fun w hr => ?_⟩
  case exec =>
    show execMma f s = _
    unfold execMma mmaBanks
    rfl
  exact formatCheck_of_reserved hr ..

theorem mmach_popsFormat (f : FL) (s : State) : PopsFormat (.mmach f) f s [] := by
  refine ⟨_, _, _, (rfl : execMmach f s = _), fun w hr => ?_⟩
  exact formatCheck_of_reserved hr ..

theorem mmai_popsFormat (f : FL) (s : State) : PopsFormat (.mmai f) f s [f.ta, f.tb] := by
  refine ⟨_, _, _, (rfl : execMmai f s = _), fun w hr => ?_⟩
  exact formatCheck_of_reserved hr ..

/-- The instruction stops the stream with a cause of this code and subcode, its entry still at the head of its queue. -/
def StopsAtHead (s : State) (e : Entry) (i : Instr) (code sub : Nat) : Prop :=
  ∃ (t : State) (c : Cause), exec i s = .next t ∧ c.code = code ∧ c.sub = sub ∧ t = s.takeTrap s.cur 1 e.pc s.st.pc c ∧
    t.st.stopped = true ∧ t.st.matrixQ = s.st.matrixQ ∧ t.st.fq = s.st.fq ∧ t.tiles = s.tiles

section Checks

variable {i : Instr} {f : FL} {s : State} {e : Entry} {banks : List (BitVec 16)}

theorem stopsAtHead_of_entryTrap {c : Cause} (hs : s.st.stopped = false) (h : exec i s = s.entryTrap 1 e c) :
    StopsAtHead s e i c.code c.sub := ⟨_, c, h, rfl, rfl, rfl, takeTrap_stops hs e.pc c⟩

variable (hp : PopsFormat i f s banks) (h : s.AtHead 1 e) (hs : s.st.stopped = false)
include hp h hs

theorem PopsFormat.bankConflict (hb : banksDiffer banks = false) : StopsAtHead s e i 2 0 := by
  obtain ⟨check, srcs, run, hexec, -⟩ := hp
  exact stopsAtHead_of_entryTrap hs (hexec.trans (matrixPop_of_bankConflict h hb))

theorem PopsFormat.unbound (hu : e.unbound = true) (hb : banksDiffer banks = true) : StopsAtHead s e i 3 0 := by
  obtain ⟨check, srcs, run, hexec, -⟩ := hp
  exact stopsAtHead_of_entryTrap hs (hexec.trans (matrixPop_of_unbound h hb hu))

theorem PopsFormat.reserved {w : Word} (hw : w = s.st.fq.headD 0) (hr : 3 ≤ fwA w ∨ 3 ≤ fwB w ∨ w.extractLsb' 28 4 ≠ 0)
    (hu : e.unbound = false) (hb : banksDiffer banks = true) : StopsAtHead s e i 4 1 := by
  obtain ⟨check, srcs, run, hexec, hcheck⟩ := hp
  exact stopsAtHead_of_entryTrap hs (hexec.trans (matrixPop_of_check h hb hu (hw ▸ hcheck w hr)))

end Checks

theorem matrixChecksBeforeStart : MatrixChecksBeforeStart := by
  intro f s e h hs stops group scaled clash clashC w reserved after
  have hmmai : banksDiffer [f.ta, f.tb] = true ↔ ¬ clash := banksDiffer_pair f.ta f.tb
  have hmma : banksDiffer (mmaBanks f) = true ↔ ¬ clash ∧ ¬ (scaled ∧ clashC) := banksDiffer_mmaBanks f
  have hmmaClash : clash ∨ scaled ∧ clashC → banksDiffer (mmaBanks f) = false := fun hc => by
    rw [← Bool.not_eq_true, hmma, ← not_or]
    exact Classical.not_not.2 hc
  have hafter : ∀ code sub, (∀ i banks, PopsFormat i f s banks → banksDiffer banks = true → stops i code sub) → after code sub :=
    fun code sub hstop => ⟨fun hc => hstop _ _ (mmai_popsFormat f s) (hmmai.2 hc),
      fun hc hcC => hstop _ _ (mma_popsFormat f s) (hmma.2 ⟨hc, hcC⟩), hstop _ _ (mmach_popsFormat f s) rfl⟩
  refine ⟨fun hc => ⟨?mmaiConflict, ?mmaConflict⟩, fun hsc hc => ?scaledConflict, fun hu => ?unbound, fun hu hr => ?reserved⟩
  case mmaiConflict => exact (mmai_popsFormat f s).bankConflict h hs (by rw [← Bool.not_eq_true, hmmai]; exact Classical.not_not.2 hc)
  case mmaConflict => exact (mma_popsFormat f s).bankConflict h hs (hmmaClash (.inl hc))
  case scaledConflict => exact (mma_popsFormat f s).bankConflict h hs (hmmaClash (.inr ⟨hsc, hc⟩))
  case unbound => exact hafter 3 0 fun i banks hp hb => hp.unbound h hs hu hb
  case reserved => exact hafter 4 1 fun i banks hp hb => hp.reserved h hs rfl hr hu hb

/-- Settles O40: the start of a ready entry is one known commit, whose accumulator words and packed elements read back, and a failed
check at the head of the queue is one trap. -/
theorem accumulatorMoves : Obligations.AccumulatorMoves := ⟨accumulatorTransfers, matrixChecksBeforeStart⟩

end Sys2Proof.Machine
end
